-- ==== Sys2Proof/Word.lean ====
section
/-! DEFINITION. The word types of the device (spec/00_scope.md, Registers; spec/04, R97) and their plainest arithmetic. -/

namespace Sys2Proof

/-- A byte. -/
abbrev Byte := BitVec 8
/-- A register of the management address space (00_scope, Registers). -/
abbrev Word := BitVec 32
/-- A scalar register, a predicate, an instruction word (R97, R126). -/
abbrev DWord := BitVec 64
/-- One scratchpad line of 64 bytes, byte 0 in bits [7:0] (R103). -/
abbrev Line := BitVec 512

/-- The two's complement value of a word (`signed` of R73). -/
abbrev signed {n : Nat} (w : BitVec n) : Int := w.toInt

end Sys2Proof
end

