-- ==== Sys2Proof/Syntax.lean ====
section
/-! DEFINITION. The commands of the block: one constructor of `Instr` per row of spec/opcode_table.json, with the
operands the row's rule gives it, and the types those operands are made of. A range the spec states for an operand is
carried by its type (`Fin`, `BitVec`) where one field suffices, and by WellFormed.lean where it depends on others. -/

namespace Sys2Proof

/-! ### Operands that name a place -/

/-- A logical tile (R18), or the shadow that runs beside it in a sampled attempt (R318). -/
structure TileRef where
  d : Fin 144
  l : Fin 8
  shadow : Bool := false
deriving DecidableEq, Repr

/-- A thread group of a tile, 0 to 127 (R99). -/
abbrev GroupId := Fin 128
/-- A link LNK00 to LNK23 (R14). -/
abbrev LinkId := Fin 24

/-- A hop of this chip (R203): a street link leaving a district, a local switch, a bridge, a link transmitter, a link
ingress. -/
inductive HopId where
  | street (d : Fin 144) (port : Fin 4)
  | localSwitch (d : Fin 144)
  | bridge (q : Fin 4) (down : Bool)
  | linkTx (n : LinkId)
  | linkIn (n : LinkId)
deriving DecidableEq, Repr

/-- The three engines of a tile (R165, R182). -/
inductive EngineId where
  | array | operand | xred
deriving DecidableEq, Repr

/-- The two Ethernet ports (R396). -/
inductive PortId where
  | host | mgt
deriving DecidableEq, Repr

/-- How the management engine tells stations apart (R417). -/
inductive StationKey where
  | direct (ip : BitVec 128) (port : BitVec 16)
  | forwarded (coord : Word) (station : BitVec 16)
deriving DecidableEq, Repr

/-- Who makes a register access or an operation (R9, R53). -/
inductive Source where
  | self
  | host (addr : BitVec 128)
  | mgt (key : StationKey)
  | i3c
deriving DecidableEq, Repr

/-! ### Weakan instruction fields (R126, R129, R176) -/

/-- The guard of a guarded instruction (R132). -/
structure Guard where
  pg : BitVec 3
  pn : Bool
deriving DecidableEq, Repr

/-- Format S (R129). -/
structure SFields where
  fn : BitVec 6
  d : BitVec 6
  a : BitVec 6
  i : Bool
  imm : BitVec 32
deriving DecidableEq, Repr

/-- Format M (R140). -/
structure MFields where
  fn : BitVec 4
  space : BitVec 2
  d : BitVec 6
  a : BitVec 6
  imm : BitVec 32
deriving DecidableEq, Repr

/-- Format V (R176). -/
structure VFields where
  fn : BitVec 6
  d : BitVec 5
  a : BitVec 5
  b : BitVec 5
  c : BitVec 5
  sb : Bool
  sr : BitVec 6
deriving DecidableEq, Repr

/-- Bits [51:36] of MMA, CHK.ROW and CHK.COL (R172, R187). -/
structure PairFields where
  x : BitVec 2
  ta : BitVec 3
  tb : BitVec 3
  fa : BitVec 4
  fb : BitVec 4
deriving DecidableEq, Repr

/-- TLD (R169). -/
structure TldFields where
  t : BitVec 3
  fmt : BitVec 4
  a : BitVec 6
  imm : BitVec 32
deriving DecidableEq, Repr

/-- XLD and XST (R171). -/
structure XmFields where
  x : BitVec 2
  a : BitVec 6
  imm : BitVec 32
deriving DecidableEq, Repr

/-- RND.EXS (R174). -/
structure RndFields where
  x : BitVec 2
  mode : BitVec 2
  sat : Bool
  fmt : BitVec 4
  a : BitVec 6
  c : BitVec 6
  stream : BitVec 16
deriving DecidableEq, Repr

/-- XRED PACK and ADD (R182): `idx` is the send entry of PACK, the arrival tag of ADD. -/
structure XredFields where
  x : BitVec 2
  r0 : BitVec 6
  rn : BitVec 6
  idx : BitVec 9
  line : BitVec 17
deriving DecidableEq, Repr

/-- XRED FCOMB (R182). -/
structure FcombFields where
  d : BitVec 5
  a : BitVec 5
  hi : Bool
  tag : BitVec 9
  line : BitVec 17
deriving DecidableEq, Repr

/-! ### Units on the network -/

/-- A line or a flit on a road, with its road tag (R204) and the end mark of R183; `data` is one line of 64 bytes on a
street hop and 240 bytes on a link hop. -/
structure RoadUnit where
  road : BitVec 16
  ms : BitVec 8
  hops : BitVec 8
  last : Bool
  data : List Byte
deriving DecidableEq, Repr

/-- The fields of a WAY flit (R200). -/
structure WayFlit where
  kind : Byte
  round : Byte
  jobMs : BitVec 48
  milestone : BitVec 48
  origin : BitVec 16
  sender : Word
  time : Word
  flags : Byte
  causes : Byte
  seq : Word
  freezeFrom : BitVec 48
  resume : Word
deriving DecidableEq, Repr

/-! ### What an event brings from outside -/

/-- How a device-memory read ended (R299, R301, R304). -/
inductive MemOutcome where
  | ok | corrected | uncorrectable | checkFail | parityFail
deriving DecidableEq, Repr

/-- What the accesses of a command to device memory meet, by the address of the 64-byte line, in the order in which they meet it; every
other line is sound (R299 to R304). -/
abbrev Damage := List (Nat × MemOutcome)

/-- The clocks and PLLs of R340 and R355. -/
inductive ClockSource where
  | refclk | timeclk | hubPll | timePll | lpddrPll | hostPll | mgtPll | hbmPll (q : Fin 4) | bundlePll (b : Fin 6)
  | rootPll (q : Fin 4)
deriving DecidableEq, Repr

/-- One tested position at the end of roadworks content (R334), and the least margin its monitors reported in ps (R356). -/
structure RwResult where
  d : Fin 144
  margin : Byte
  scanFails : Bool
  signature : DWord
  residue : Option (BitVec 2 × Option (Fin 64) × Option (Fin 64))
deriving DecidableEq, Repr

/-- What the 1 µs sample reads (R360): the sensed voltage of each die rail in mV; the temperature of each district and the readout
of each stack in °C. The weighted counts are the block's own (R359). -/
structure PowerReading where
  mv : List Nat
  districtC : List Nat
  stackC : List Nat
deriving DecidableEq, Repr

/-- What the JESD216 SFDP tables of the flash say (R432): whether they can be read, the density in MiB, a 64 KiB erase and 4-byte
addressing, and the modes they declare. -/
structure Sfdp where
  readable : Bool
  mib : BitVec 16
  erase64 : Bool
  addr4 : Bool
  ddr8 : Bool
  sdr8 : Bool
  sdr4 : Bool
deriving DecidableEq, Repr

/-- A PTP event message as the MAC stamps it (R386, R388, R389): the port it comes from, the origin or receipt stamp it carries as PTP time
in ns, its correction in ns, its domain, its sequence number, whether it is two-step, and of a Delay_Resp the port whose request it
answers. -/
structure PtpMsg where
  source : BitVec 80
  requester : BitVec 80 := 0
  stamp : Nat
  correction : Int
  domain : Byte
  seqId : BitVec 16
  twoStep : Bool
deriving DecidableEq, Repr

/-! ### The content of an itinerary (R193, R203, R221-R223, R408)

The spec gives the header and the directory byte by byte, and names what each section holds; it gives no layout for
the records of sections 0x01 to 0x06 and 0x0A (log 5), so LOAD carries the records that the copied bytes spell. Sections 0x07 to 0x09 are
read from the bytes. -/

/-- A step record (R223). -/
structure StepRec where
  frames : List Nat
  repeats : Nat
deriving DecidableEq, Repr

/-- What the tiles section holds for one logical tile (R222). -/
structure TileProg where
  lchip : Nat
  d : Fin 144
  l : Fin 8
  groups : Nat
  vregs : Nat
  pages : Nat
  pinned : List Nat
  codeStart : Nat
  codeLen : Nat
  entries : List (List Nat)
  paramLine : Option Nat
  backing : Nat
deriving DecidableEq, Repr

/-- One word of the code section (R130). -/
structure CodeWord where
  lchip : Nat
  d : Fin 144
  addr : Nat
  word : DWord
deriving DecidableEq, Repr

/-- A send table entry (R155). -/
structure SendDef where
  lchip : Nat
  d : Fin 144
  l : Fin 8
  sid : Nat
  group : Nat
  lines : Nat
  depart : Nat
  road : Nat
deriving DecidableEq, Repr

/-- Marks the itinerary gives an arrival entry (R184, R323). -/
inductive ArrivalMark where
  | plain | wire | localDigest | peerDigest
deriving DecidableEq, Repr

/-- An arrival list entry (R110). -/
structure ArrivalDef where
  lchip : Nat
  d : Fin 144
  l : Fin 8
  tag : Nat
  line : Nat
  count : Nat
  mark : ArrivalMark
deriving DecidableEq, Repr

/-- A hop as the itinerary names it: a link hop names a logical chip and a rank (R275). -/
inductive HopDef where
  | street (d : Fin 144) (port : Fin 4)
  | localSwitch (d : Fin 144)
  | bridge (q : Fin 4) (down : Bool)
  | linkTx (next : Nat) (rank : Fin 4)
  | linkIn (prev : Nat) (rank : Fin 4)
deriving DecidableEq, Repr

/-- An entry of a hop's slot table (R203). -/
structure SlotDef where
  lchip : Nat
  hop : HopDef
  slot : Nat
  road : Nat
  count : Nat
deriving DecidableEq, Repr

/-- A frame (R193). -/
structure FrameDef where
  sends : List SendDef
  arrivals : List ArrivalDef
  slots : List SlotDef
deriving DecidableEq, Repr

/-- A road: its hops in order with the chip each lies on, the outputs of each fork (R209), and the tiles and arrival
tags at which it ends (R222). -/
structure RoadDef where
  road : Nat
  hops : List (Nat × HopDef)
  forks : List (Nat × HopDef × List HopDef)
  ends : List (Nat × TileRef × Nat)
deriving DecidableEq, Repr

/-- A region of section 0x06 (R35, R222). -/
structure RegionDef where
  kind : Nat
  units : Nat
deriving DecidableEq, Repr

/-- A relocation record (R408). -/
structure RelocDef where
  kind : Nat
  index : Nat
  units : Nat
  align : Nat
deriving DecidableEq, Repr

/-- Where a patched value lands in the content: a code word's byte, a tile's backing region, or bytes that no other
record shows. -/
inductive PatchTarget where
  | code (lchip : Nat) (d : Fin 144) (addr : Nat) (byte : Nat)
  | backing (lchip : Nat) (d : Fin 144) (l : Fin 8)
  | bytes
deriving DecidableEq, Repr

/-- A base or coordinate patch site (R408); WIDTH is 4 for a coordinate site. -/
structure PatchSite where
  offset : Nat
  symbol : Nat
  addend : Word
  width : Nat
deriving DecidableEq, Repr

/-- The records of the sections 0x01 to 0x06 and 0x0A of an itinerary, whose layout the spec leaves open (R222, log 5), and which of them
each patch site of the sections 0x08 and 0x09 lies in. -/
structure ItinContent where
  steps : List StepRec
  tiles : List TileProg
  code : List CodeWord
  frames : List FrameDef
  roads : List RoadDef
  regions : List RegionDef
  baseTargets : List PatchTarget
  coordTargets : List PatchTarget
deriving DecidableEq, Repr

/-! ### Command frames (R402) -/

/-- A received command frame or management operation: who sent it, the UDP port it was sent to, and its UDP payload (R397, R402). One
that another chip forwarded is taken whole from its MGT flits, and has no UDP port (R416). -/
structure Req where
  sender : Source
  dport : BitVec 16
  frame : List Byte
deriving DecidableEq, Repr

/-- What an ARP request or an IPv6 neighbour solicitation asks for (R397). -/
inductive Asked where
  | v4 (ip : Word)
  | v6 (ip : BitVec 128)
deriving DecidableEq, Repr

/-- A received frame, as far as the dispatch of R397 looks at it. -/
inductive RxFrame where
  | ptp
  | asks (a : Asked)
  | udp (dport : BitVec 16) (payload : List Byte)
  | other
deriving DecidableEq, Repr

/-- The part of an RDMA WRITE message that a packet carries; the first packet names the window, the address and the length of the
whole message (R399, R400). -/
inductive WritePart where
  | first (rkey : Word) (addr : DWord) (length : Word)
  | middle
  | last
  | only (rkey : Word) (addr : DWord) (length : Word)
deriving DecidableEq, Repr

/-- What the RDMA engine looks at in every packet (R399): the queue pair, the packet sequence number, whether an acknowledgement is
asked for, and whether the packet is CE-marked. -/
structure RdmaHead where
  qp : Fin 16
  psn : BitVec 24
  ackReq : Bool
  ce : Bool
deriving DecidableEq, Repr

/-- One entry of PATCH (R410): a base or a coordinate site, its index and the value. -/
structure PatchEntry where
  coord : Bool
  index : Nat
  value : DWord
deriving DecidableEq, Repr

/-- The body of COMMIT (R412). -/
structure CommitBody where
  slot : Fin 4
  schedule : Bool
  map : List Word
  start : Word
  j : DWord
  p : DWord
  schedAddr : DWord
  schedCount : Nat
deriving DecidableEq, Repr

/-- One substitution of DETOUR (R414). -/
inductive Subst where
  | chip (c : Nat) (spare : Word)
  | rank (failed spare : Fin 4) (a b : Nat)
deriving DecidableEq, Repr

/-- The body of DETOUR (R414). -/
structure DetourBody where
  substs : List Subst
  j : DWord
  p : DWord
  g : Word
  t0 : Word
deriving DecidableEq, Repr

/-- The commands of the block, one constructor per row of spec/opcode_table.json. -/
inductive Instr where
  -- Weakan, encoding, control and transfer (spec/05)
  | salu (t : TileRef) (g : GroupId) (gd : Guard) (f : SFields)
  | scmp (t : TileRef) (g : GroupId) (gd : Guard) (f : SFields)
  | pred (t : TileRef) (g : GroupId) (f : SFields)
  | ld (t : TileRef) (g : GroupId) (gd : Guard) (f : MFields)
  | st (t : TileRef) (g : GroupId) (gd : Guard) (f : MFields) (dm : Damage)
  | br (t : TileRef) (g : GroupId) (gd : Guard) (all wide : Bool) (offset : BitVec 24)
  | loop (t : TileRef) (g : GroupId) (i : Bool) (body : BitVec 16) (imm : BitVec 32)
  | nop (t : TileRef) (g : GroupId)
  | msEnd (t : TileRef) (g : GroupId)
  | stop (t : TileRef) (g : GroupId)
  | toll (t : TileRef) (g : GroupId) (scope : BitVec 3)
  | sendSlot (t : TileRef) (g : GroupId) (sid : BitVec 9) (line : BitVec 17)
  | recvWait (t : TileRef) (g : GroupId) (tag : BitVec 9)
  | rngSeed (t : TileRef) (g : GroupId) (i : Bool) (imm : BitVec 32)
  | cntSnap (t : TileRef) (g : GroupId) (d : BitVec 6) (imm : BitVec 32)
  -- Weakan, matrix, vector and check (spec/06)
  | vf (t : TileRef) (g : GroupId) (gd : Guard) (f : VFields)
  | vi (t : TileRef) (g : GroupId) (gd : Guard) (f : VFields)
  | vcvt (t : TileRef) (g : GroupId) (gd : Guard) (fn : BitVec 6) (d a : BitVec 5)
  | vcmp (t : TileRef) (g : GroupId) (gd : Guard) (f : VFields)
  | vsumCanon (t : TileRef) (g : GroupId) (fn : BitVec 6) (d a : BitVec 5)
  | vexp (t : TileRef) (g : GroupId) (gd : Guard) (d a : BitVec 5)
  | vlog (t : TileRef) (g : GroupId) (gd : Guard) (d a : BitVec 5)
  | vrsq (t : TileRef) (g : GroupId) (gd : Guard) (d a : BitVec 5)
  | tld (t : TileRef) (g : GroupId) (f : TldFields)
  | xclr (t : TileRef) (g : GroupId) (x : BitVec 2) (kind : Bool)
  | xld (t : TileRef) (g : GroupId) (f : XmFields)
  | xst (t : TileRef) (g : GroupId) (f : XmFields)
  | mma (t : TileRef) (g : GroupId) (f : PairFields) (kind : Bool)
  | rndExs (t : TileRef) (g : GroupId) (f : RndFields)
  | xredPack (t : TileRef) (g : GroupId) (f : XredFields)
  | xredAdd (t : TileRef) (g : GroupId) (f : XredFields)
  | xredFsum (t : TileRef) (g : GroupId) (d a : BitVec 6)
  | xredFcomb (t : TileRef) (g : GroupId) (f : FcombFields)
  | chkRow (t : TileRef) (g : GroupId) (f : PairFields)
  | chkCol (t : TileRef) (g : GroupId) (f : PairFields)
  | chkCmp (t : TileRef) (g : GroupId) (x : BitVec 2) (rows cols : Bool)
  -- Tile events
  | engineStart (t : TileRef) (e : EngineId)
  | engineEnd (t : TileRef) (e : EngineId)
  | departure (t : TileRef) (sid : BitVec 9)
  | slotMissed (t : TileRef) (sid : BitVec 9)
  | lineArrival (t : TileRef) (tag : BitVec 9)
  | ldDataReturn (t : TileRef) (req : Fin 128) (dm : Damage)
  | stAck (t : TileRef) (req : Fin 128)
  | partitionResetDone (q : Fin 4) (dm : Damage)
  | groupSwapStart (t : TileRef)
  | groupSwapEnd (t : TileRef) (dm : Damage)
  | pageSwapDone (t : TileRef) (page : Fin 128) (dm : Damage)
  -- Milestones
  | chipDone
  | milestoneBoundary (dm : Damage)
  | writeBackStart
  | writeBackDone (dm : Damage)
  | digestHashDone (dm : Damage)
  | roadworksContentDone (results : List RwResult)
  | jobStart
  | restartBoundary (dm : Damage)
  | waymark (n : LinkId) (w : WayFlit)
  | relay (n : LinkId) (w : WayFlit)
  | start (n : LinkId) (w : WayFlit)
  | hold (n : LinkId) (w : WayFlit)
  | release (n : LinkId) (w : WayFlit)
  | resume
  | rippleTimeout
  -- Hops
  | hopUnitReceive (h : HopId) (u : RoadUnit)
  | hopSend (h : HopId)
  | creditStarved (n : LinkId)
  -- Link flits
  | flitTransmit (n : LinkId)
  | flitReceive (n : LinkId) (via : Word) (f : List Byte)
  | nakTimeout (n : LinkId)
  | replayTimeout (n : LinkId)
  | linkReplayAllowanceExpiry (n : LinkId)
  -- Link training
  | lossOfSignal (n : LinkId) (lane : Fin 4)
  | signalLock (n : LinkId) (lane : Fin 4)
  | ts1 (n : LinkId) (b : BitVec 128)
  | ts2 (n : LinkId) (b : BitVec 128) (elapsedPs : Nat)
  | ts3 (n : LinkId) (b : BitVec 128)
  | tsTest (n : LinkId) (lane : Fin 4) (b : BitVec 128)
  | pauseTimerExpiry (n : LinkId)
  | alignDone (n : LinkId) (lanesOk : BitVec 4) (orderOk : Bool)
  | verifyComplete (n : LinkId)
  | trainingRetryTimer (n : LinkId)
  | retrainTimeout (n : LinkId)
  -- Clock
  | ownStretch (d : Fin 144) (margins : Word)
  | sympatheticStretch (d : Fin 144) (port : Fin 4)
  | crossingAlert (d : Fin 144) (port : Fin 4) (plus : Bool)
  | realignment (q : Fin 4)
  | clockLoss (c : ClockSource)
  -- Power
  | powerTick
  | powerSample (r : PowerReading)
  | powerEstimate
  | brdThrotEdge (level : Bool)
  -- Time
  | ptpSync (p : PortId) (m : PtpMsg)
  | followUp (p : PortId) (m : PtpMsg)
  | delayResp (p : PortId) (m : PtpMsg)
  | delayReq (p : PortId) (m : PtpMsg)
  | ptpSyncInterval (p : PortId)
  | timeWrap
  | tmeOutPulse (k : Fin 4)
  | tmeInCapture (j : Fin 2) (rising : Bool)
  | scrub (hbm t2 : MemOutcome)
  -- Journal engine
  | tick
  | sealComplete
  | sealFlashStoreDone (ok : Bool)
  -- Register writes
  | registerWrite (src : Source) (addr : Word) (data : Word)
  | genScratch (src : Source) (data : Word)
  | jrnCtrlSeal (src : Source) (data : Word)
  | jrnCtrlSealFlash (src : Source) (data : Word)
  | jrnRetainHi (src : Source) (data : Word)
  | tmeAdj (src : Source) (data : Word)
  | tmeCtrlUnset (src : Source) (data : Word)
  | tmeOutEn (src : Source) (k : Fin 4) (data : Word)
  | topCoord (src : Source) (data : Word)
  | topShape (src : Source) (data : Word)
  | lnkCtrlRetrain (src : Source) (n : LinkId) (data : Word)
  | lnkCtrlTest (src : Source) (n : LinkId) (data : Word)
  | lnkCtrlEnable (src : Source) (n : LinkId) (data : Word)
  | lnkCtrlDiscard (src : Source) (n : LinkId) (data : Word)
  | clkQdFreqDiv (src : Source) (q : Fin 4) (data : Word)
  | clkSscEn (src : Source) (data : Word)
  | hostCtrlUnbind (src : Source) (data : Word)
  | mgtCtrlFec (src : Source) (data : Word)
  | bootCtrlReboot (src : Source) (data : Word)
  -- Host and management operations
  | hello (r : Req)
  | regRead (r : Req)
  | regWrite (r : Req)
  | load (r : Req) (content : ItinContent) (dm : Damage)
  | patch (r : Req)
  | commit (r : Req) (dm : Damage)
  | commitJoin (r : Req) (dm : Damage)
  | abort (r : Req)
  | unload (r : Req)
  | seed (r : Req)
  | tollgate (r : Req)
  | retraceCommand (r : Req)
  | detour (r : Req)
  | survey (r : Req)
  | surveyFire
  | shadowRead (r : Req)
  | qpOpen (r : Req)
  | qpClose (r : Req)
  | jrnRead (r : Req) (dm : Damage)
  | sealRead (r : Req) (dm : Damage)
  | reportRead (r : Req)
  | imgBegin (r : Req)
  | imgData (r : Req)
  | imgVerify (r : Req) (dm : Damage)
  | imgStore (r : Req)
  | imgStoreDone (same : Bool) (dm : Damage)
  | flashRead (r : Req)
  | idKey (r : Req)
  | attest (r : Req)
  | attestDone
  | attestRead (r : Req)
  | rdmaWrite (h : RdmaHead) (p : WritePart) (data : List Byte) (dm : Damage)
  | rdmaRead (h : RdmaHead) (rkey : Word) (addr : DWord) (length : Word) (dm : Damage)
  | arpRequest (p : PortId) (a : Asked)
  | operationBetweenChips (r : Req)
  | forwardTimeout (frame : BitVec 16)
  -- I3C
  | i3cPrivateWrite (addr data : Word)
  | i3cPrivateReadRequest (addr : Word)
  | i3cPrivateRead (length : Nat)
  | entdaa (addr : BitVec 7)
  -- Resets and boot
  | porstAssert
  | porstRelease (f : Sfdp)
  | wrstAssert
  | wrstRelease (f : Sfdp)
  | lpddrTrainingDone (ok : Bool) (units : Fin 31)
  | imageCheckDone
  | bootReady
  | slewEnd
  | portLinkUp (p : PortId)
  | portLinkDown (p : PortId)
  | discardedFrame (p : PortId) (f : RxFrame)
  | badFrame (r : Req)
  | i3cOtherPrivateWrite
  | malformedTrainingBlock (n : LinkId) (b : BitVec 128)
deriving DecidableEq, Repr

end Sys2Proof
end

