-- ==== Sys2Proof/Config.lean ====
section
/-! DEFINITION. The values the spec leaves open, as constants with no body: nothing can be proved of their value. Each
is named in the assumption log. Fresh values are numbered by the counter `fresh` of State. -/

namespace Sys2Proof.Config

/-- A byte of device memory that nothing has written since the reset of the epoch (R431; log 6): by epoch and address. -/
opaque undefinedByte : Nat → Nat → Byte

/-- The SLH-DSA-SHAKE-256s signature of a message by the identity key (R60, R449; FIPS 205, which the spec does not restate; log 8): by
fresh number, secret and public seed bytes, message, and the position of the byte among its 29,792. -/
opaque signatureByte : Nat → List Byte → List Byte → Nat → Byte

/-- Whether a signature verifies under a public key (R433, R436; FIPS 205; log 8): by key, message and signature. -/
opaque verifies : BitVec 512 → List Byte → List Byte → Bool

/-- The public key that the key generation of FIPS 205 makes of SK.seed, SK.prf and PK.seed (R437; log 8). -/
opaque publicKey : List Byte → BitVec 512

/-- The power-up state of the PUF array (R437; log 8): by fresh number. -/
opaque pufArray : Nat → List Byte

/-- The reading of this device's array corrected with helper data, the same at every reset (R30), and the helper data that an enrolment forms
of a reading: R437 and R438 name both without giving them (log 8). -/
opaque correctedReading : List Byte → List Byte
/-- See `correctedReading`; by reading and the byte's place among the 4,096. -/
opaque helperByte : List Byte → Nat → Byte

/-- Whether a register of a group lies in those lines of its context that found no place, where some lines did: the layout of a context is not
given (R114, R295; log 138): by fresh number, kind (0 scalar, 1 predicate, 2 vector) and register. -/
opaque contextLost : Nat → Nat → Nat → Bool

/-- The entropy of the epoch nonce (R56; log 8): by fresh number. -/
opaque entropy : Nat → DWord

/-- The key hash in mask ROM (R439, R440; log 8). -/
opaque keyHash : BitVec 256

/-- Whether the flash has got one sector or page further with a store (R446 gives no rate; log 31): by fresh number. -/
opaque flashMoves : Nat → Bool

/-- Which of BAD_HEADER and SIGNATURE follows a store cut short while page 0 was being programmed (R447; log 31): by fresh number. -/
opaque headerCut : Nat → Bool

/-- A byte of flash that a store cut short left undefined (R63, R447; log 31): by the store's number and address. -/
opaque tornByte : Nat → Nat → Byte

/-- The host session number that a HELLO draws (R403; log 8). -/
opaque sessionNumber : Nat → Word

/-- The byte offset a failed load check reports for a rule about records whose layout the spec leaves open (R409;
log 9): by rule number and fresh number. -/
opaque failureOffset : Nat → Nat → Word

/-- The value that a load whose data met an uncorrectable error or a path failure writes (R301, R304 name no value; log 14):
by fresh number and destination. -/
opaque damagedData : Nat → Nat → DWord

/-- Whether a position fails the scan content of a triage (R329, R334; log 10): by fresh number, district and position. -/
opaque scanFails : Nat → Nat → Nat → Bool

/-- Whether a stretch moves the occupancy of the crossing FIFO on a district's port by a whole entry (R343, R344: the phases of
the districts are unknown; log 35): by fresh number, district and port. -/
opaque crossingMoves : Nat → Nat → Nat → Bool

/-- The activity, in 1/64, of a die while PWR_EFULL is 0, for which R359 gives none (log 36): by fresh number and die. -/
opaque activity : Nat → Nat → Nat

/-- How many district cycles the copy of a roadworks move takes, up to 12,288 (R122; log 117): by epoch, ns and district. -/
opaque copyCycles : Nat → Nat → Nat → Nat

/-- How many ns a die's clock is stopped for a change of its divider, up to 2,000 (R350; log 117): by epoch, ns and die. -/
opaque restartNs : Nat → Nat → Nat → Nat

/-- The period of the spread profile of a die's root PLL in ns beyond the least that R352 allows, taken modulo the width of its range, by die
(R352 gives ±1%; log 145). -/
opaque spreadNs : Nat → Nat

/-- Where in its spread profile a die's root PLL stands at ns 0 (R352; log 145): by epoch and die. -/
opaque spreadStart : Nat → Nat → Nat

/-- The least margin that the monitors of a position under test report in a cycle, in ps (R356; log 118): by epoch, ns and district. -/
opaque testMargin : Nat → Nat → Nat → Byte

/-- The events of a class that a position under test has in a cycle (R333, R359, R372; log 118): by epoch, ns, district and class. -/
opaque testEvents : Nat → Nat → Nat → Nat → Nat

/-- The reading of a tested position's own sensor in a sample, in °C (R333; log 118): by fresh number and district. -/
opaque ownSensor : Nat → Nat → Nat

/-- The SOURCE code of MEM_UE_INFO for a line that LOAD, COMMIT or JRN_READ reads, for which R312 gives none (log 37): by fresh
number. -/
opaque loaderSource : Nat → BitVec 3

/-- Whether the partner's AUTO_NARROW is 1: no training block carries it (R250, R253, R259; log 34): by fresh number and link. -/
opaque partnerAutoNarrow : Nat → Nat → Bool

/-- Where in the PRBS31 sequence a lane's test blocks begin, which R262 leaves open (log 97): by fresh number, link and lane. -/
opaque prbsSeed : Nat → Nat → Nat → BitVec 31

end Sys2Proof.Config
end

