-- ==== Sys2Proof/Machine/Bytes.lean ====
section
/-! DEFINITION. Byte order and bit fields (spec/00_scope.md: little-endian, bit ranges [msb:lsb]), and the three check
functions the spec takes from published standards: SHAKE256 (FIPS 202), crc64 (R235) and CRC-32C (R302). -/

namespace Sys2Proof.Machine

/-- The `n` bytes of `v`, least significant first. -/
def leBytes : Nat → Nat → List Byte
  | 0, _ => []
  | n + 1, v => BitVec.ofNat 8 v :: leBytes n (v / 256)

/-- The number whose bytes, least significant first, are the list's. -/
def ofLe : List Byte → Nat
  | [] => 0
  | b :: r => b.toNat + 256 * ofLe r

/-- `count` bytes from `first` of a byte list; a byte beyond its end is 0. -/
def slice (l : List Byte) (first count : Nat) : List Byte :=
  (List.range count).map (fun i => (l[first + i]?).getD 0)

/-- The little-endian number in `count` bytes from `first`. -/
def num (l : List Byte) (first count : Nat) : Nat := ofLe (slice l first count)

/-- Bits [hi:lo] of a 32-bit word, as a number. -/
def bits (w : Word) (hi lo : Nat) : Nat := (w.toNat / 2 ^ lo) % 2 ^ (hi - lo + 1)

/-- One bit of a 32-bit word. -/
def bit (w : Word) (i : Nat) : Bool := w.getLsbD i

/-- A 32-bit word with a number at bits [.. :lo]; the parts of a register image are or-ed together. -/
def at_ (v lo : Nat) : Word := BitVec.ofNat 32 (v * 2 ^ lo)

/-- A flag as a 0 or 1 number. -/
def flag (b : Bool) : Nat := if b then 1 else 0

/-- The word with its bits under `mask` taken from `v`. -/
def putMask (w v mask : Word) : Word := (w &&& ~~~mask) ||| (v &&& mask)

/-- Rounds `n` up to a multiple of `m`, divided by `m`. -/
def ceilDiv (n m : Nat) : Nat := (n + m - 1) / m

/-! ### SHAKE256 (FIPS 202) -/

namespace Keccak

/-- The state: five rows of five lanes, lane (x, y) in row y. -/
abbrev Rows := List (List DWord)

/-- Lane (x, y), with both taken modulo 5. -/
def cell (a : Rows) (x y : Nat) : DWord := (((a[y % 5]?).getD [])[x % 5]?).getD 0

/-- The state whose lane (x, y) a function gives. -/
def build (f : Nat → Nat → DWord) : Rows := (List.range 5).map (fun y => (List.range 5).map (fun x => f x y))

/-- The parities of the five columns. -/
def parities (a : Rows) : List DWord := (List.range 5).map (fun x => a.foldl (fun p r => p ^^^ (r[x]?).getD 0) 0)

/-- Theta: each lane takes the parity of the column before it and the turned parity of the column after it. -/
def spread (a : Rows) : Rows :=
  let p := parities a
  build (fun x y => cell a x y ^^^ cell [p] (x + 4) 0 ^^^ (cell [p] (x + 1) 0).rotateLeft 1)

/-- The walk of rho from lane (1, 0): step t turns its lane by the triangular number of t + 1, and goes on from (x, y) to
(y, 2x + 3y). The turns come by 5y + x. -/
def walk : Nat → Nat → Nat → Nat → List (Nat × Nat)
  | 0, _, _, _ => []
  | n + 1, t, x, y => (5 * y + x, (t + 1) * (t + 2) / 2 % 64) :: walk n (t + 1) y ((2 * x + 3 * y) % 5)

/-- The turn of each lane. -/
def turn (k : Nat) : Nat := (((walk 24 0 1 0).find? (fun p => p.1 == k)).map (·.2)).getD 0

/-- The turns in lane order. -/
def turns : List Nat := (List.range 25).map turn

/-- Rho and pi: a lane is turned, and lane (x, y) goes to (y, 2x + 3y), so (x, y) takes the lane at (x + 3y, x). -/
def scatter (ts : List Nat) (a : Rows) : Rows :=
  build (fun x y => let u := (x + 3 * y) % 5; (cell a u x).rotateLeft ((ts[5 * x + u]?).getD 0))

/-- Chi: along a row, a lane flips where the next is 0 and the one after it is 1. -/
def mixRow (r : List DWord) : List DWord :=
  (List.range 5).map (fun x => cell [r] x 0 ^^^ (~~~ cell [r] (x + 1) 0 &&& cell [r] (x + 2) 0))

/-- One step of the shift register of iota, over x^8 + x^6 + x^5 + x^4 + 1. -/
def shift (r : Nat) : Nat := if 128 ≤ r then (2 * r - 256) ^^^ 0x71 else 2 * r

/-- The seven bits of a round's constant, at bits 2^j − 1, with the register after them. -/
def roundWord (r : Nat) : DWord × Nat :=
  (List.range 7).foldl (fun z j => (if z.2 % 2 = 1 then z.1 ^^^ BitVec.twoPow 64 (2 ^ j - 1) else z.1, shift z.2)) (0, r)

/-- The constants of `n` rounds from a state of the register. -/
def roundWords : Nat → Nat → List DWord
  | 0, _ => []
  | n + 1, r => let z := roundWord r; z.1 :: roundWords n z.2

/-- One round. -/
def round (ts : List Nat) (a : Rows) (k : DWord) : Rows :=
  match (scatter ts (spread a)).map mixRow with
  | (h :: t) :: r => ((h ^^^ k) :: t) :: r
  | b => b

/-- Keccak-f[1600]. -/
def permute (a : Rows) : Rows := (roundWords 24 1).foldl (round turns) a

/-- Xors a block of 136 bytes into the first 17 lanes, row by row. -/
def absorb (a : Rows) (block : List Byte) : Rows :=
  permute (build (fun x y =>
    let k := 5 * y + x
    if k < 17 then cell a x y ^^^ BitVec.ofNat 64 (num block (8 * k) 8) else cell a x y))

/-- Absorbs the padded message block by block. -/
def absorbAll (a : Rows) (msg : List Byte) : Nat → Rows
  | 0 => a
  | n + 1 => absorbAll (absorb a (msg.take 136)) (msg.drop 136) n

/-- The message with the SHAKE suffix and pad10*1, a whole number of 136-byte blocks. -/
def pad (msg : List Byte) : List Byte :=
  let k := 136 - msg.length % 136
  if k = 1 then msg ++ [0x9F] else msg ++ [0x1F] ++ List.replicate (k - 2) 0 ++ [0x80]

end Keccak

/-- SHAKE256 of a message, its first `outBytes` bytes, at most 136 of them. -/
def shake256 (msg : List Byte) (outBytes : Nat) : List Byte :=
  let m := Keccak.pad msg
  let a := Keccak.absorbAll [] m (m.length / 136)
  slice ((a.flatMap id).flatMap (fun l => leBytes 8 l.toNat)) 0 outBytes

/-- SHAKE256 truncated to 256 bits, bits [31:0] first (R54). -/
def digest256 (msg : List Byte) : BitVec 256 := BitVec.ofNat 256 (ofLe (shake256 msg 32))

/-- Word `w` of a 256-bit digest (R54). -/
def digestWord (d : BitVec 256) (w : Nat) : Word := BitVec.ofNat 32 (d.toNat / 2 ^ (32 * w))

/-! ### Cyclic checks -/

/-- One bit step of crc64 (R235). -/
def crc64Bit (c : DWord) : DWord := if c.msb then (c <<< 1) ^^^ 0x42F0E1EBA9EA3693 else c <<< 1

/-- crc64 continued from `c` over one byte (R235). -/
def crc64Byte (c : DWord) (b : Byte) : DWord :=
  (List.range 8).foldl (fun c _ => crc64Bit c) (c ^^^ (b.setWidth 64 <<< 56))

/-- crc64 continued from `c` (R235, R319). -/
def crc64From (c : DWord) (l : List Byte) : DWord := l.foldl crc64Byte c

/-- crc64 (R235). -/
def crc64 (l : List Byte) : DWord := crc64From 0 l

/-- The flit check over the implicit sequence number and flit bytes 0 to 247 (R235). -/
def flitCrc (q : BitVec 16) (f : List Byte) : DWord :=
  crc64 ([q.extractLsb' 8 8, q.extractLsb' 0 8] ++ slice f 0 248)

/-- One bit step of the reflected CRC-32C. -/
def crc32cBit (c : Word) : Word := if c.getLsbD 0 then (c >>> 1) ^^^ 0x82F63B78 else c >>> 1

/-- CRC-32C, standard initial value and final inversion (R302). -/
def crc32c (l : List Byte) : Word :=
  ~~~ (l.foldl (fun c b => (List.range 8).foldl (fun c _ => crc32cBit c) (c ^^^ b.setWidth 32)) 0xFFFFFFFF)

end Sys2Proof.Machine
end

