-- ==== Sys2Proof/Machine/SMap.lean ====
section
/-! DEFINITION. Finite maps from Nat as sorted lists of pairs in one canonical form: keys strictly rising and no entry
equal to the value `d` that an unlisted key reads as. Registers, memories, tags and tables of State are held so. -/

namespace Sys2Proof.SMap

variable {α : Type}

/-- The value at key `a`; `d` is what an unlisted key reads as. -/
def get (d : α) : List (Nat × α) → Nat → α
  | [], _ => d
  | (k, v) :: r, a => if k = a then v else get d r a

/-- Writes `v` at key `a`, keeping the canonical form: writing `d` removes the entry. -/
def set [DecidableEq α] (d : α) : List (Nat × α) → Nat → α → List (Nat × α)
  | [], a, v => if v = d then [] else [(a, v)]
  | (k, w) :: r, a, v =>
    if a < k then (if v = d then (k, w) :: r else (a, v) :: (k, w) :: r)
    else if k = a then (if v = d then r else (a, v) :: r)
    else (k, w) :: set d r a v

/-- Writes `v` at key `a`, whatever `v` is. -/
def put : List (Nat × α) → Nat → α → List (Nat × α)
  | [], a, v => [(a, v)]
  | (k, w) :: r, a, v => if a < k then (a, v) :: (k, w) :: r else if k = a then (a, v) :: r else (k, w) :: put r a v

/-- Every key of `m` is above `a`. -/
def above (a : Nat) (m : List (Nat × α)) : Bool := m.all (fun p => decide (a < p.1))

/-- The canonical form. -/
def wf [DecidableEq α] (d : α) : List (Nat × α) → Bool
  | [] => true
  | (k, v) :: r => above k r && !decide (v = d) && wf d r

/-- Replaces the value at key `a` by its image under `f`. -/
def modify [DecidableEq α] (d : α) (m : List (Nat × α)) (a : Nat) (f : α → α) : List (Nat × α) :=
  set d m a (f (get d m a))

/-- Writes `v` at every key of the list. -/
def setAll [DecidableEq α] (d : α) (m : List (Nat × α)) (keys : List Nat) (v : α) : List (Nat × α) :=
  keys.foldl (fun m a => set d m a v) m

/-- The keys with an entry. -/
def keys (m : List (Nat × α)) : List Nat := m.map (·.1)

end Sys2Proof.SMap
end

