-- ==== Sys2Proof/Machine/State.lean ====
section
/-! DEFINITION. The state of one chip as plain data, and its value right after reset (spec/01 to spec/16; INVENTORY.md
lists every field with its rule). Registers live in `csr`, by address, as the exclusive or of their value and their
reset value, event counters by the address of their _LO word in `cnt`; a register that a rule makes a view of other state
is computed when it is read. -/

namespace Sys2Proof.Machine

/-! ### Numbers (spec/03) -/

/-- The class of an element (R72). -/
inductive Cls where
  | finite | pinf | ninf | nan
deriving DecidableEq, Repr

/-- An EXS element: a class and the word X, an unsigned number below 2^W (R76, R77). -/
structure Exs where
  cls : Cls := .finite
  x : Nat := 0
deriving DecidableEq, Repr

/-! ### Tiles (spec/04 to spec/06) -/

/-- An output of a group that its signature has not taken up yet (R319): the block of a PACK by its number, or bytes that follow one in
program order. -/
inductive Output where
  | block (op : Nat) | bytes (l : List Byte)
deriving DecidableEq, Repr

/-- Why a group issues nothing (R100, R150, R152, R158). -/
inductive Wait where
  | none | recv (tag : Nat) | toll (scope : Nat) | msEnd | stop
deriving DecidableEq, Repr

/-- The issue ports of a tile (R101). -/
inductive Port where
  | scalar | vector | matrix | memory | transfer
deriving DecidableEq, Repr

/-- What the next instruction of a group lacks beside its registers (R100): a page, a request entry, room in the queue of the matrix
unit, lines that an engine has not finished with (R165), or that its own group's engine instructions still touch, as first line and
number (R166), a shadow's load data, or room in the shadow's load queue (R318). -/
inductive Need where
  | none | page (p : Nat) | entry | queue
  | lines (write : Bool) (l : List Nat) | own (reads writes : Option (Nat × Nat))
  | data | room
deriving DecidableEq, Repr

/-- A loop stack entry (R148). -/
structure LoopEntry where
  first : Nat
  last : Nat
  left : Nat
deriving DecidableEq, Repr

/-- A register that a load will write when its data returns (R142, R144). -/
inductive RegPut where
  | s (r k : Nat) (val : DWord)
  | v (r lane : Nat) (val : Word)
deriving DecidableEq, Repr

/-- A thread group's context (R97, R114, R131). Scalar register r of thread k is at key 32r + k of `s`; lane i of
vector register r at key 64r + i of `v`. -/
structure Group where
  ia : Nat := 0
  slot : Nat := 0
  loops : List LoopEntry := []
  s : List (Nat × DWord) := []
  p : List (Nat × DWord) := []
  v : List (Nat × Word) := []
  seedSlot : Byte := 0
  wait : Wait := .none
  resident : Bool := true
  waited : Nat := 0
  needs : Need := .none
  pendS : List Nat := []
  pendV : List Nat := []
  sig : DWord := 0
  outputs : List Output := []
  loads : Nat := 0
  tolls : Nat := 0
  tollAt : Nat := 0
deriving DecidableEq, Repr

/-- An operand tile: slot k of row r at key 64r + k, scale byte b of row r at key 2r + b (R164). -/
structure OpTile where
  slots : List (Nat × BitVec 16) := []
  scales : List (Nat × Byte) := []
deriving DecidableEq, Repr

/-- An EXS accumulator with its check register (R78, R164): element (i, j) at key 64i + j. -/
structure Acc where
  wide : Bool := false
  elems : List (Nat × Exs) := []
  terms : Nat := 0
  e : List (Nat × Nat) := []
  f : List (Nat × Nat) := []
  rnf : DWord := 0
  cnf : DWord := 0
deriving DecidableEq, Repr

/-- The groups that used a t or x register in the current generation (R107). -/
structure Uses where
  wrote : List Nat := []
  read : List Nat := []
  cleared : List Nat := []
  accum : List Nat := []
deriving DecidableEq, Repr

/-- Lines `first` to `first + count - 1`, held for a send entry or an engine instruction (R156, R166). -/
inductive Holder where
  | send (sid : Nat) | op (id : Nat)
deriving DecidableEq, Repr

/-- A span of lines with its holder (R156, R165, R166). -/
structure Span where
  first : Nat
  count : Nat
  who : Holder
deriving DecidableEq, Repr

/-- An engine instruction with the scalar values it read at issue (R165, R169-R175, R182-R188). -/
inductive EngOp where
  | tld (f : TldFields) (ea : Nat)
  | xclr (x : Nat) (kind : Bool)
  | xld (x : Nat) (ea : Nat)
  | xst (x : Nat) (ea : Nat)
  | mma (f : PairFields) (kind : Bool)
  | rnd (f : RndFields) (ea : Nat) (origin seed : DWord)
  | pack (f : XredFields)
  | add (f : XredFields)
  | fcomb (f : FcombFields) (a : List Word)
  | chkRow (f : PairFields)
  | chkCol (f : PairFields)
  | chkCmp (x : Nat) (rows cols : Bool)
deriving DecidableEq, Repr

/-- A queued or running engine instruction, in the tile's issue order (R165), with the cycles it has run. -/
structure QueuedOp where
  id : Nat
  engine : EngineId
  group : Nat
  op : EngOp
  started : Bool := false
  failed : Bool := false
  cycles : Nat := 0
deriving DecidableEq, Repr

/-- An arrival scoreboard entry (R110, R111, R184, R323). -/
structure Arrival where
  tag : Nat
  line : Nat
  count : Nat
  mark : ArrivalMark
  got : List Nat := []
  landed : Bool := false
deriving DecidableEq, Repr

/-- Where a send entry stands in its milestone (R156, R157, R183). -/
inductive SendState where
  | idle
  | encoding (op : Nat)
  | pending (first line lines : Nat) (last : Bool)
  | departed
  | missed
deriving DecidableEq, Repr

/-- A send table entry of the current milestone (R155). -/
structure SendEntry where
  sid : Nat
  group : Nat
  lines : Nat
  depart : Nat
  road : Nat
  state : SendState := .idle
deriving DecidableEq, Repr

/-- A memory request entry (R112): for a load, its destination register (a vector register when `vec`), its number among
the group's loads and its address in the code store (R318), what it writes on return with the address each value comes from (R301,
R304), and the blocks that it reads first in the milestone (R302). -/
structure MemReq where
  id : Nat
  group : Nat
  store : Bool
  ia : Nat := 0
  first : List Nat := []
  vec : Bool := false
  dest : Nat := 0
  count : Nat := 0
  puts : List (Nat × RegPut) := []
deriving DecidableEq, Repr

/-- A scratchpad frame (R103, R115). -/
structure PageFrame where
  page : Nat
  pinned : Bool
  dirty : Bool
  lastUse : Nat
deriving DecidableEq, Repr

/-- A page swap of the spill engine under way (R115): the page it brings in, the frame it has freed for it, if none was free, and the
cycles it has taken. -/
structure PageMove where
  page : Nat
  victim : Option PageFrame := none
  cycles : Nat := 0
deriving DecidableEq, Repr

/-- One entry of the shadow's load queue (R318): what the primary's load received, by thread or lane. -/
structure LoadRec where
  group : Nat
  ia : Nat
  count : Nat
  data : List (Nat × DWord)
deriving DecidableEq, Repr

/-- A swap of the spill engine under way, with the cycles it has taken (R113, R114). -/
structure Swap where
  out : Nat
  into : Nat
  cycles : Nat := 0
deriving DecidableEq, Repr

/-- A tile (R97). Its groups exist from COMMIT to END (R99). `slate` holds the slots and ports of the instructions issued in the current
cycle (R101), `banks` the accesses that each scratchpad bank still has to serve, by their place in the order of R105. -/
structure Tile where
  prog : Option TileProg := none
  groups : List (Nat × Group) := []
  rr : Nat := 0
  slate : List (Nat × Port) := []
  banks : List (Nat × List Nat) := []
  spad : List (Nat × Byte) := []
  tags : List (Nat × Nat) := []
  tUse : List (Nat × Uses) := []
  xUse : List (Nat × Uses) := []
  t : List (Nat × OpTile) := []
  x : List (Nat × Acc) := []
  locks : List Span := []
  queue : List QueuedOp := []
  nextOp : Nat := 0
  arrivals : List Arrival := []
  sends : List SendEntry := []
  reqs : List MemReq := []
  gen : Nat := 0
  frames : List PageFrame := []
  pageSwaps : List Nat := []
  moving : Option PageMove := none
  useClock : Nat := 0
  swap : Option Swap := none
  forced : Bool := false
  loadQ : List LoadRec := []
  viols : List (Nat × Nat × Nat) := []
deriving DecidableEq, Repr

/-! ### Districts (spec/04, spec/11, spec/12) -/

/-- A shadow in the running attempt (R317, R318). -/
structure Sample where
  l : Fin 8
  primary : Nat
  shadow : Nat
  mismatch : Bool := false
deriving DecidableEq, Repr

/-- How a roadworks test ended (R334, R335). -/
inductive RwOutcome where
  | passes | fails | incomplete
deriving DecidableEq, Repr

/-- A district's spare map, its faults and its clock (R120, R317-R335, R346, R347): the cycles by which it is behind the unstretched
count of its die in this milestone, the quarters of a cycle that stretches cost beyond those, for each event number modulo 8 whether its
amount was 150%, the cycles that the copy of a roadworks move still takes and the lines it has still to move (R122), and whether the position under test is still being
heated (R333). -/
structure District where
  map : Word := 0x76543210
  spare : Word := 0x00000008
  strikes : List (Nat × Nat) := []
  sample : List Sample := []
  dups : List (Nat × Nat × Nat) := []
  again : List (Nat × Nat × Nat) := []
  due : List (Nat × Nat) := []
  tested : Option RwOutcome := none
  testFrom : Nat := 0
  gen : Nat := 0
  event : BitVec 3 := 0
  delta : List (Nat × Int) := []
  stopped : List Nat := []
  stretched : Nat := 0
  behind : Nat := 0
  lag : Nat := 0
  deep : BitVec 8 := 0
  minNow : Word := 0xFFFFFFFF
  tempNow : Nat := 0
  copying : Nat := 0
  copyLines : Nat := 0
  heating : Bool := false
deriving DecidableEq, Repr

/-! ### Network (spec/07, spec/09) -/

/-- A slot table entry of one hop with the outputs its units go to (R203, R209) and the units already sent. -/
structure SlotEntry where
  slot : Nat
  road : Nat
  count : Nat
  outs : List HopId
  isLast : Bool
  ends : List (TileRef × Nat)
  sent : Nat := 0
deriving DecidableEq, Repr

/-- The bytes of a transfer that wait at a link hop to make up the next flit, or the next line (R204), how many lines have gone by, and at a
link ingress all the bytes that have come. -/
structure Pack where
  road : BitVec 16
  ms : BitVec 8
  bytes : List Byte := []
  lines : Nat := 0
  seen : List Byte := []
deriving DecidableEq, Repr

/-- A hop (R203-R207): its slot table, what waits in its verge and ahead of its milestone, the lines of flits in the making, its
lateness as of slot `since`, the slot in which it last sent with the units sent in it, for a street the die's cycle after the one in
which its crossing FIFO was last read, and the units that its link discarded ahead of their milestone (R255). -/
structure Hop where
  table : List SlotEntry := []
  verge : List RoadUnit := []
  early : List RoadUnit := []
  packs : List Pack := []
  lateness : Nat := 0
  since : Nat := 0
  slot : Nat := 0
  used : Nat := 0
  readAt : Nat := 0
  gone : List RoadUnit := []
deriving DecidableEq, Repr

/-- Where a unit on its way within the chip goes: to a hop, or to an arrival tag of a tile (R209, R210). -/
inductive Dest where
  | hop (h : HopId)
  | tile (t : TileRef) (tag : Nat)
deriving DecidableEq, Repr

/-- A unit between two hops of this chip, or between a local switch and a tile, with the destinations that have not had it yet. On a
street it is one valid entry of the crossing FIFO at the street's receiving end (R344), written in cycle `wrote` of the die, until it has
been read. -/
structure Flight where
  src : HopId
  dests : List Dest
  u : RoadUnit
  wrote : Nat := 0
  isRead : Bool := false
deriving DecidableEq, Repr

/-- The link to which a rank toward a logical chip is resolved (R275). -/
structure RankLink where
  chip : Nat
  rank : Fin 4
  link : LinkId
deriving DecidableEq, Repr

/-- The flags of a waymark or a relay round (R199, R201). -/
structure Flags where
  tollAll : Bool := false
  abandon : Bool := false
  causes : BitVec 6 := 0
  hold : Bool := false
deriving DecidableEq, Repr

/-- Flags of job milestone `jobMs` and round `round`, from a link, or the chip's own when `link` is none (R201). -/
structure RoundFlags where
  link : Option Nat
  jobMs : Nat
  round : Nat
  flags : Flags
deriving DecidableEq, Repr

/-- An origin of the hold set (R213). -/
structure HoldEntry where
  origin : Nat
  seq : Nat
  freezeFrom : Nat
deriving DecidableEq, Repr

/-- A detour between its acceptance and its restart boundary (R279-R282). -/
structure Detour where
  join : Bool := false
  substs : List Subst := []
  j : Nat
  p : Nat
  g : Nat
  t0 : Word
  map : List (Nat × Word) := []
deriving DecidableEq, Repr

/-- A staged write that took effect in the running attempt (R49): its position, what the register read before and after it, and the
data it wrote. -/
structure Effected where
  pos : Nat
  addr : Nat
  old : Word
  val : Word
  data : Word
deriving DecidableEq, Repr

/-- A register write that waits for its boundary (R43, R44), and whether it is to be recorded when it takes effect: the low word of a
pair may have its record already (R58). -/
structure StagedWrite where
  addr : Nat
  data : Word
  src : Source
  time : Word
  recorded : Bool := true
deriving DecidableEq, Repr

/-- Scheduling state (R191-R216). `sinceDone` and `sinceMet` count the cycles of R198, `decided` is a software decision on a violation
that has not had its turn (R215), `ranks` the resolution of R275, `moved` the logical chips toward which a rank has been moved (R284),
`startFrom` the links that have delivered the START that is waited for, each with the partner it then had, `startOwed` those from which a
copy of an earlier one is still to come, `startAhead` those that have delivered one more, which is of a detour that this chip has not
accepted yet (R274, R281), `rewind` the job milestones whose relays carried ABANDON and have not reached their boundary (R228). -/
structure Sched where
  committed : Option (Fin 4) := none
  lchip : Nat := 0
  milestone : Nat := 0
  jobMs : Nat := 0
  position : Nat := 0
  running : Bool := false
  startTime : Word := 0
  startFrom : List (Nat × Word) := []
  startOwed : List (Nat × Word) := []
  startAhead : List (Nat × Word) := []
  detour : Option Detour := none
  ranks : List RankLink := []
  moved : List Nat := []
  done : Bool := false
  sinceDone : Nat := 0
  sinceMet : Nat := 0
  forced : Bool := false
  decided : Bool := false
  causesNow : BitVec 6 := 0
  causesNext : BitVec 6 := 0
  wayExpect : List (Nat × Nat) := []
  rounds : List RoundFlags := []
  relayed : List (Nat × Flags) := []
  rewind : List Nat := []
  stepFirst : Nat := 0
  uncommitted : List (Nat × Nat) := []
  attempts : Nat := 0
  holds : BitVec 11 := 0
  holdSet : List HoldEntry := []
  seqSeen : List (Nat × Nat) := []
  ownSeq : Nat := 0
  resumeAt : Option Word := none
  resumeFrom : Nat := 0
  tollgates : List Req := []
  staged : List StagedWrite := []
  overdue : Nat := 0
  draining : Bool := false
  leftover : List (StagedWrite × Nat) := []
  effected : List Effected := []
  reapply : List Effected := []
  schedule : List (Nat × Nat × Word) := []
  descCopy : List (Nat × Word) := []
  paramCopy : List (Nat × Word) := []
  wbDone : Bool := false
  jobFirst : Nat := 0
  rwOpen : Bool := false
  rwDue : Bool := false
  dropMs : List Nat := []
deriving DecidableEq, Repr

/-! ### Links (spec/08) -/

/-- Link training states (R251). -/
inductive LinkState where
  | disabled | detect | pause | align | negotiate | verify | active | down | test
deriving DecidableEq, Repr

/-- Flit classes (R234). -/
inductive FlitClass where
  | sch | way | mgt | link
deriving DecidableEq, Repr

/-- A sequenced flit kept until it is acknowledged (R239, R240). -/
structure TxFlit where
  seq : BitVec 16
  cls : FlitClass
  last : Bool
  payload : List Byte
  replays : Nat := 0
deriving DecidableEq, Repr

/-- A WAY flit in an ingress buffer: its payload, the local time at which it passed its check, and its REPLAYED bit (R244, R391). -/
structure WayIn where
  bytes : List Byte
  stamp : Word
  replayed : Bool
deriving DecidableEq, Repr

/-- An SCH flit that has had its turn at the transmitter hop and waits for a flit time: its payload, END, and the slot in which it was
scheduled (R205, R242). -/
structure SchOut where
  payload : List Byte
  last : Bool
  slot : Nat
deriving DecidableEq, Repr

/-- One kind of credit of one class (R244, R246, R247). -/
structure Credit where
  adv : BitVec 16 := 0
  freed : BitVec 16 := 0
  limit : BitVec 16 := 0
  consumed : BitVec 16 := 0
  heard : Bool := false
deriving DecidableEq, Repr

/-- The chosen fields of an attempt (R253). -/
structure Chosen where
  laneSet : BitVec 4
  width : BitVec 2
  rate : BitVec 2
  version : Byte
deriving DecidableEq, Repr

/-- A link (R229-R262). `replayOver`: the replay that runs has lasted longer than its allowance (R218); `pauseOver`: TS1 has gone out for
64 ns in PAUSE (R251). -/
structure Link where
  state : LinkState := .disabled
  full : Bool := true
  raised : Bool := false
  failedWait : Bool := false
  width : BitVec 2 := 0b11
  rate : BitVec 2 := 0b11
  lanes : BitVec 4 := 0
  version : Byte := 0
  leader : Bool := false
  down : Bool := false
  clamp : Bool := false
  failLane : BitVec 2 := 0
  failCause : BitVec 6 := 0
  partner : Word := 0xFFFFFFFF
  delayPs : Word := 0
  rttPs : Word := 0
  partnerSch : Word := 0
  txNext : BitVec 16 := 0
  unacked : List TxFlit := []
  waiting : List RoadUnit := []
  replayAt : Option (BitVec 16) := none
  replayFrom : BitVec 16 := 0
  replaySlots : Nat := 0
  replayOver : Bool := false
  nakDue : Bool := false
  flitTime : Nat := 0
  wayQ : List (List Byte) := []
  schQ : List SchOut := []
  starved : Nat := 0
  mgtQ : List (List Byte) := []
  rxExpect : BitVec 16 := 0
  nakState : Bool := false
  inSch : List RoadUnit := []
  inWay : List WayIn := []
  credits : List (Nat × Credit) := []
  lanesOk : BitVec 4 := 0
  locked : BitVec 4 := 0
  ts1Seen : Bool := false
  ackSent : Bool := false
  turnPs : Nat := 0
  askWidth : BitVec 2 := 0
  askRate : BitVec 2 := 0
  chosen : Option Chosen := none
  failTimes : List Nat := []
  firstTs2At : Bool := false
  pauseOver : Bool := false
deriving DecidableEq, Repr

/-! ### Journal (spec/02) -/

/-- A journal record (R52); its time is the acceptance time. -/
structure Record where
  recno : Nat
  milestone : Nat
  type : Byte
  srcFlags : Byte
  time : Word
  a0 : Word
  a1 : Word
  a2 : Word
  chain : BitVec 256
deriving DecidableEq, Repr

/-- A record before it has its number and chain value: held under R66, or about to be appended. -/
structure Draft where
  milestone : Nat
  type : Byte
  srcFlags : Byte
  time : Word
  a0 : Word
  a1 : Word
  a2 : Word
deriving DecidableEq, Repr

/-- A completed seal (R60). -/
structure Seal where
  number : Nat
  covered : Nat
  header : List Byte
  signature : Nat
deriving DecidableEq, Repr

/-- A seal that is running: what it covers, and whether it goes to flash (R61, R62). -/
structure SealJob where
  header : List Byte
  covered : Nat
  flash : Bool
deriving DecidableEq, Repr

/-- The journal engine (R51-R67). `held`: the records that R66 holds; `late`: records of low words accepted before the journal filled, which
found no room (log 121). -/
structure Journal where
  kept : Bool := false
  records : List Record := []
  next : Nat := 0
  chain : BitVec 256 := 0
  retain : Nat := 0
  sealed : Option Nat := none
  nonce : DWord := 0
  seals : List Seal := []
  sealNumber : Nat := 0
  running : Option SealJob := none
  waits : Option Bool := none
  flashBusy : Bool := false
  flashWait : List Seal := []
  flashErr : Bool := false
  releaseErr : Bool := false
  prevSealBad : Bool := false
  warned : Bool := false
  held : List Draft := []
  late : List Draft := []
deriving DecidableEq, Repr

/-! ### Memory (spec/10) -/

/-- A write tag (R297). -/
structure WriteTag where
  written : Bool := false
  milestone : Nat := 0
  tile : Nat := 0
  group : Nat := 0
  dgen : Nat := 0
  tgen : Nat := 0
  retainStep : Option Nat := none
  check : Option Word := none
deriving DecidableEq, Repr

/-- A retain copy (R305): the bytes the block listed, its check value, and where the copies lie. -/
structure Retain where
  block : Nat
  step : Nat
  bytes : List (Nat × Option Byte)
  check : Option Word
  inHbm : Bool
deriving DecidableEq, Repr

/-- Where a spill page lies (R295). -/
inductive Placement where
  | hbm (q : Nat) | t2
deriving DecidableEq, Repr

/-- Device memory (R288-R311). `bytes` lists the bytes written in the epoch; an unlisted byte has no value, but inside a
span of `zeroed` (R311), where it reads zero. -/
structure DevMem where
  bytes : List (Nat × Option Byte) := []
  zeroed : List (Nat × Nat) := []
  mirror : List (Nat × Option Byte) := []
  tags : List (Nat × WriteTag) := []
  retained : List Retain := []
  readThis : List Nat := []
  spill : List (Nat × Placement) := []
  trained : BitVec 2 := 0
  installed : BitVec 16 := 0
  stacksOk : BitVec 12 := 0
  preset : BitVec 4 := 0
  restoring : Bool := false
  writeback : Bool := false
  scrubHbm : Nat := 0
  scrubT2 : Nat := 0
  attemptResets : Nat := 0
deriving DecidableEq, Repr

/-- An itinerary slot (R408-R413). -/
structure Slot where
  length : Nat
  bytes : List (Nat × Byte)
  content : ItinContent
  failRule : Nat
  failOffset : Word
  patchedBase : List Nat := []
  patchedCoord : List Nat := []
  schedule : List (Nat × Nat × Word) := []
  digest2 : BitVec 256 := 0
deriving DecidableEq, Repr

/-! ### Time, power, boot, ports -/

/-- One Sync that the PTP slave received, with the Delay_Req it answered (R390): the Sync's number, origin (none while a Follow_Up is
awaited), receipt and correction, the Delay_Req's number and departure, and the master's receipt and correction once the Delay_Resp
has come. Receipts and departures of this chip are in tenths of a ns. -/
structure Exchange where
  port : PortId
  syncId : BitVec 16
  t1 : Option Nat
  t2 : Int
  cS : Int
  reqId : BitVec 16
  t3 : Int
  resp : Option (Nat × Int) := none
deriving DecidableEq, Repr

/-- A measurement that waits for the end of its ns (R383, R385): θ, its time, for the PTP slave the master's full time (R387), and whether
SRC changed behind it (R383). -/
structure Measurement where
  theta : Int
  t : Word
  full : Option Int
  last : Bool := false
deriving DecidableEq, Repr

/-- The time unit (R378-R394). `slewLeft` is how many ns SLEW has yet to run (R383), `stepped` the sum of the steps made in this ns
and `measured` its measurements (R385), `age` the ns since power-on reset, which no step moves (R259, R399). -/
structure TimeUnit where
  age : Nat := 0
  c : Word := 0
  o : DWord := 0
  rate : Word := 0
  slew : Word := 0
  slewLeft : Nat := 0
  stepped : Option Int := none
  measured : List Measurement := []
  isSet : Bool := false
  locked : Bool := false
  prev : Option Word := none
  wraps : DWord := 0
  exchanges : List Exchange := []
  seqId : BitVec 16 := 0
  syncId : BitVec 16 := 0
  announceId : BitVec 16 := 0
deriving DecidableEq, Repr

/-- The clock dividers' phases, the cycles that each die's districts have had (R344, R372), the ns for which a die's clock is still
stopped (R350), the cycle counts of the dies in this milestone (R191, R342) and the ns of it that were not frozen, and the clocks that are
there (R340): bits 0 to 3 of `locks` are the root PLLs, 4 the hub PLL, 5 the time PLL, 6 to 9 the HBM3E PLLs, 10
the LPDDR5X PLL, 11 to 16 the bundles' SerDes PLLs, 17 the host's and 18 the management port's. -/
structure Clocks where
  phase : List (Nat × Nat) := []
  turn : List (Nat × Nat) := []
  stop : List (Nat × Nat) := []
  cycle : List (Nat × Nat) := []
  linkNs : Nat := 0
  refOk : Bool := false
  timeOk : Bool := false
  locks : BitVec 19 := 0
deriving DecidableEq, Repr

/-- One die of the power and thermal controller (R362-R371): 64 times the weighted count of the last tick and of the last 40 ticks, the
dynamic and leakage power of the last five samples; whether the root gate has removed a cycle of this tick, how many fJ this tick has
counted, and how far PCAP has come after a change of the divider that waits for it: `fresh` is 0 until the first sample after the restart,
which begins whole ones, then 1, 2 and 3 (R372). -/
structure DiePower where
  budget : Nat := 64
  act64 : Nat := 0
  recent : List Nat := []
  targets : List (Nat × Nat) := []
  pdyn : List Nat := []
  pleak : List Nat := []
  mv : Nat := 0
  binds : BitVec 6 := 0
  removed : Bool := false
  tickFj : Nat := 0
  sampleFj : Nat := 0
  fresh : Nat := 3
  floorMs : Bool := true
  freeMs : Nat := 0
  lowered : Bool := false
deriving DecidableEq, Repr

/-- The power and thermal controller (R359-R371) with the tables of the image (R435). The fJ counted since the last sample are kept by
district, and for the hub die; `samples` holds those of the last two samples, each district's with the voltage of its rail in the
sample. -/
structure Power where
  dies : List (Nat × DiePower) := []
  fixedMw : List Nat := []
  leak : List (Nat × Word) := []
  districtFj : List (Nat × Nat) := []
  hubFj : Nat := 0
  hub : List Nat := []
  samples : List (List (Nat × Nat) × List Nat) := []
  readout : List Nat := []
  estimates : List Nat := []
  uj : Nat := 0
  hot : List Nat := []
deriving DecidableEq, Repr

/-- The scan content of the image in flash: where it lies, how many bytes come before its CRC table, and the table, which is copied on die
(R435). -/
structure ScanTable where
  offset : Nat
  size : Nat
  crcs : List Word
deriving DecidableEq, Repr

/-- An image found and accepted by step 5 (R439), or by IMG_VERIFY (R445). -/
structure ImageInfo where
  format : Byte
  imageId : Word
  length : Nat
  digest : BitVec 256
  registers : List (Word × Word)
  power : List Word
  addresses : List Byte
  optics : List Byte
  scan : Option ScanTable
deriving DecidableEq, Repr

/-- A request the signing engine serves in order of arrival (R448). -/
inductive SignJob where
  | journalSeal | attest (nonce : BitVec 256)
deriving DecidableEq, Repr

/-- Boot, identity, image session and attestation (R431-R451). `cold`: no release since the power-on reset. `flash` lists the
bytes that are not erased; `torn` the spans that a store left undefined, as first byte, length and number. -/
structure Boot where
  cold : Bool := true
  step : Nat := 0
  cause : Byte := 0
  enrolled : Bool := false
  repaired : Bool := false
  sfdp : Sfdp := { readable := false, mib := 0, erase64 := false, addr4 := false, ddr8 := false, sdr8 := false, sdr4 := false }
  flashMode : BitVec 2 := 0
  flashMiB : BitVec 16 := 0
  secret : List Byte := []
  pk : BitVec 512 := 0
  uid : DWord := 0
  group4 : BitVec 256 := 0
  found : Option ImageInfo := none
  applied : Option ImageInfo := none
  flash : List (Nat × Byte) := []
  session : Option (Source × Nat) := none
  stage : List (Nat × Byte) := []
  verified : Bool := false
  storeBusy : Bool := false
  torn : List (Nat × Nat × Nat) := []
  storeErr : Bool := false
  storeSectors : Nat := 0
  storePages : Nat := 0
  cut : Bool := false
  attestBusy : Bool := false
  attestReady : Bool := false
  attestText : List Byte := []
  attestSig : Nat := 0
  signQ : List SignJob := []
deriving DecidableEq, Repr

/-- A completion kept for repeats (R404). -/
structure Kept where
  from_ : Source
  tag : Word
  op : Byte
  status : Nat
  body : List Byte
deriving DecidableEq, Repr

/-- An RDMA WRITE message under way (R399): the address of its next byte and the bytes still to come. -/
structure WriteRun where
  start : Nat
  next : Nat
  left : Nat
deriving DecidableEq, Repr

/-- A queue pair (R399, R406): `psn` is the sequence number that the next request is to carry, `cnpAt` the ns in which the last CNP
left. -/
structure QueuePair where
  pmtu : Byte
  hostQpn : Word
  reqPsn : Word
  respPsn : Word
  gid : BitVec 128
  psn : BitVec 24
  run : Option WriteRun := none
  cnpAt : Option Nat := none
deriving DecidableEq, Repr

/-- The frame of an operation that another chip forwarded (R416): the link by which it came, the coordinate of that chip, and its bytes. -/
structure Arrived where
  link : Nat
  via : Word
  frame : List Byte
deriving DecidableEq, Repr

/-- An operation between two other chips that was passed on, whose completion goes back on the same path (R416): the links by which it came
and by which it went, the coordinate of the chip that forwarded it, its TAG and its STATION, and the ns in which it was passed on. -/
structure Passed where
  into : Nat
  out : Nat
  via : Word
  at_ : Nat
  tag : Word
  station : BitVec 16
deriving DecidableEq, Repr

/-- A frame that is not yet whole (R416): the link by which its flits come, the coordinate of the chip that forwarded it, its number, and its
fragments by index. -/
structure PartFrame where
  link : Nat
  via : Word
  frame : BitVec 16
  parts : List (Nat × List Byte)
deriving DecidableEq, Repr

/-- The host and management ports, the I3C target and the report ring (R396-R430). `arrived` holds the operations that other chips forwarded
and that wait for their turn at the management engine, `paths` the link by which the last one of a station key came, `passed` those that
were passed on (R416). -/
structure Ports where
  hostUp : Bool := false
  mgtUp : Bool := false
  fecOn : Bool := false
  bound : Option (BitVec 128) := none
  session : Word := 0
  version : Byte := 0
  keptHost : List Kept := []
  keptMgt : List Kept := []
  qps : List (Nat × QueuePair) := []
  stations : List (StationKey × BitVec 16) := []
  forwards : List (BitVec 16 × Req) := []
  arrived : List Arrived := []
  paths : List (StationKey × Nat) := []
  passed : List Passed := []
  nextFrame : BitVec 16 := 0
  parts : List PartFrame := []
  reports : List (Nat × List Byte) := []
  reportSeq : Word := 0
  survey : Option (Byte × Bool × DWord) := none
  surveyDone : Bool := false
  atEnd : Bool := false
  cleared : Bool := false
  surveySeq : BitVec 16 := 0
  i3cAddr : BitVec 7 := 0
  i3cAnswer : Option (List Byte) := none
deriving DecidableEq, Repr

/-- The hash engine and the digest held for delivery (R321, R323). `peers` holds the digests that peer entries of earlier milestones of the
step brought, by tag, while they wait for the local one. -/
structure Digest where
  busy : Bool := false
  step : Nat := 0
  held : Option (BitVec 256) := none
  delivered : Bool := false
  peersSeen : List Nat := []
  peers : List (Nat × BitVec 256) := []
deriving DecidableEq, Repr

/-- A holding register and a held low word of one access source (R8, R9), with the time of that low-word write, what its register read
then, and, while it has no record yet, its address (R6, R58). -/
structure Holding where
  src : Source
  high : Option Word := none
  low : Option Word := none
  lowAt : Word := 0
  lowWas : Word := 0
  owed : Option Nat := none
deriving DecidableEq, Repr

/-- A 48-bit event counter (R124, R425). -/
structure Counter where
  n : Nat := 0
  ovf : Bool := false
deriving DecidableEq, Repr

/-- The device state without the holds (R31): RUN and HOLD are READY with a committed itinerary. -/
inductive DevState where
  | boot | recovery | ready | fault
deriving DecidableEq, Repr

/-- A PTP message as it leaves a port (R386, R389): its type, transport, domain and number, the stamp it carries as PTP time in ns, whether
a Follow_Up comes after it, for an Announce its clockClass, priority1 and priority2, and for a Delay_Resp whom it answers. -/
structure PtpOut where
  type : Byte
  transport : BitVec 2
  domain : Byte
  seqId : BitVec 16
  stamp : Nat := 0
  twoStep : Bool := false
  quality : Option (Byte × Byte × Byte) := none
  requester : Option (BitVec 80) := none
deriving DecidableEq, Repr

/-- What the device sends or drives, oldest first. A `training` entry is one block for each lane, sent again and again until the next
entry of the link; a `flit` entry names the lane of each of its 64 units. -/
inductive Out where
  | completion (dst : Source) (frame : List Byte)
  | report (ip dest : Word) (port : BitVec 16) (bytes : List Byte)
  | ibi (type : Byte)
  | flit (n : LinkId) (bytes : List Byte) (lanes : List Nat)
  | training (n : LinkId) (rate : BitVec 2) (blocks : List (BitVec 128))
  | pulse (k : Fin 4) (high : Bool) (width : Nat)
  | ptp (p : PortId) (m : PtpOut) (frame : List Byte)
  | neighbour (p : PortId) (a : Asked) (mac : BitVec 48)
  | rdmaAck (qpn : Word) (psn : BitVec 24) (nak : Option Byte)
  | rdmaData (qpn : Word) (psn : BitVec 24) (packets : List (List Byte))
  | cnp (qpn : Word)
  | i3c (bytes : List Byte)
deriving DecidableEq, Repr

/-- The device. -/
structure State where
  pending : List Instr := []
  out : List Out := []
  fresh : Nat := 0
  epoch : Nat := 0
  porstN : Bool := false
  wrstN : Bool := true
  throtN : Bool := true
  dev : DevState := .boot
  faultCause : Byte := 0
  readySeen : Bool := false
  csr : List (Nat × Word) := []
  cnt : List (Nat × Counter) := []
  shadowCnt : List (Nat × Counter) := []
  holding : List Holding := []
  jrn : Journal := {}
  sinceRecord : Int := 0
  sch : Sched := {}
  hops : List (Nat × Hop) := []
  flights : List Flight := []
  links : List (Nat × Link) := []
  tiles : List (Nat × Tile) := []
  dists : List (Nat × District) := []
  code : List (Nat × DWord) := []
  mem : DevMem := {}
  slots : List (Nat × Slot) := []
  seeds : List (Nat × DWord) := []
  dig : Digest := {}
  tme : TimeUnit := {}
  clk : Clocks := {}
  pwr : Power := {}
  boot : Boot := {}
  ports : Ports := {}
deriving DecidableEq, Repr

/-- Why the machine stops with a fault. No command answers one: the device's own FAULT (R31) is a next state. -/
inductive Fault where
  /-- Raised by nobody: the spec names no case in which the block has no next state. Safe. -/
  | none
deriving DecidableEq, Repr

/-- Why a command has no meaning. -/
inductive Refusal where
  /-- Raised by exec's arm of a command that has no meaning yet. Safe. -/
  | notModelled (mnemonic : String)
  /-- Raised by a tile instruction whose fields R127 refuses: decoding is complete before COMMIT, so the instruction can
  not exist in a committed program and the spec gives it no effect. Safe. -/
  | malformed
deriving DecidableEq, Repr

/-- The device in power-on reset (R431, R439, R459): PORST_N low, every register at its reset value, no journal. -/
def State.reset : State := {}

end Sys2Proof.Machine
end

