-- ==== Sys2Proof/Machine/Arith.lean ====
section
/-! DEFINITION. Number formats and exact summation (spec/03_arithmetic.md): decode, product, the EXS helpers, the one
rounding, the stochastic generator and residues. A value is an exact dyadic rational. -/

namespace Sys2Proof.Machine

/-- The exact dyadic rational `n` times 2 to the `e`. -/
structure Dyadic where
  n : Int
  e : Int
deriving DecidableEq, Repr

/-- The element formats (R72). -/
inductive Fmt where
  | fp4 | e2m3 | e3m2 | e4m3 | e5m2 | bf16 | fp16 | fp32 | int8 | int32
deriving DecidableEq, Repr

/-- The rounding modes (R82). -/
inductive Rnd where
  | rne | rtz | sr
deriving DecidableEq, Repr

/-! ### Formats (R72) -/

/-- The width of an element in bits. -/
def fmtWidth : Fmt → Nat
  | .fp4 => 4 | .e2m3 => 6 | .e3m2 => 6 | .e4m3 => 8 | .e5m2 => 8 | .bf16 => 16 | .fp16 => 16 | .fp32 => 32
  | .int8 => 8 | .int32 => 32

/-- Fraction bits. -/
def fmtMbits : Fmt → Nat
  | .fp4 => 1 | .e2m3 => 3 | .e3m2 => 2 | .e4m3 => 3 | .e5m2 => 2 | .bf16 => 7 | .fp16 => 10 | .fp32 => 23
  | .int8 => 0 | .int32 => 0

/-- Exponent bits. -/
def fmtEbits : Fmt → Nat
  | .fp4 => 2 | .e2m3 => 2 | .e3m2 => 3 | .e4m3 => 4 | .e5m2 => 5 | .bf16 => 8 | .fp16 => 5 | .fp32 => 8
  | .int8 => 0 | .int32 => 0

/-- The exponent bias. -/
def fmtBias : Fmt → Int
  | .fp4 => 1 | .e2m3 => 1 | .e3m2 => 3 | .e4m3 => 7 | .e5m2 => 15 | .bf16 => 127 | .fp16 => 15 | .fp32 => 127
  | .int8 => 0 | .int32 => 0

/-- emin = 1 - bias. -/
def fmtEmin (f : Fmt) : Int := 1 - fmtBias f

/-- The encoding of the largest finite magnitude. -/
def fmtMaxEnc : Fmt → Nat
  | .fp4 => 0x7 | .e2m3 => 0x1F | .e3m2 => 0x1F | .e4m3 => 0x7E | .e5m2 => 0x7B | .bf16 => 0x7F7F | .fp16 => 0x7BFF
  | .fp32 => 0x7F7FFFFF | .int8 => 0x7F | .int32 => 0x7FFFFFFF

/-- The formats whose `special` is IEEE. -/
def fmtIeee : Fmt → Bool
  | .e5m2 | .bf16 | .fp16 | .fp32 => true
  | _ => false

/-- The two integer formats. -/
def fmtInt : Fmt → Bool
  | .int8 | .int32 => true
  | _ => false

/-- The two's complement value of the low `w` bits of `b` (R73). -/
def signedNat (w b : Nat) : Int :=
  let m := b % 2 ^ w
  if 2 ^ (w - 1) ≤ m then (m : Int) - 2 ^ w else m

/-- decode (R73). -/
def decode (f : Fmt) (b : Nat) : Cls × Dyadic :=
  if fmtInt f then (.finite, ⟨signedNat (fmtWidth f) b, 0⟩)
  else
    let mb := fmtMbits f
    let s := (b / 2 ^ (fmtWidth f - 1)) % 2
    let e := (b / 2 ^ mb) % 2 ^ fmtEbits f
    let m := b % 2 ^ mb
    if fmtIeee f && e == 2 ^ fmtEbits f - 1 then
      (if m ≠ 0 then .nan else if s = 0 then .pinf else .ninf, ⟨0, 0⟩)
    else if f == .e4m3 && e == 15 && m == 7 then (.nan, ⟨0, 0⟩)
    else
      let mant : Nat := if e = 0 then m else 2 ^ mb + m
      let ex : Int := if e = 0 then fmtEmin f - mb else (e : Int) - fmtBias f - mb
      (.finite, ⟨if s = 1 then -(mant : Int) else mant, ex⟩)

/-- decode_mx (R73): an element under the E8M0 scale `xs`. -/
def decodeMx (f : Fmt) (b xs : Nat) : Cls × Dyadic :=
  if xs = 0xFF then (.nan, ⟨0, 0⟩)
  else
    let r := decode f b
    (r.1, ⟨r.2.n, r.2.e + xs - 127⟩)

/-! ### Products and EXS (R75-R80) -/

/-- cls_add (R75). -/
def clsAdd : Cls → Cls → Cls
  | .nan, _ => .nan
  | _, .nan => .nan
  | .pinf, .ninf => .nan
  | .ninf, .pinf => .nan
  | .finite, c => c
  | c, _ => c

/-- product (R75). -/
def product (a b : Cls × Dyadic) : Cls × Dyadic :=
  if a.1 = .nan ∨ b.1 = .nan then (.nan, ⟨0, 0⟩)
  else if a.1 = .finite ∧ b.1 = .finite then (.finite, ⟨a.2.n * b.2.n, a.2.e + b.2.e⟩)
  else if (a.1 = .finite ∧ a.2.n = 0) ∨ (b.1 = .finite ∧ b.2.n = 0) then (.nan, ⟨0, 0⟩)
  else
    let na := decide (a.1 = .ninf) || (decide (a.1 = .finite) && decide (a.2.n < 0))
    let nb := decide (b.1 = .ninf) || (decide (b.1 = .finite) && decide (b.2.n < 0))
    (if na != nb then .ninf else .pinf, ⟨0, 0⟩)

/-- W of the kind (R80): EXS-96 or EXS-576. -/
def exsW (wide : Bool) : Nat := if wide then 576 else 96
/-- F of the kind (R80). -/
def exsF (wide : Bool) : Nat := if wide then 279 else 43

/-- `v` times 2^F as an integer: exact for every term R78 and R79 admit. -/
def scaled (v : Dyadic) (F : Nat) : Int :=
  let k := v.e + F
  if 0 ≤ k then v.n * ((2 ^ k.toNat : Nat) : Int) else v.n / ((2 ^ (-k).toNat : Nat) : Int)

/-- An integer reduced modulo 2^W. -/
def modW (wide : Bool) (z : Int) : Nat := (z % ((2 ^ exsW wide : Nat) : Int)).toNat

/-- exs_acc (R80). -/
def exsAcc (wide : Bool) (x : Exs) (t : Cls × Dyadic) : Exs :=
  let c := clsAdd x.cls t.1
  if c = .finite then ⟨c, modW wide ((x.x : Int) + scaled t.2 (exsF wide))⟩ else ⟨c, 0⟩

/-- exs_add (R80). -/
def exsAdd (wide : Bool) (x y : Exs) : Exs :=
  let c := clsAdd x.cls y.cls
  if c = .finite then ⟨c, (x.x + y.x) % 2 ^ exsW wide⟩ else ⟨c, 0⟩

/-- exs_widen (R80). -/
def exsWiden (x : Exs) : Exs := ⟨x.cls, modW true (signedNat 96 x.x * ((2 ^ 236 : Nat) : Int))⟩

/-- exs_value (R80). -/
def exsValue (wide : Bool) (x : Exs) : Dyadic := ⟨signedNat (exsW wide) x.x, -(exsF wide : Int)⟩

/-- The term limit of the kind (R81). -/
def termLimit (wide : Bool) : Nat := if wide then 2 ^ 24 else 2 ^ 20

/-- Whether R79 allows the combined scale exponent `sx` for the formats `fa` and `fb`. -/
def scaleAllowed (fa fb : Fmt) (sx : Int) : Bool :=
  if fa == .e5m2 && fb == .e5m2 then decide (-247 ≤ sx) && decide (sx ≤ 240)
  else if (fa == .e5m2 && fb == .e4m3) || (fa == .e4m3 && fb == .e5m2) then decide (-254 ≤ sx) && decide (sx ≤ 247)
  else true

/-! ### The one rounding (R83-R85) -/

/-- nan_of (R84). -/
def nanOf : Fmt → Nat
  | .fp32 => 0x7FC00000 | .bf16 => 0x7FC0 | .fp16 => 0x7E00 | .e5m2 => 0x7F | .e4m3 => 0x7F
  | _ => 0

/-- The sign bit of a floating format at its place. -/
def signBit (f : Fmt) (s : Bool) : Nat := if s then 2 ^ (fmtWidth f - 1) else 0

/-- overflow of a floating format (R84). -/
def overflow (f : Fmt) (s : Bool) (mode : Rnd) (sat : Bool) : Nat :=
  if sat || mode == .rtz || !(fmtIeee f || f == .e4m3) then signBit f s + fmtMaxEnc f
  else if f == .e4m3 then 0x7F
  else signBit f s + (fmtMaxEnc f + 1)

/-- The increment rule of round_to: `n` with the fraction `rem / 2^k` (R83). -/
def increment (mode : Rnd) (n rem k r : Nat) : Nat :=
  match mode with
  | .rne => if 2 ^ k < 2 * rem ∨ (2 * rem = 2 ^ k ∧ n % 2 = 1) then n + 1 else n
  | .sr => if r < rem * 2 ^ 32 / 2 ^ k then n + 1 else n
  | .rtz => n

/-- The magnitude `a` times 2^`sh`, rounded to an integer in `mode`. -/
def roundShift (mode : Rnd) (a : Nat) (sh : Int) (r : Nat) : Nat :=
  if 0 ≤ sh then a * 2 ^ sh.toNat
  else
    let k := (-sh).toNat
    increment mode (a / 2 ^ k) (a % 2 ^ k) k r

/-- encode of the magnitude `n` times 2^(e - mbits), where n is at most 2^(mbits + 1) (R83). -/
def encodeMag (f : Fmt) (n : Nat) (e : Int) : Nat :=
  let mb := fmtMbits f
  if n < 2 ^ mb then n
  else if n < 2 ^ (mb + 1) then (e + fmtBias f).toNat * 2 ^ mb + (n - 2 ^ mb)
  else (e + 1 + fmtBias f).toNat * 2 ^ mb

/-- round_to of a nonzero magnitude with its sign (R83). -/
def roundMag (s : Bool) (a : Nat) (ex : Int) (f : Fmt) (mode : Rnd) (sat : Bool) (r : Nat) : Nat :=
  let e := max ((a.log2 : Int) + ex) (fmtEmin f)
  let n := roundShift mode a (ex + fmtMbits f - e) r
  let enc := encodeMag f n e
  if fmtMaxEnc f < enc then overflow f s mode sat else signBit f s + enc

/-- round_to (R83). -/
def roundTo (v : Dyadic) (f : Fmt) (mode : Rnd) (sat : Bool) (r : Nat) : Nat :=
  if v.n = 0 then 0 else roundMag (decide (v.n < 0)) v.n.natAbs v.e f mode sat r

/-- round_int (R83). -/
def roundInt (v : Dyadic) (f : Fmt) (mode : Rnd) (r : Nat) : Nat :=
  let n : Int := roundShift mode v.n.natAbs v.e r
  let z := if v.n < 0 then -n else n
  let h : Int := 2 ^ (fmtWidth f - 1)
  let c := max (-h) (min z (h - 1))
  (c % 2 ^ fmtWidth f).toNat

/-- round_exs (R83). -/
def roundExs (wide : Bool) (x : Exs) (f : Fmt) (mode : Rnd) (sat : Bool) (r : Nat) : Nat :=
  match x.cls with
  | .nan => nanOf f
  | .pinf => if fmtInt f then fmtMaxEnc f else overflow f false .rne sat
  | .ninf => if fmtInt f then 2 ^ (fmtWidth f - 1) else overflow f true .rne sat
  | .finite => if fmtInt f then roundInt (exsValue wide x) f mode r else roundTo (exsValue wide x) f mode sat r

/-- emax(fmt) (R85). -/
def fmtEmax : Fmt → Int
  | .fp4 => 2 | .e2m3 => 2 | .e3m2 => 4 | .e4m3 => 8 | .e5m2 => 15
  | _ => 0

/-- round_mx_block (R85): the scale byte and the 32 elements; `rr` gives each element's r. -/
def roundMxBlock (wide : Bool) (xs : List Exs) (f : Fmt) (mode : Rnd) (rr : List Nat) : Nat × List Nat :=
  if xs.any (fun x => x.cls != .finite) then (0xFF, xs.map (fun _ => 0))
  else
    let amax := (xs.map (fun x => (signedNat (exsW wide) x.x).natAbs)).foldl max 0
    let t : Int := if amax = 0 then -127 else max (-127) (min 127 ((amax.log2 : Int) - exsF wide - fmtEmax f))
    ((t + 127).toNat,
      (xs.zip rr).map (fun p =>
        let v := exsValue wide p.1
        roundTo ⟨v.n, v.e - t⟩ f mode true p.2))

/-! ### Stochastic rounding (R86) -/

/-- mix64 (R86). -/
def mix64 (z : DWord) : DWord :=
  let z := (z ^^^ (z >>> 30)) * 0xBF58476D1CE4E5B9#64
  let z := (z ^^^ (z >>> 27)) * 0x94D049BB133111EB#64
  z ^^^ (z >>> 31)

/-- sr_bits (R86). -/
def srBits (seed : DWord) (stream : BitVec 16) (i j : BitVec 32) : Nat :=
  let z := mix64 (seed ^^^ (stream.setWidth 64 * 0x9E3779B97F4A7C15#64))
  let z := mix64 (z ^^^ ((i.setWidth 64 <<< 32) + j.setWidth 64))
  z.toNat / 2 ^ 32

/-! ### Residues (R96) -/

/-- P61 (R96). -/
def p61 : Nat := 2 ^ 61 - 1

/-- An integer modulo P61. -/
def modP (z : Int) : Nat := (z % (p61 : Int)).toNat

/-- res61 (R96). -/
def res61 (v : Dyadic) : Nat :=
  if 0 ≤ v.e then modP (v.n * ((2 ^ v.e.toNat : Nat) : Int))
  else modP (v.n * ((2 ^ (60 * (-v.e).toNat) : Nat) : Int))

end Sys2Proof.Machine
end

