-- ==== Sys2Proof/Machine/RegTable.lean ====
section
/-! DEFINITION. The register map: which addresses hold a register (R24, R25), and of each register the bits of each
writable type (R3) and the reset value, from the register tables of R27, R67, R117, R120, R123, R228, R264, R287, R312,
R339, R357, R358, R376, R377, R395, R429, R430 and R451. -/

namespace Sys2Proof.Machine

/-- A register: its reset value and its RW, W1C and WO bits; every other bit is RO, RC or reserved (R3, R4). -/
structure RegInfo where
  reset : Word := 0
  rw : Word := 0
  w1c : Word := 0
  wo : Word := 0
deriving DecidableEq, Repr

/-- A register with no writable field. -/
def regRo (reset : Word) : RegInfo := { reset := reset }
/-- A register with RW fields only. -/
def regRw (reset rw : Word) : RegInfo := { reset := reset, rw := rw }

/-- Looks up an offset. -/
def lookup {α : Type} : List (Nat × α) → Nat → Option α
  | [], _ => none
  | (k, v) :: r, a => if k = a then some v else lookup r a

/-- The index of `a` in an array of `count` registers from `base`, `stride` bytes apart. -/
def arrayIdx (base stride count a : Nat) : Option Nat :=
  if base ≤ a ∧ (a - base) % stride = 0 ∧ (a - base) / stride < count then some ((a - base) / stride) else none

/-- The first of two answers that is there. -/
def orElse {α : Type} : Option α → Option α → Option α
  | some a, _ => some a
  | none, b => b

/-! ### Counters (R124, R425) -/

/-- The arrays of counters: the address of the first _LO word and how many follow 8 bytes apart. -/
def counterArrays : List (Nat × Nat) :=
  [(0x000A0048, 6), (0x00070100, 21), (0x00060100, 12), (0x00080100, 6), (0x00090100, 3), (0x00030100, 8),
   (0x00040100, 7), (0x00050100, 4), (0x000B0010, 1)]

/-- The counter a word belongs to: the address of its _LO word, and whether the word is its _HI word. -/
def counterIn : List (Nat × Nat) → Nat → Option (Nat × Bool)
  | [], _ => none
  | (base, n) :: r, a =>
    match arrayIdx base 4 (2 * n) a with
    | some i => some (base + 8 * (i / 2), i % 2 == 1)
    | none => counterIn r a

/-- The counter at an address, in any block. -/
def counterAt (a : Nat) : Option (Nat × Bool) :=
  if a % 4 ≠ 0 then none
  else if 0x00100000 ≤ a ∧ a < 0x00280000 then counterIn [(a / 0x10000 * 0x10000 + 0x40, 11)] a
  else if 0x01000000 ≤ a ∧ a < 0x01900000 then
    let base := a / 0x10000 * 0x10000
    let off := a % 0x10000
    if off < 0x9000 then counterIn [(base + off / 0x1000 * 0x1000 + 0x10, 10)] a
    else counterIn [(base + 0xF118, 2)] a
  else counterIn counterArrays a

/-! ### Register tables, block by block -/

/-- GEN (R27 to R33). -/
def regsGen : List (Nat × RegInfo) :=
  [(0x00, regRo 0x59539600), (0x04, regRo 0x00000010), (0x08, regRo 0x00000001), (0x0C, regRo 0x20111110),
   (0x10, regRo 0x12101010), (0x14, regRo 0x09180C90), (0x18, regRo 0), (0x1C, regRo 0), (0x20, regRo 0),
   (0x24, regRw 0 0xFFFFFFFF)]

/-- BOOT (R451). -/
def regsBoot : List (Nat × RegInfo) :=
  [(0x00, regRo 0), (0x04, { wo := 0x1 }), (0x08, regRo 0), (0x0C, regRo 0x00101000), (0x10, regRo 0), (0x14, regRo 0),
   (0x20, regRo 0), (0x24, regRo 0), (0x28, regRo 0), (0x2C, regRo 0), (0x30, regRo 0), (0x34, regRo 0), (0x38, regRo 0),
   (0x3C, regRo 0), (0x40, { w1c := 0x40000000 }), (0x44, regRo 0)]

/-- JRN (R67). -/
def regsJrn : List (Nat × RegInfo) :=
  [(0x00, { reset := 0x0000C000, rw := 0x0000FF00, wo := 0x6 }), (0x04, { w1c := 0x0C000000 }), (0x08, regRo 0),
   (0x0C, regRo 0), (0x10, regRo 0xFFFFFFFF), (0x14, regRo 0xFFFFFFFF), (0x18, regRw 0 0xFFFFFFFF),
   (0x1C, regRw 0 0xFFFFFFFF), (0x20, regRo 0), (0x24, regRo 0), (0x28, regRo 0)]

/-- CLK (R357). -/
def regsClk : List (Nat × RegInfo) :=
  [(0x00, regRo 0), (0x04, regRw 1 0x1), (0x08, regRw 0x00001E0C 0x0000FFFF)] ++
  (List.range 4).flatMap (fun q =>
    [(0x10 + 0x10 * q, regRw 0x08080008 0x1F), (0x14 + 0x10 * q, { w1c := 0x80000000 })])

/-- PWR (R376). -/
def regsPwr : List (Nat × RegInfo) :=
  [(0x00, regRo 0), (0x04, { w1c := 0x3F }), (0x08, regRw 2400 0xFFF), (0x0C, regRw 600 0x3FF),
   (0x10, regRw 0x0000735F 0xFF), (0x14, regRw 32 0x7F), (0x18, regRo 0), (0x1C, regRo 0)] ++
  (List.range 4).flatMap (fun q =>
    [(0x20 + 0x10 * q, regRo 0x40400000), (0x24 + 0x10 * q, regRo 0), (0x28 + 0x10 * q, regRo 0)]) ++
  (List.range 16).map (fun n => (0x80 + 4 * n, regRo 0))

/-- TME (R395). -/
def regsTme : List (Nat × RegInfo) :=
  [(0x00, { wo := 0x1 }), (0x04, { w1c := 0x2F000000 }), (0x08, regRo 0), (0x0C, regRo 0), (0x10, regRw 0 0xFFFFFFFF),
   (0x14, regRo 0), (0x18, { wo := 0xFFFFFFFF }), (0x1C, regRw 1000 0xFFFFFFFF), (0x20, regRw 0x00060000 0x00071F03),
   (0x24, regRo 0), (0x28, regRw 0x00D00000 0xFFF3003C), (0x30, regRw 0 0xFFFFFFFF), (0x34, regRw 0 0xFFFFFFFF)] ++
  (List.range 4).flatMap (fun k =>
    [(0x40 + 0x10 * k, regRw 100 0xC000FFFF), (0x44 + 0x10 * k, regRw 0 0xFFFFFFFF),
     (0x48 + 0x10 * k, regRw 0 0xFFFFFFFF), (0x4C + 0x10 * k, regRo 0)]) ++
  (List.range 2).flatMap (fun j =>
    [(0x80 + 0x10 * j, { reset := 1, rw := 0x80000003, w1c := 0x40000000 }), (0x84 + 0x10 * j, regRo 0)])

/-- CHK (R339). -/
def regsChk : List (Nat × RegInfo) :=
  [(0x00, regRw 0xC6100000 0xCF1F0000), (0x04, regRw 0x001E060A 0x00FFFFFF), (0x08, regRo 0),
   (0x10, { w1c := 0x80000000 }), (0x14, regRo 0), (0x18, { w1c := 0x80000000 }), (0x20, regRw 0x10 0x800001FF),
   (0x24, regRw 0 0xFFFFFFFF), (0x28, regRw 0 0xFFFFFFFF), (0x2C, { w1c := 0x800000FF })] ++
  (List.range 8).map (fun w => (0x30 + 4 * w, regRo 0))

/-- MEM (R312). -/
def regsMem : List (Nat × RegInfo) :=
  [(0x00, regRo 0), (0x04, regRw 0xE4 0xFF), (0x08, regRo 0), (0x0C, regRw 0x1000 0xFFFF),
   (0x10, regRw 0x00400000 0xFFFFFFFF), (0x14, regRw 24 0xFFFF), (0x18, regRo 0), (0x1C, regRo 0),
   (0x20, { w1c := 0x80000000 })]

/-- A window register, by its offset in the window's block (R312). -/
def regWindow (off : Nat) : Option RegInfo :=
  lookup [(0x0, regRw 0 0xFFFFF000), (0x4, regRw 0 0xFFFFFFFF), (0x8, regRw 0 0xFFFFF000), (0xC, regRw 0 0xFFFFFFFF),
    (0x10, regRw 0 0x8000001F)] off

/-- HOST (R429). -/
def regsHost : List (Nat × RegInfo) :=
  [(0x00, regRo 0), (0x04, { reset := 49600, rw := 0xFFFF, wo := 0x80000000 }), (0x08, regRo 0), (0x0C, regRo 0),
   (0x10, regRo 0)]

/-- MGT (R430). -/
def regsMgt : List (Nat × RegInfo) :=
  [(0x00, regRo 0), (0x04, regRw 0x6000C1C1 0xE000FFFF), (0x08, regRo 0), (0x0C, regRo 0), (0x10, regRo 0),
   (0x14, regRw 0 0xFFFFFFFF), (0x18, regRw 49602 0xFFFF), (0x1C, regRo 0), (0x20, regRo 0), (0x28, regRo 0),
   (0x2C, regRo 0), (0x30, regRo 0), (0x34, regRo 0), (0x38, regRo 0)]

/-- SCH below the sequence descriptors (R228). -/
def regsSch : List (Nat × RegInfo) :=
  [(0x00, regRo 0x0E004000), (0x04, regRo 0), (0x08, regRo 0), (0x0C, regRo 0), (0x10, regRo 0), (0x14, regRo 0),
   (0x18, regRo 0), (0x1C, regRo 0), (0x20, regRo 0), (0x24, { w1c := 0x80000000 }), (0x28, regRo 0), (0x2C, regRo 0),
   (0x30, regRw 512 0xFFFFFFFF), (0x34, regRw 512 0xFFFFFFFF), (0x38, regRw 10000 0xFFFFFFFF), (0x3C, regRo 0),
   (0x40, regRo 0)]

/-- A sequence descriptor register, by its offset in the descriptor (R117). -/
def regSeq (off : Nat) : Option RegInfo :=
  lookup [(0x00, regRw 0 0x80FFFFFF), (0x04, regRw 0 0xFFFFF000), (0x08, regRw 0 0xFFFFFFFF), (0x0C, regRw 0 0xFFFFFFFF),
    (0x10, regRw 0 0xFFFFF000), (0x14, regRw 0 0xFFFFFFFF), (0x18, regRw 0 0xFFFFFFFF)] off

/-- TOP (R287). -/
def regsTop : List (Nat × RegInfo) :=
  [(0x00, regRw 0xFFFFFFFF 0xFFFFFFFF), (0x04, regRw 0 0x00070FFF), (0x08, regRo 0), (0x0C, regRo 0)]

/-- LNKnn (R264). -/
def regsLnk : List (Nat × RegInfo) :=
  [(0x00, { reset := 0xC0000000, rw := 0xFF000000, wo := 0x00010000 }), (0x04, regRo 0x0F000000), (0x08, regRo 0xFFFFFFFF),
   (0x0C, regRo 0), (0x10, regRo 0), (0x14, regRo 0), (0x18, regRo 0), (0x20, regRw 0x20000800 0xFFFFFFFF),
   (0x24, regRw 0x01000100 0xFFFFFFFF), (0x28, regRw 0x02000080 0xFFFFFFFF), (0x2C, regRo 0)]

/-- A tile sub-block of DSTddd (R123). -/
def regsTile : List (Nat × RegInfo) :=
  [(0x00, regRo 0), (0x04, regRo 0), (0x08, regRo 0), (0x60, { w1c := 0x80000000 })]

/-- The district's own registers (R120, R358, R377). -/
def regsDst : List (Nat × RegInfo) :=
  [(0xF000, regRo 0x76543210), (0xF004, regRo 0x8), (0xF100, regRo 0), (0xF104, regRo 0xFFFFFFFF),
   (0xF108, regRo 0xFFFFFFFF), (0xF10C, regRo 0), (0xF110, regRo 0xFF00F000), (0xF200, regRo 0)]

/-- SCH (R117, R228). -/
def regSch (off : Nat) : Option RegInfo :=
  orElse (lookup regsSch off)
    (orElse ((arrayIdx 0x0100 4 64 off).map (fun _ => regRw 0 0xFFFFFFFF))
      (orElse ((arrayIdx 0x4000 4 1024 off).map (fun _ => regRw 0xFFFFFFFF 0xFFFFFFFF))
        (if 0x8000 ≤ off then regSeq ((off - 0x8000) % 0x20) else none)))

/-- MEM with its windows (R312). -/
def regMem (off : Nat) : Option RegInfo :=
  orElse (lookup regsMem off) (if 0x1000 ≤ off ∧ off < 0x1800 then regWindow ((off - 0x1000) % 0x20) else none)

/-- DSTddd (R25). -/
def regDst (off : Nat) : Option RegInfo :=
  if off < 0x9000 then lookup regsTile (off % 0x1000) else lookup regsDst off

/-- The register of a block, by block number and offset (R24). -/
def regBlock (block off : Nat) : Option RegInfo :=
  if block = 0x0 then lookup regsGen off
  else if block = 0x1 then lookup regsBoot off
  else if block = 0x2 then lookup regsJrn off
  else if block = 0x3 then lookup regsClk off
  else if block = 0x4 then lookup regsPwr off
  else if block = 0x5 then lookup regsTme off
  else if block = 0x6 then lookup regsChk off
  else if block = 0x7 then regMem off
  else if block = 0x8 then lookup regsHost off
  else if block = 0x9 then lookup regsMgt off
  else if block = 0xA then regSch off
  else if block = 0xB then lookup regsTop off
  else if 0x10 ≤ block ∧ block < 0x28 then lookup regsLnk off
  else if 0x100 ≤ block ∧ block < 0x190 then regDst off
  else none

/-- The register at an address; none where the address maps to no register (R7). -/
def regInfo (a : Nat) : Option RegInfo :=
  if a % 4 ≠ 0 then none
  else
    match counterAt a with
    | some _ => some (regRo 0)
    | none => regBlock (a / 0x10000) (a % 0x10000)

/-- The reset value of the register at an address. -/
def resetOf (a : Nat) : Word :=
  match regInfo a with
  | some r => r.reset
  | none => 0

/-! ### 64-bit values (R8) -/

/-- The addresses of the low words of the 64-bit values that are no counters. -/
def pairLow (a : Nat) : Bool :=
  [0x00000018, 0x00020008, 0x00020010, 0x00020018, 0x00020020, 0x00050030, 0x00060024, 0x00070018, 0x00080008,
   0x00090008, 0x00090028, 0x00090030, 0x000A0008, 0x000A0010, 0x000A0018].contains a ||
  (decide (0x00071000 ≤ a) && decide (a < 0x00071800) && (a % 0x20 == 0 || a % 0x20 == 8)) ||
  (decide (0x000A8000 ≤ a) && decide (a < 0x000B0000) && (a % 0x20 == 4 || a % 0x20 == 0x10))

/-- Which half of a 64-bit value a register is: none for a 32-bit register, `some false` for a low word. -/
def pairHalf (a : Nat) : Option Bool :=
  match counterAt a with
  | some (_, hi) => some hi
  | none => if pairLow a then some false else if 4 ≤ a ∧ pairLow (a - 4) then some true else none

/-! ### Addresses the rules name -/

/-- The base of LNKnn (R24). -/
def lnkBase (n : Nat) : Nat := 0x00100000 + n * 0x10000
/-- The base of DSTddd (R24). -/
def dstBase (d : Nat) : Nat := 0x01000000 + d * 0x10000
/-- The base of the tile sub-block of a position (R25). -/
def tileBase (d p : Nat) : Nat := dstBase d + p * 0x1000
/-- SCH_ROADMAPnnnn (R228). -/
def roadmapAddr (n : Nat) : Nat := 0x000A4000 + 4 * n
/-- SCH_PARAMnn (R228). -/
def paramAddr (n : Nat) : Nat := 0x000A0100 + 4 * n
/-- A register of window n (R312). -/
def winAddr (n off : Nat) : Nat := 0x00071000 + 0x20 * n + off

end Sys2Proof.Machine
end

