-- ==== Sys2Proof/Machine/Ops.lean ====
section
/-! DEFINITION. The operations that the commands share: registers and counters, local time, the parts of the state by
name, management reports, hold causes and notices, abandonment causes, detected violations, and what the device sends. -/

namespace Sys2Proof.Machine

/-! ### Registers, counters, time -/

/-- The stored value of a register. -/
def getReg (s : State) (a : Nat) : Word := SMap.get 0 s.csr a ^^^ resetOf a

/-- Stores a value in a register. -/
def setReg (s : State) (a : Nat) (v : Word) : State := { s with csr := SMap.set 0 s.csr a (v ^^^ resetOf a) }

/-- A counter after `n` more events: it stays at its greatest value and sets OVF (R425). -/
def Counter.add (c : Counter) (n : Nat) : Counter :=
  if c.n + n < 2 ^ 48 then { c with n := c.n + n } else { n := 2 ^ 48 - 1, ovf := true }

/-- Adds `n` to the counter whose _LO word is at `a`. -/
def bump (s : State) (a n : Nat) : State := { s with cnt := SMap.set {} s.cnt a ((SMap.get {} s.cnt a).add n) }

/-- A counter. -/
def getCnt (s : State) (a : Nat) : Counter := SMap.get {} s.cnt a

/-- The _LO word of a counter (R124). -/
def cntLo (c : Counter) : Word := BitVec.ofNat 32 c.n
/-- The _HI word of a counter (R124). -/
def cntHi (c : Counter) : Word := at_ (flag c.ovf) 31 ||| BitVec.ofNat 32 (c.n / 2 ^ 32 % 2 ^ 16)

/-- Local time (R378). -/
def localTime (s : State) : Word := s.tme.c + s.tme.o.extractLsb' 32 32

/-- Whether the network time `v` is reached (R381). -/
def reached (s : State) (v : Word) : Bool := !(localTime s - v).msb

/-! ### Parts of the state -/

/-- Link n. -/
def getLink (s : State) (n : Nat) : Link := SMap.get {} s.links n
/-- Replaces link n. -/
def setLink (s : State) (n : Nat) (l : Link) : State := { s with links := SMap.set {} s.links n l }
/-- District d. -/
def getDist (s : State) (d : Nat) : District := SMap.get {} s.dists d
/-- Replaces district d. -/
def setDist (s : State) (d : Nat) (x : District) : State := { s with dists := SMap.set {} s.dists d x }

/-- The key of a tile. -/
def tileKey (t : TileRef) : Nat := 16 * t.d.val + t.l.val + (if t.shadow then 8 else 0)
/-- A tile. -/
def getTile (s : State) (t : TileRef) : Tile := SMap.get {} s.tiles (tileKey t)
/-- Replaces a tile. -/
def setTile (s : State) (t : TileRef) (x : Tile) : State := { s with tiles := SMap.set {} s.tiles (tileKey t) x }

/-- A group of a tile. -/
def getGroup (x : Tile) (g : Nat) : Group := SMap.get {} x.groups g
/-- Replaces a group of a tile; a group keeps its place whatever it holds (R99, R151). -/
def setGroup (x : Tile) (g : Nat) (v : Group) : Tile := { x with groups := SMap.put x.groups g v }

/-- Whether the group exists: below GROUPS of the committed tile program (R99). -/
def groupExists (x : Tile) (g : Nat) : Bool :=
  match x.prog with
  | some p => decide (g < p.groups)
  | none => false

/-- POS_l of the spare map (R120). -/
def mapPos (m : Word) (l : Nat) : Nat := bits m (4 * l + 3) (4 * l)

/-- The sample of a district that shadows logical tile l (R317). -/
def sampleOf (d : District) (l : Nat) : Option Sample := d.sample.find? (fun x => x.l.val == l)

/-- The physical position on which a tile runs (R120, R318). -/
def posOf (s : State) (t : TileRef) : Nat :=
  let d := getDist s t.d.val
  if t.shadow then
    match sampleOf d t.l.val with
    | some x => x.shadow
    | none => bits d.spare 3 0
  else mapPos d.map t.l.val

/-- The eight logical tiles of a district. -/
def districtTiles (d : Fin 144) : List TileRef := (List.finRange 8).map (fun l => { d := d, l := l })
/-- The 1,152 logical tiles of the chip. -/
def chipTiles : List TileRef := (List.finRange 144).flatMap districtTiles

/-- A hop's key. -/
def hopKey : HopId → Nat
  | .street d p => 4 * d.val + p.val
  | .localSwitch d => 1000 + d.val
  | .bridge q down => 2000 + 2 * q.val + (if down then 1 else 0)
  | .linkTx n => 3000 + n.val
  | .linkIn n => 4000 + n.val
/-- A hop. -/
def getHop (s : State) (h : HopId) : Hop := SMap.get {} s.hops (hopKey h)
/-- Replaces a hop. -/
def setHop (s : State) (h : HopId) (x : Hop) : State := { s with hops := SMap.set {} s.hops (hopKey h) x }

/-- The quadrant die of a district (R16). -/
def quadOf (d : Nat) : Nat := d / 36

/-- The district cycles of a district in this milestone (R191): those of its die, less those that stretches cost it. -/
def districtCyc (s : State) (d : Nat) : Nat := SMap.get 0 s.clk.cycle (quadOf d) - (getDist s d).behind

/-- Whether every district has reached a cycle of the milestone (R191, R197). -/
def allReached (s : State) (n : Nat) : Bool := (List.range 144).all (fun d => decide (n ≤ districtCyc s d))

/-- Whether two coordinate words name one chip: TIER takes no part in addressing (R266). -/
def sameChip (a b : Word) : Bool := decide ((a ^^^ b) &&& 0x3FFFFFFF = 0)

/-- The committed slot. -/
def committedSlot (s : State) : Option Slot :=
  match s.sch.committed with
  | some i => (s.slots.find? (fun p => p.1 == i.val)).map (·.2)
  | none => none

/-- A header byte or field of the committed itinerary (R221). -/
def header (x : Slot) (first count : Nat) : Nat :=
  ofLe ((List.range count).map (fun i => SMap.get 0 x.bytes (first + i)))

/-- L of the committed itinerary (R191, R228). -/
def milestoneLen (s : State) : Nat :=
  match committedSlot s with
  | some x => 2 ^ header x 8 1
  | none => 2 ^ 14

/-- DIAMETER of the committed itinerary. -/
def diameter (s : State) : Nat :=
  match committedSlot s with
  | some x => header x 9 1
  | none => 0

/-- Whether an itinerary is committed. -/
def isCommitted (s : State) : Bool := s.sch.committed.isSome

/-- TOP_COORD (R266). -/
def coord (s : State) : Word := getReg s 0x000B0000

/-- The device identifier as a reader sees it (R30). -/
def uidView (s : State) : DWord := if s.dev = .boot then 0 else s.boot.uid

/-! ### Device state (R31, R32) -/

/-- GEN_STATE.STATE (R31). From COMMIT on it reads RUN while no hold cause is active, though milestones advance from JOB_START on only
(log 104, DESIGN CHOICE). -/
def stateCode (s : State) : Nat :=
  match s.dev with
  | .boot => 0
  | .recovery => 1
  | .fault => 5
  | .ready =>
    if isCommitted s then (if s.sch.holds = 0 ∧ s.mem.preset = 0 then 3 else 4) else 2

/-- Whether FAULT_N is low: while STATE reads FAULT, and high-impedance at every other time, also while a reset is asserted (R461, R466). -/
def faultLow (s : State) : Bool := s.porstN && s.wrstN && decide (stateCode s = 5)

/-- Whether the chip works on a milestone: READY, an itinerary committed and running (R31, R196, R369). -/
def atWork (s : State) : Bool := decide (s.dev = .ready) && isCommitted s && s.sch.running

/-- Whether the device is in RUN or HOLD. -/
def runOrHold (s : State) : Bool := decide (stateCode s = 3) || decide (stateCode s = 4)

/-! ### Power events (R359) -/

/-- The weight W_n. -/
def weight (s : State) (n : Nat) : Nat := (getReg s (0x00040080 + 4 * n)).toNat

/-- `k` events of class n in a district, each with its weight (R359). -/
def charge (s : State) (d n k : Nat) : State :=
  let w := k * weight s n
  if w = 0 then s
  else
    let x := SMap.get {} s.pwr.dies (quadOf d)
    { s with pwr := { s.pwr with
        districtFj := SMap.modify 0 s.pwr.districtFj d (· + w)
        dies := SMap.set {} s.pwr.dies (quadOf d) { x with tickFj := x.tickFj + w } } }

/-- `fj` counted by a die outside its districts: HBM3E accesses and ballast (R359, R363). -/
def chargeDie (s : State) (q fj : Nat) : State :=
  if fj = 0 then s
  else
    let x := SMap.get {} s.pwr.dies q
    { s with pwr := { s.pwr with
        dies := SMap.set {} s.pwr.dies q { x with tickFj := x.tickFj + fj, sampleFj := x.sampleFj + fj } } }

/-- `k` events of class n of the hub die. -/
def chargeHub (s : State) (n k : Nat) : State :=
  let w := k * weight s n
  if w = 0 then s else { s with pwr := { s.pwr with hubFj := s.pwr.hubFj + w } }

/-- The accesses of 64 bytes that `n` bytes of LPDDR5X from `a` take (R359, class 13). -/
def chargeT2 (s : State) (a n : Nat) : State := chargeHub s 13 (if n = 0 then 0 else (a + n - 1) / 64 + 1 - a / 64)

/-! ### What the device sends -/

/-- Appends to what the device has sent. -/
def emit (s : State) (o : Out) : State := { s with out := s.out ++ [o] }

/-- The 128 bytes of a report (R422). -/
def reportBytes (s : State) (type : Nat) (body : List Word) : List Byte :=
  leBytes 2 0xD96D ++ leBytes 1 0x10 ++ leBytes 1 type ++ leBytes 4 s.ports.reportSeq.toNat ++
  leBytes 8 (uidView s).toNat ++ leBytes 4 (coord s).toNat ++ leBytes 6 s.sch.milestone ++
  leBytes 6 (if isCommitted s then s.sch.jobMs else 0) ++ leBytes 8 (if isCommitted s then s.sch.position else 0) ++
  leBytes 4 (localTime s).toNat ++ (body ++ List.replicate (21 - body.length) 0).flatMap (fun (w : Word) => leBytes 4 w.toNat)

/-- Whether the management port uses its recovery addresses and the reset values of its other settings: until step 7 completes, and
throughout RECOVERY (R443). -/
def mgtRecovery (s : State) : Bool := decide (s.boot.step ≠ 7) || decide (s.dev = .recovery)

/-- A setting of the management port that is in force (R443). -/
def mgtSetting (s : State) (a : Nat) : Word := if mgtRecovery s then resetOf a else getReg s a

/-- Makes a management report: into the ring of 1,024, as a datagram, and as an in-band interrupt (R421, R422). -/
def report (s : State) (type : Nat) (body : List Word) : State :=
  let bytes := reportBytes s type body
  let seq := s.ports.reportSeq.toNat
  let ring := (s.ports.reports ++ [(seq, bytes)]).drop (s.ports.reports.length + 1 - 1024)
  let s := { s with ports := { s.ports with reports := ring, reportSeq := s.ports.reportSeq + 1 } }
  let ctrl := mgtSetting s 0x00090004
  let dest := mgtSetting s 0x00090014
  let s := if bit ctrl 29 && dest != 0 && s.ports.mgtUp then
      emit s (.report (mgtSetting s 0x00090010) dest (BitVec.ofNat 16 (bits (mgtSetting s 0x00090018) 15 0)) bytes)
    else s
  if bit ctrl 30 then emit s (.ibi (BitVec.ofNat 8 type)) else s

/-! ### WAY flits (R200) -/

/-- The 244 payload bytes of a WAY flit. -/
def wayBytes (w : WayFlit) : List Byte :=
  let tail :=
    if w.kind = 3 then leBytes 6 w.freezeFrom.toNat
    else if w.kind = 4 then leBytes 4 w.resume.toNat ++ [0, 0]
    else List.replicate 6 0
  leBytes 1 w.kind.toNat ++ leBytes 1 w.round.toNat ++ leBytes 6 w.jobMs.toNat ++ leBytes 6 w.milestone.toNat ++
  leBytes 2 w.origin.toNat ++ leBytes 4 w.sender.toNat ++ leBytes 4 w.time.toNat ++ leBytes 1 w.flags.toNat ++
  leBytes 1 w.causes.toNat ++ [0, 0] ++ (if w.kind = 3 ∨ w.kind = 4 then leBytes 4 w.seq.toNat else [0, 0, 0, 0]) ++
  tail ++ List.replicate 206 0

/-- A WAY flit of this chip with the fields every kind shares. -/
def ownFlit (s : State) (kind : Byte) : WayFlit :=
  { kind := kind, round := 0, jobMs := BitVec.ofNat 48 s.sch.jobMs, milestone := BitVec.ofNat 48 s.sch.milestone,
    origin := BitVec.ofNat 16 s.sch.lchip, sender := coord s, time := localTime s, flags := 0, causes := 0, seq := 0,
    freezeFrom := 0, resume := 0 }

/-- Queues a WAY flit on link n. -/
def queueWay (s : State) (w : WayFlit) (n : Nat) : State :=
  let l := getLink s n
  setLink s n { l with wayQ := l.wayQ ++ [wayBytes w] }

/-- The active links. -/
def activeLinks (s : State) : List Nat := (List.range 24).filter (fun n => decide ((getLink s n).state = .active))

/-- Queues a WAY flit on every active link but `except` (R196, R199, R213). -/
def sendWay (s : State) (w : WayFlit) (except : Option Nat) : State :=
  ((activeLinks s).filter (fun n => decide (some n ≠ except))).foldl (fun s n => queueWay s w n) s

/-! ### Holds (R211 to R216) -/

/-- The own causes: every cause but NEIGHBOUR and RESUME_WAIT (R213). -/
def ownCauses (s : State) : BitVec 11 := s.sch.holds &&& 0b10011111111

/-- Sets or clears one cause bit. -/
def putCause (s : State) (b : Nat) (v : Bool) : State :=
  let m : BitVec 11 := 1 <<< b
  { s with sch := { s.sch with holds := if v then s.sch.holds ||| m else s.sch.holds &&& ~~~m } }

/-- Bit 9, RESUME_WAIT: every other cause is clear and a RESUME time is still in the future (R212, R214). -/
def settleResume (s : State) : State :=
  match s.sch.resumeAt with
  | none => s
  | some t =>
    if s.sch.holds &&& 0b10111111111 ≠ 0 then putCause s 9 false
    else if reached s t then
      putCause { s with sch := { s.sch with resumeAt := none, resumeFrom := 0 } } 9 false
    else putCause s 9 true

/-- The later of two RESUME times in the order of R381. -/
def laterResume (s : State) (t : Word) : Option Word :=
  match s.sch.resumeAt with
  | none => some t
  | some u => if (u - t).msb then some t else some u

/-- Takes up a RESUME time and the lowest job milestone it keeps frozen until then (R214). -/
def waitUntil (s : State) (t : Word) (from_ : Nat) : State :=
  let low := if s.sch.resumeAt.isSome then min s.sch.resumeFrom from_ else from_
  settleResume { s with sch := { s.sch with resumeAt := laterResume s t, resumeFrom := low } }

/-- Sends HOLD with a new SEQ (R213). -/
def sendHold (s : State) : State :=
  let s := { s with sch := { s.sch with ownSeq := s.sch.ownSeq + 1 } }
  let from_ := if ownCauses s = 0b00010000000 then s.sch.jobMs + 1 else 0
  sendWay s { ownFlit s 3 with seq := BitVec.ofNat 32 s.sch.ownSeq, freezeFrom := BitVec.ofNat 48 from_ } none

/-- Sends RELEASE with RESUME set to network time plus SCH_RESUME_DELAY, and waits for that time itself (R214). -/
def sendRelease (s : State) (rippleOnly : Bool) : State :=
  let t := localTime s + getReg s 0x000A0038
  let s := sendWay s { ownFlit s 4 with seq := BitVec.ofNat 32 s.sch.ownSeq, resume := t } none
  waitUntil s t (if rippleOnly then s.sch.jobMs + 1 else 0)

/-- Raises a hold cause (R212, R213, R216): the onset of an own cause reports and, from none to some, sends HOLD. -/
def raiseCause (s : State) (b : Nat) : State :=
  if s.sch.holds.getLsbD b then s
  else
    let first := decide (ownCauses s = 0)
    let s := settleResume (putCause s b true)
    let s := report s 0x03 [s.sch.holds.setWidth 32, BitVec.ofNat 32 b]
    if first then sendHold s else s

/-- Clears a hold cause; from some own cause to none the chip sends RELEASE (R214). -/
def clearCause (s : State) (b : Nat) : State :=
  if s.sch.holds.getLsbD b then
    let ripple := decide (ownCauses s = 0b00010000000)
    let s := putCause s b false
    if ownCauses s = 0 then sendRelease s ripple else s
  else s

/-- The causes in the order in which their recoveries begin (R215). -/
def recoveryOrder : List Nat := [1, 4, 3, 2, 10, 6, 5, 0, 7]

/-- Whether the recovery of a cause may begin: every cause above it has cleared (R215). -/
def inTurn (s : State) (b : Nat) : Bool := (recoveryOrder.takeWhile (fun c => decide (c ≠ b))).all (fun c => !s.sch.holds.getLsbD c)

/-- Clears a hold cause whose turn has come (R215). -/
def clearInTurn (s : State) (b : Nat) : State := if inTurn s b then clearCause s b else s

/-- A software decision on a violation has its turn (R215, R216). -/
def settleDecision (s : State) : State :=
  if s.sch.decided && inTurn s 0 then clearCause { s with sch := { s.sch with decided := false } } 0 else s

/-- Whether the chip is frozen for job milestone j (R212, R214). -/
def frozenFor (s : State) (j : Nat) : Bool :=
  decide (ownCauses s &&& 0b11101111111 ≠ 0) || s.sch.holdSet.any (fun h => decide (h.freezeFrom ≤ j)) ||
  (s.sch.holds.getLsbD 9 && decide (s.sch.resumeFrom ≤ j))

/-- Whether the chip is frozen for the milestone it runs, or stopped (R31, R211). -/
def frozen (s : State) : Bool := frozenFor s s.sch.jobMs

/-! ### Abandonment (R195) -/

/-- Sets ABANDON with cause code c for the job milestone being run; a cause detected after its waymark was sent counts
for the next one. -/
def setAbandon (s : State) (c : Nat) : State :=
  if isCommitted s then
    let m : BitVec 6 := 1 <<< (c - 1)
    if s.sch.done then { s with sch := { s.sch with causesNext := s.sch.causesNext ||| m } }
    else { s with sch := { s.sch with causesNow := s.sch.causesNow ||| m } }
  else s

/-! ### Detected violations (R125, R216, R227) -/

/-- A tile violation (R125): the first is kept in DSTddd_Tp_VIOL, each reports and raises VIOLATION. The report of a later one carries the
image of the register, as R424 says, and so the code of the first (log 137, DEDUCED). A shadow's raises
neither hold nor report; the comparison of R320 finds it. -/
def tileViolation (s : State) (t : TileRef) (code g line : Nat) (more : List Word) : State :=
  let x := getTile s t
  let s := setTile s t { x with viols := x.viols ++ [(code, g, line)] }
  if t.shadow then s
  else
    let p := posOf s t
    let a := tileBase t.d.val p + 0x60
    let s := if bit (getReg s a) 31 then s
      else setReg s a (0x80000000 ||| at_ code 24 ||| at_ (g % 128) 17 ||| at_ (line % 2 ^ 17) 0)
    let s := report s 0x01 ([getReg s a, BitVec.ofNat 32 t.d.val, BitVec.ofNat 32 p, BitVec.ofNat 32 t.l.val] ++ more)
    raiseCause s 0

/-- A schedule violation (R227, R228). -/
def schedViolation (s : State) (code kind slot district link road : Nat) : State :=
  let s := if bit (getReg s 0x000A0024) 31 then s
    else
      let s := setReg s 0x000A0024 (0x80000000 ||| at_ code 24 ||| at_ kind 16)
      let s := setReg s 0x000A0028 (at_ (slot % 2 ^ 18) 14 ||| at_ district 6 ||| at_ link 0)
      setReg s 0x000A002C (at_ (road % 2 ^ 16) 16 ||| at_ (s.sch.jobMs % 2 ^ 16) 0)
  let s := report s 0x02 [getReg s 0x000A0024, getReg s 0x000A0028, getReg s 0x000A002C]
  raiseCause s 0

/-- A schedule violation at a send entry of a tile (hop kind 0). -/
def sendViolation (s : State) (t : TileRef) (code sid road : Nat) : State :=
  if t.shadow then
    let x := getTile s t
    setTile s t { x with viols := x.viols ++ [(code, sid, 0)] }
  else
    let x := getTile s t
    let s := setTile s t { x with viols := x.viols ++ [(code, sid, 0)] }
    schedViolation s code 0 sid t.d.val 0x1F road

/-- The number KIND, DISTRICT and LINK give a hop (R228). -/
def hopImage : HopId → Nat × Nat × Nat
  | .street d _ => (1, d.val, 0x1F)
  | .localSwitch d => (2, d.val, 0x1F)
  | .bridge q _ => (3, 0xF0 + q.val, 0x1F)
  | .linkTx n => (4, 0xFF, n.val)
  | .linkIn n => (5, 0xFF, n.val)

/-- A schedule violation at a hop. -/
def hopViolation (s : State) (h : HopId) (code slot road : Nat) : State :=
  let i := hopImage h
  schedViolation s code i.1 slot i.2.1 i.2.2 road

/-- A fresh number for a free value. -/
def takeFresh (s : State) : State := { s with fresh := s.fresh + 1 }

end Sys2Proof.Machine
end

