-- ==== Sys2Proof/Machine/FlashCore.lean ====
section
/-! DEFINITION. The SPI NOR flash (R432, R433): its areas, its bytes, erasing and programming. -/

namespace Sys2Proof.Machine

/-- The flash size in bytes. -/
def flashSize (s : State) : Nat := s.boot.flashMiB.toNat * 2 ^ 20
/-- The size of the image slot (R433). -/
def imageSlot (s : State) : Nat := flashSize s - 196608
/-- The offset of identity copy A or B. -/
def copyBase (s : State) (b : Bool) : Nat := flashSize s - (if b then 131072 else 196608)
/-- The offset of the seal area. -/
def sealBase (s : State) : Nat := flashSize s - 65536
/-- Whether the flash is usable (R432). -/
def flashUsable (s : State) : Bool := decide (s.boot.flashMode ≠ 0)

/-- The number of the store that left a byte undefined. -/
def tornAt (b : Boot) (a : Nat) : Option Nat :=
  (b.torn.find? (fun p => decide (p.1 ≤ a) && decide (a < p.1 + p.2.1))).map (·.2.2)

/-- A byte of flash: erased bytes read 0xFF. -/
def flashByte (s : State) (a : Nat) : Byte :=
  match tornAt s.boot a with
  | some n => Config.tornByte n a
  | none => SMap.get 0xFF s.boot.flash a

/-- Bytes of flash. -/
def flashBytes (s : State) (a n : Nat) : List Byte := (List.range n).map (fun i => flashByte s (a + i))

/-- What is left of undefined spans when `n` bytes from `a` are erased. -/
def cutSpans (l : List (Nat × Nat × Nat)) (a n : Nat) : List (Nat × Nat × Nat) :=
  (l.flatMap (fun p =>
    [(p.1, min p.2.1 (a - p.1), p.2.2), (max p.1 (a + n), p.1 + p.2.1 - max p.1 (a + n), p.2.2)])).filter
    (fun p => decide (0 < p.2.1))

/-- Erases `n` bytes from `a` and programs bytes there. -/
def flashPut (b : Boot) (a n : Nat) (l : List Byte) : Boot :=
  let low := b.flash.filter (fun p => decide (p.1 < a))
  let high := b.flash.filter (fun p => decide (a + n ≤ p.1))
  let new := (((List.range l.length).zip l).filter (fun p => p.2 != 0xFF)).map (fun p => (a + p.1, p.2))
  { b with flash := low ++ new ++ high, torn := cutSpans b.torn a n }

/-- Erases `n` bytes from `a`. -/
def flashErase (b : Boot) (a n : Nat) : Boot := flashPut b a n []

/-- The bytes from `a` are left undefined by the store with the given number. -/
def flashTear (b : Boot) (a n number : Nat) : Boot :=
  let b := flashErase b a n
  { b with torn := b.torn ++ [(a, n, number)] }

/-- Rounds up to whole 64 KiB sectors. -/
def sectors (n : Nat) : Nat := ceilDiv n 65536 * 65536

/-- The signature of a message by the identity key, by its fresh number (R60, R449). -/
def signatureOf (s : State) (number : Nat) (msg : List Byte) : List Byte :=
  (List.range 29792).map (Config.signatureByte number s.boot.secret msg)

/-! ### An image store (R446, R447) -/

/-- A byte of the staged image; one that was never written reads 0xFF (R445). -/
def stageByte (s : State) (a : Nat) : Byte := SMap.get 0xFF s.boot.stage a

/-- The pages of an image of `total` bytes. -/
def pages (total : Nat) : Nat := ceilDiv total 256

/-- The store gets one unit further: the next sector is erased, in ascending order, and then the next page is programmed, from the highest
down to page 0. -/
def storeUnit (s : State) (total : Nat) : State :=
  let b := s.boot
  if b.storeSectors < ceilDiv total 65536 then
    { s with boot := { flashErase b (65536 * b.storeSectors) 65536 with storeSectors := b.storeSectors + 1 } }
  else if b.storePages < pages total then
    let p := 256 * (pages total - 1 - b.storePages)
    { s with boot := { flashPut b p 256 ((List.range (min 256 (total - p))).map (fun i => stageByte s (p + i))) with
        storePages := b.storePages + 1 } }
  else s

/-- One ns of a store: the flash gets a unit further or not (log 31). -/
def storeTick (s : State) : State :=
  match s.boot.storeBusy, s.boot.session with
  | true, some (_, total) =>
    let t := takeFresh s
    if Config.flashMoves s.fresh then storeUnit t total else t
  | _, _ => s

/-- The flash when a reset cuts a store short (R447): the unit under way is left undefined. Until page 0 is programmed the header is
erased; a cut while page 0 is programmed is noted, and once it is programmed the image is whole. -/
def cutStore (b : Boot) (total number : Nat) : Boot :=
  if b.storeSectors < ceilDiv total 65536 then
    flashErase (flashTear b (65536 * b.storeSectors) 65536 number) 0 256
  else if b.storePages < pages total then
    let p := pages total - 1 - b.storePages
    { flashTear b (256 * p) 256 number with cut := decide (p = 0) }
  else b

end Sys2Proof.Machine
end

