-- ==== Sys2Proof/Machine/ClockCore.lean ====
section
/-! DEFINITION. Realignment of a die and changes of its divider (R344, R347, R348, R350). -/

namespace Sys2Proof.Machine

/-- The base of a die's clock registers. -/
def clkBase (q : Nat) : Nat := 0x00030010 + 0x10 * q

/-- The districts of a die. -/
def dieDistricts (q : Nat) : List Nat := (List.range 36).map (fun i => 36 * q + i)

/-- The greatest divergence at which a crossing FIFO of a die now stands (R344, R357). -/
def greatestDelta (s : State) (q : Nat) : Nat :=
  (dieDistricts q).foldl (fun m d => (getDist s d).delta.foldl (fun m p => max m p.2.natAbs) m) 0

/-- The district at a street port: 0 north, 1 south, 2 east, 3 west, in the 6 by 6 mesh of its die (R16, R357). -/
def streetNeighbour (d port : Nat) : Option Nat :=
  let r := d % 36 / 6
  let c := d % 6
  if port = 0 then (if r = 0 then none else some (d - 6))
  else if port = 1 then (if r = 5 then none else some (d + 6))
  else if port = 2 then (if c = 5 then none else some (d + 1))
  else (if c = 0 then none else some (d - 1))

/-- The port that faces back. -/
def facing (port : Nat) : Nat := if port = 0 then 1 else if port = 1 then 0 else if port = 2 then 3 else 2

/-- Steps 2 to 4 of R348: every crossing FIFO of the die at divergence 0, every event count at that of the entry point. -/
def realignDie (s : State) (q : Nat) : State :=
  let e := (getDist s (36 * q + 14)).event
  let s := (dieDistricts q).foldl (fun s d => setDist s d { getDist s d with delta := [], stopped := [], event := e }) s
  let s := bump s (0x00030108 + 0x10 * q) 1
  if s.dists.any (fun p => !p.2.stopped.isEmpty) then s else clearCause s 3

/-- The divider a die is to use (R350). -/
def wantedDiv (s : State) (q : Nat) : Nat :=
  let f := getReg s (clkBase q)
  max (bits f 4 0) (bits f 20 16)

/-- The divider in use. -/
def curDiv (s : State) (q : Nat) : Nat := bits (getReg s (clkBase q)) 28 24

/-- PCAP of a die whose divider changes while it binds waits for the first 2 µs after the restart (R372). -/
def restartPcap (s : State) (q : Nat) : State :=
  let x := SMap.get {} s.pwr.dies q
  if x.binds.getLsbD 0 then { s with pwr := { s.pwr with dies := SMap.set {} s.pwr.dies q { x with fresh := 0 } } } else s

/-- A die's clock stops at the end of a cycle, for at most 2 µs, and starts again with a whole period (R350; log 117). -/
def stopClock (s : State) (q : Nat) : State :=
  { s with clk := { s.clk with
      phase := SMap.set 0 s.clk.phase q 0, stop := SMap.set 0 s.clk.stop q (min 2000 (Config.restartNs s.epoch s.tme.age q)) } }

/-- The sequence of R350 where the divider differs from the one in use. -/
def changeDiv (s : State) (q : Nat) : State :=
  let d := wantedDiv s q
  if d = curDiv s q then s
  else
    let s := realignDie (stopClock (restartPcap s q) q) q
    let s := setReg s (clkBase q) (putMask (getReg s (clkBase q)) (at_ d 24) 0x1F000000)
    bump s (0x00030100 + 0x10 * q) 1

/-- The sequence of R350 for every die whose divider differs from the one in use. -/
def changeDivs (s : State) : State := (List.range 4).foldl changeDiv s

end Sys2Proof.Machine
end

