-- ==== Sys2Proof/Machine/Reset.lean ====
section
/-! DEFINITION. What a reset leaves (R48, R331, R380, R425, R431, R447, R461). -/

namespace Sys2Proof.Machine

/-- The flash after a reset: what an image store that a reset cuts short leaves (R447; log 31), and a seal store leaves the seal area
undefined (R63). -/
def flashAfter (s : State) : Boot :=
  let b := s.boot
  if b.storeBusy then
    match b.session with
    | some (_, total) => cutStore b total s.fresh
    | none => b
  else if s.jrn.flashBusy && !s.jrn.flashWait.isEmpty && flashUsable s then flashTear b (sealBase s) 65536 s.fresh
  else b

/-- What both resets leave: the queue, what was sent, the free-value counters, the pins and the flash. -/
def resetCommon (s : State) : State :=
  { State.reset with
    pending := s.pending, out := s.out, fresh := s.fresh + 1, epoch := s.epoch + 1,
    porstN := s.porstN, wrstN := s.wrstN, throtN := s.throtN,
    boot := { flash := (flashAfter s).flash, torn := (flashAfter s).torn, cut := (flashAfter s).cut, sfdp := s.boot.sfdp } }

/-- Power-on reset (R431, R461). -/
def porstReset (s : State) : State := { resetCommon s with porstN := false }

/-- Warm reset (R431): PLLs, the time unit and the training of LPDDR5X are kept. -/
def wrstReset (s : State) : State :=
  let r := resetCommon s
  { r with
    wrstN := false
    clk := { refOk := s.clk.refOk, timeOk := s.clk.timeOk, locks := s.clk.locks, phase := s.clk.phase }
    tme := { s.tme with locked := false, prev := none, stepped := none, measured := [], exchanges := [] }
    mem := { r.mem with trained := s.mem.trained, installed := s.mem.installed }
    boot := { r.boot with cold := false } }

end Sys2Proof.Machine
end

