-- ==== Sys2Proof/Machine/BootCore.lean ====
section
/-! DEFINITION. What a release starts (R30, R63, R344, R354, R380, R431 to R433, R437 to R439): the identity, the seal area, and the boot
ROM up to the end of step 4; and BOOT_CTRL.REBOOT. -/

namespace Sys2Proof.Machine

/-! ### Identity (R30, R437, R438) -/

/-- An identity copy as it lies in flash. -/
def copyBytes (s : State) (b : Bool) : List Byte := flashBytes s (copyBase s b) 4140

/-- The secret and public seeds (SK.seed, SK.prf, PK.seed) that the PUF gives with helper data (R437). -/
def seedsOf (helper : List Byte) : List Byte :=
  let key := shake256 (Config.correctedReading helper) 32
  shake256 ([0x59, 0x4D, 0x58, 0x2D, 0x44, 0x39, 0x36, 0x30, 0x30, 0x20, 0x69, 0x64, 0x65, 0x6E, 0x74, 0x69, 0x74, 0x79] ++ key) 96

/-- The seeds that the helper data of an identity copy gives. -/
def copySeeds (l : List Byte) : List Byte := seedsOf (slice l 8 4096)

/-- Whether an identity copy is valid (R438): its CRC-32C matches, and the public key derived from its helper data hashes to its stored
value. -/
def copyValid (l : List Byte) : Bool :=
  decide (num l 4136 4 = (crc32c (slice l 0 4136)).toNat) &&
  slice l 4104 32 == shake256 (leBytes 64 (Config.publicKey (copySeeds l)).toNat) 32

/-- An identity copy over helper data. -/
def newCopy (helper : List Byte) (key : BitVec 512) : List Byte :=
  let l := leBytes 4 0x44494D59 ++ leBytes 4 1 ++ slice helper 0 4096 ++ shake256 (leBytes 64 key.toNat) 32
  l ++ leBytes 4 (crc32c l).toNat

/-- Writes an identity copy. -/
def putCopy (s : State) (b : Bool) (l : List Byte) : State :=
  { s with boot := flashPut s.boot (copyBase s b) 65536 l }

/-- The signing engine takes the seeds of the identity, and the public key is theirs (R437). -/
def takeSeeds (s : State) (seeds : List Byte) : State :=
  { s with boot := { s.boot with secret := seeds, pk := Config.publicKey seeds } }

/-- The 4,096 bytes of helper data that an enrolment forms of a reading (R437, R438). -/
def newHelper (reading : List Byte) : List Byte := (List.range 4096).map (Config.helperByte reading)

/-- Takes the key of the first valid copy and repairs the other one, or enrols (R437, R438). -/
def resolveIdentity (s : State) : State :=
  let helper := newHelper (Config.pufArray s.fresh)
  let s := takeFresh s
  let la := copyBytes s false
  let lb := copyBytes s true
  let okA := flashUsable s && copyValid la
  let okB := flashUsable s && copyValid lb
  if okA || okB then
    let s := takeSeeds s (copySeeds (if okA then la else lb))
    if la = lb then s
    else
      let s := putCopy s okA (if okA then la else lb)
      { s with boot := { s.boot with repaired := true } }
  else
    let s := takeSeeds { s with boot := { s.boot with enrolled := true } } (seedsOf helper)
    if flashUsable s then
      let l := newCopy helper s.boot.pk
      putCopy (putCopy s false l) true l
    else s

/-- The device identifier of a public key (R30). -/
def uidOf (pk : BitVec 512) : DWord := BitVec.ofNat 64 (ofLe (shake256 (leBytes 64 pk.toNat) 8))

/-! ### The seal area (R63, R433) -/

/-- Whether the seal area is erased. -/
def sealEmpty (s : State) : Bool :=
  (tornAt s.boot (sealBase s)).isNone &&
  s.boot.flash.all (fun p => decide (p.1 < sealBase s) || decide (sealBase s + 65536 ≤ p.1))

/-- Whether a seal area that is not empty passes (R433): its format, its device identifier, and its signature of the 128 bytes of its
header under this device's key. -/
def sealPasses (s : State) : Bool :=
  (tornAt s.boot (sealBase s)).isNone && decide (ofLe (flashBytes s (sealBase s) 4) = 1) &&
  decide (ofLe (flashBytes s (sealBase s + 16) 8) = s.boot.uid.toNat) &&
  Config.verifies s.boot.pk (flashBytes s (sealBase s) 128) (flashBytes s (sealBase s + 128) 29792)

/-- Step 4: the group 4 digest; a seal area that fails is erased. -/
def verifySeal (s : State) : State :=
  if flashUsable s = false ∨ sealEmpty s = true then s
  else if sealPasses s then
    { s with boot := { s.boot with group4 := digest256 (flashBytes s (sealBase s) 29920) } }
  else
    { s with
      boot := { flashErase s.boot (sealBase s) 65536 with group4 := BitVec.allOnes 256 }
      jrn := { s.jrn with prevSealBad := true } }

/-! ### Release (R354, R380, R431, R439 steps 1 to 4) -/

/-- The clocks after a release: from the start, or kept (R354). Each die's clocks start with a realignment (R344). -/
def startClocks (s : State) : State :=
  let s := if s.boot.cold then { s with clk := { refOk := true, timeOk := true, locks := BitVec.allOnes 19 }, tme := {} } else s
  (List.range 4).foldl realignDie s

/-- The flash mode in use (R432): the first of 8D-8D-8D, 1S-8S-8S and 1S-4S-4S that the tables declare. A flash is unusable when its
tables can not be read, below 512 Mbit, or without a 64 KiB erase or 4-byte addressing; with none of the modes as well (log 68). -/
def usableMode (f : Sfdp) : BitVec 2 :=
  if f.readable && decide (64 ≤ f.mib.toNat) && f.erase64 && f.addr4 then
    (if f.ddr8 then 3 else if f.sdr8 then 2 else if f.sdr4 then 1 else 0)
  else 0

/-- The boot ROM up to the end of step 4. -/
def startBoot (s : State) (f : Sfdp) : State :=
  let s := startClocks s
  let s := takeFresh { s with
    boot := { s.boot with cold := false, sfdp := f, flashMode := usableMode f, flashMiB := f.mib }
    jrn := { s.jrn with nonce := Config.entropy s.fresh } }
  let s := resolveIdentity s
  let s := { s with boot := { s.boot with uid := uidOf s.boot.pk } }
  let s := verifySeal s
  { s with boot := { s.boot with step := 4 } }

/-- BOOT_CTRL.REBOOT: a pulse of WRST_N, its assertion and release (R451, R461). The boot ROM meets the flash that the last release found
(log 41). -/
def reboot (s : State) : State := startBoot { wrstReset s with wrstN := s.wrstN } s.boot.sfdp

end Sys2Proof.Machine
end

