-- ==== Sys2Proof/Machine/Journal.lean ====
section
/-! DEFINITION. The change journal (R51 to R67): records and their chain, records held while the reserve is exhausted,
warning and full levels, and seals with the order in which the signing engine serves them (R60 to R62, R448). -/

namespace Sys2Proof.Machine

/-- Records of the record region (R51). -/
def jrnCap : Nat := 786432
/-- The occupancy at which the journal is full (R66). -/
def jrnFull : Nat := 785408

/-- Records appended and not released (R65). -/
def occupancy (s : State) : Nat := s.jrn.next - s.jrn.retain
/-- Whether R66 refuses writes outside the JRN block: the journal is full, or writes of an ended itinerary wait (R47). -/
def journalFull (s : State) : Bool := decide (jrnFull ≤ occupancy s) || !s.sch.leftover.isEmpty

/-- The source code of SRC_FLAGS (R53). -/
def srcCode : Source → Nat
  | .self => 0
  | .host _ => 1
  | .mgt _ => 2
  | .i3c => 3

/-- The milestone number of a record made now: in FAULT the milestone that ran is over, and the next to begin is the one after it (R52). -/
def recordMs (s : State) : Nat := s.sch.milestone + flag (decide (s.dev = .fault) && isCommitted s && s.sch.running)

/-- A record of the present moment. -/
def draft (s : State) (type srcFlags : Nat) (a0 a1 a2 : Word) : Draft :=
  { milestone := recordMs s, type := BitVec.ofNat 8 type, srcFlags := BitVec.ofNat 8 srcFlags, time := localTime s,
    a0 := a0, a1 := a1, a2 := a2 }

/-- Bytes 0 to 31 of a record (R52). -/
def recordHead (n : Nat) (d : Draft) : List Byte :=
  leBytes 8 n ++ leBytes 6 d.milestone ++ [d.type, d.srcFlags] ++ leBytes 4 d.time.toNat ++ leBytes 4 d.a0.toNat ++
  leBytes 4 d.a1.toNat ++ leBytes 4 d.a2.toNat

/-- The 64 bytes of a record (R52). -/
def recordBytes (r : Record) : List Byte :=
  recordHead r.recno { milestone := r.milestone, type := r.type, srcFlags := r.srcFlags, time := r.time, a0 := r.a0,
                       a1 := r.a1, a2 := r.a2 } ++ leBytes 32 r.chain.toNat

/-- The chain value of a record (R55). -/
def chainOf (before : BitVec 256) (n : Nat) (d : Draft) : BitVec 256 :=
  digest256 (leBytes 32 before.toNat ++ recordHead n d)

/-! ### Seals -/

/-- The 128 bytes of a seal header taken now (R60). -/
def sealHeader (s : State) : List Byte :=
  leBytes 4 1 ++ leBytes 4 0 ++ leBytes 8 s.jrn.sealNumber ++ leBytes 8 s.boot.uid.toNat ++ leBytes 8 s.jrn.nonce.toNat ++
  leBytes 8 (s.jrn.next - 1) ++ leBytes 32 s.jrn.chain.toNat ++ leBytes 6 s.sch.milestone ++ leBytes 2 1 ++
  leBytes 4 (localTime s).toNat ++ List.replicate 44 0

/-- Starts a seal over the last record appended (R61). -/
def startSeal (s : State) (flash : Bool) : State :=
  { s with jrn := { s.jrn with
      running := some { header := sealHeader s, covered := s.jrn.next - 1, flash := flash },
      sealNumber := s.jrn.sealNumber + 1, waits := none } }

/-- A seal falls due (R61): it starts when the signing engine is free, else it waits; one that waits is not duplicated,
and is stored in flash when either request asks for it. -/
def requestSeal (s : State) (flash : Bool) : State :=
  if !s.jrn.kept then s
  else
    let s := if flash then { s with jrn := { s.jrn with flashBusy := true } } else s
    match s.jrn.waits with
    | some f => { s with jrn := { s.jrn with waits := some (f || flash) } }
    | none =>
      if s.boot.signQ.isEmpty then
        startSeal { s with boot := { s.boot with signQ := [.journalSeal] } } flash
      else { s with jrn := { s.jrn with waits := some flash }, boot := { s.boot with signQ := s.boot.signQ ++ [.journalSeal] } }

/-- The 128 bytes of an attestation statement taken now (R449). -/
def attestText (s : State) (nonce : BitVec 256) : List Byte :=
  let slot := match s.sch.committed with
    | some i => i.val
    | none => 0xFF
  let group2 := match committedSlot s with
    | some x => x.digest2
    | none => 0
  leBytes 4 2 ++ leBytes 2 1 ++ leBytes 1 slot ++ [0] ++ leBytes 8 s.boot.uid.toNat ++ leBytes 8 s.jrn.nonce.toNat ++
  leBytes 32 nonce.toNat ++ leBytes 8 (s.jrn.next - 1) ++ leBytes 32 s.jrn.chain.toNat ++ leBytes 32 group2.toNat

/-- The signing engine takes up its next request (R448). -/
def nextSign (s : State) : State :=
  match s.boot.signQ with
  | .journalSeal :: _ => startSeal s (s.jrn.waits = some true)
  | .attest n :: _ => { s with boot := { s.boot with attestText := attestText s n } }
  | [] => s

/-- The signing engine's present request ends. -/
def endSign (s : State) : State := nextSign { s with boot := { s.boot with signQ := s.boot.signQ.drop 1 } }

/-! ### Levels (R65, R66) -/

/-- JRN_STATUS (R67). -/
def jrnStatus (s : State) : Word :=
  at_ (flag (s.jrn.running.isSome || s.jrn.waits.isSome)) 31 ||| at_ (flag s.jrn.flashBusy) 30 |||
  at_ (flag (s.sch.holds.getLsbD 6)) 29 ||| at_ (flag s.jrn.warned) 28 ||| at_ (flag s.jrn.releaseErr) 27 |||
  at_ (flag s.jrn.flashErr) 26 ||| at_ (flag s.jrn.prevSealBad) 25 ||| at_ (occupancy s % 2 ^ 20) 0

/-- The occupancy at which WARN sets (R65). -/
def warnLevel (s : State) : Nat := bits (getReg s 0x00020000) 15 8 * 3072

/-- WARN follows the occupancy; its onset sends a report (R65). -/
def settleWarn (s : State) : State :=
  let now := decide (warnLevel s ≤ occupancy s)
  let was := s.jrn.warned
  let s := { s with jrn := { s.jrn with warned := now } }
  if now && !was then report s 0x0E [jrnStatus s] else s

/-- FULL and its hold cause follow the occupancy (R66); the report shows JRN_STATUS with FULL set (R424), and the cause clears in its turn
(R215). -/
def settleFull (s : State) : State :=
  if jrnFull ≤ occupancy s then
    if s.sch.holds.getLsbD 6 then s else raiseCause (report s 0x0E [jrnStatus s ||| at_ 1 29]) 6
  else clearInTurn s 6

/-- Both levels. -/
def settleLevels (s : State) : State := settleFull (settleWarn s)

/-! ### Appending -/

/-- Appends a record with the next number and its chain value, a line of LPDDR5X (R51, R52, R55, R359); RECNO 4,096k − 1 makes a seal due (R61). -/
def appendNow (s : State) (d : Draft) : State :=
  let n := s.jrn.next
  let c := chainOf s.jrn.chain n d
  let r : Record := { recno := n, milestone := d.milestone, type := d.type, srcFlags := d.srcFlags, time := d.time,
                      a0 := d.a0, a1 := d.a1, a2 := d.a2, chain := c }
  let s := { s with jrn := { s.jrn with records := s.jrn.records ++ [r], next := n + 1, chain := c },
                    sinceRecord := 0 }
  let s := settleLevels (chargeHub s 13 1)
  if n % 4096 = 4095 then requestSeal s false else s

/-- Whether a record can be appended at once: the region has room, no record is held, and no write that an ended itinerary left and no
record of a low word waits for a release, unless it is such a write's own record (R47, R66). -/
def roomNow (s : State) : Bool :=
  decide (occupancy s < jrnCap) && s.jrn.held.isEmpty && (s.sch.draining || (s.sch.leftover.isEmpty && s.jrn.late.isEmpty))

/-- Holds a record; a TICK merges with a TICK held last, which takes its TIME and keeps its own MILESTONE (R57; log 133, DEDUCED). -/
def holdRecord (l : List Draft) (d : Draft) : List Draft :=
  match l.getLast? with
  | some e =>
    if d.type = 0x40 ∧ e.type = 0x40 then l.dropLast ++ [{ e with a0 := e.a0 + d.a0, time := d.time }] else l ++ [d]
  | none => [d]

/-- Appends a record, or holds it while the reserve is exhausted (R66); with no journal kept there is no record (R59). -/
def append (s : State) (d : Draft) : State :=
  if !s.jrn.kept then s
  else if roomNow s then appendNow s d
  else { s with jrn := { s.jrn with held := holdRecord s.jrn.held d }, sinceRecord := 0 }

/-- Appends records in order. -/
def appendAll (s : State) (l : List Draft) : State := l.foldl append s

/-- Appends held records, oldest first, while there is room (R66). -/
def flushHeld : Nat → State → State
  | 0, s => s
  | n + 1, s =>
    match s.jrn.held with
    | [] => s
    | d :: r =>
      if occupancy s < jrnCap then flushHeld n (appendNow { s with jrn := { s.jrn with held := r } } d) else s

/-- The eight DIGEST records of a group (R54). -/
def digestDrafts (s : State) (group : Nat) (word : Nat → Word) : List Draft :=
  (List.range 8).map (fun w => draft s 0x04 0 (at_ group 8 ||| at_ w 0) (word w) 0)

/-- A WRITE record (R54); flags: 1 REVERT, 2 REAPPLY, 4 NOEFFECT, 8 SCHEDULED (R53). -/
def writeDraft (s : State) (src flags addr : Nat) (old new : Word) : Draft :=
  draft s 0x01 (src + 16 * flags) (BitVec.ofNat 32 addr) old new

/-- A write from SELF to a register the device owns: the record, with the register's old and new value, after the
change (R120, R281). -/
def selfRecord (s : State) (addr : Nat) (old new : Word) : State := append s (writeDraft s 0 0 addr old new)

/-- Writes a register from SELF and records it. -/
def selfWrite (s : State) (addr : Nat) (v : Word) : State := selfRecord (setReg s addr v) addr (getReg s addr) v

/-! ### Held low words (R6, R58) -/

/-- Appends the record of a low word that was accepted before, or keeps it for a release while the journal has no room: R66 holds no such
record (log 121, DEDUCED). -/
def appendLate (s : State) (d : Draft) : State :=
  if !s.jrn.kept then s
  else if roomNow s then appendNow s d
  else { s with jrn := { s.jrn with late := s.jrn.late ++ [d] } }

/-- Appends late records, oldest first, while there is room, behind the held records and the writes that wait (log 121, DEDUCED). -/
def flushLate : Nat → State → State
  | 0, s => s
  | n + 1, s =>
    match s.jrn.late with
    | [] => s
    | d :: r =>
      if occupancy s < jrnCap ∧ s.jrn.held = [] ∧ s.sch.leftover = [] then
        flushLate n (appendNow { s with jrn := { s.jrn with late := r } } d)
      else s

/-- Appends the record of a held low word that has none yet. -/
def recordOwed (s : State) (h : Holding) : State :=
  match h.owed, h.low with
  | some a, some v =>
    let ne := match regInfo a with
      | some i => decide (i.rw = 0)
      | none => true
    appendLate s { writeDraft s (srcCode h.src) (if ne then 4 else 0) a h.lowWas (if ne then h.lowWas else v) with time := h.lowAt }
  | _, _ => s

/-- The low word that a source holds has its record. -/
def clearOwed (s : State) (src : Source) : State :=
  { s with holding := s.holding.map (fun x => if x.src = src then { x with owed := none } else x) }

/-- The low words that still have no record once no pair they could be staged with is to come, at the end of an itinerary or in FAULT, are
recorded; the record of one that finds no room waits for a release, behind the writes that wait (R6, R47, R58; log 121, DEDUCED). -/
def recordAllOwed (s : State) : State :=
  s.holding.foldl (fun s h => if h.owed.isSome then clearOwed (recordOwed s h) h.src else s) s

/-! ### FAULT (R31, R466) -/

/-- Puts the device into FAULT with a cause code of report 0x10. -/
def enterFault (s : State) (cause : Nat) : State :=
  if s.dev = .fault then s
  else report { recordAllOwed s with dev := .fault, faultCause := BitVec.ofNat 8 cause } 0x10 [BitVec.ofNat 32 cause]

end Sys2Proof.Machine
end

