-- ==== Sys2Proof/Machine/Topology.lean ====
section
/-! DEFINITION. Coordinates and the road map (R266 to R269, R273, R275, R276): which coordinate words are valid, which
links lead to a logical chip, and to which physical hop a hop of the itinerary resolves. -/

namespace Sys2Proof.Machine

/-! ### Coordinate words (R266, R267) -/

/-- BLOCK. -/
def coordBlock (w : Word) : Nat := bits w 29 16
/-- X, Y or Z: axis 0, 1 or 2. -/
def coordAt (w : Word) (axis : Nat) : Nat := if axis = 0 then bits w 11 8 else if axis = 1 then bits w 7 4 else bits w 3 0
/-- TOP_SHAPE. -/
def shape (s : State) : Word := getReg s 0x000B0004
/-- The block length along an axis. -/
def shapeLen (w : Word) (axis : Nat) : Nat := coordAt w axis
/-- Whether an axis is a ring. -/
def shapeWraps (w : Word) (axis : Nat) : Bool := bit w (16 + axis)

/-- Whether TOP_SHAPE has lengths in range (R267). -/
def shapeOk (w : Word) : Bool :=
  decide (1 ≤ shapeLen w 0) && decide (shapeLen w 0 ≤ 8) && decide (1 ≤ shapeLen w 1) && decide (shapeLen w 1 ≤ 8) &&
  decide (1 ≤ shapeLen w 2) && decide (shapeLen w 2 ≤ 4)

/-- Whether a coordinate word is valid under a shape (R267). -/
def coordValid (sh w : Word) : Bool :=
  decide (bits w 31 30 ≤ 2) && decide (bits w 15 12 = 0) && shapeOk sh &&
  decide (coordAt w 0 < shapeLen sh 0) && decide (coordAt w 1 < shapeLen sh 1) && decide (coordAt w 2 < shapeLen sh 2)

/-- Whether this chip's coordinate is valid. -/
def ownValid (s : State) : Bool := coordValid (shape s) (coord s)

/-! ### Link control fields (R264) -/

/-- LNKnn_CTRL. -/
def lnkCtrl (s : State) (n : Nat) : Word := getReg s (lnkBase n)
/-- ENABLE. -/
def lnkEnabled (s : State) (n : Nat) : Bool := bit (lnkCtrl s n) 31
/-- AUTO_NARROW. -/
def autoNarrow (s : State) (n : Nat) : Bool := bit (lnkCtrl s n) 30
/-- DISCARD. -/
def lnkDiscard (s : State) (n : Nat) : Bool := bit (lnkCtrl s n) 28
/-- Whether link n is ACTIVE. -/
def linkActive (s : State) (n : Nat) : Bool := decide ((getLink s n).state = .active)

/-! ### The road map (R228, R273, R275, R276) -/

/-- The mapped entries of SCH_ROADMAP: logical chip and coordinate word. -/
def roadMap (s : State) : List (Nat × Word) :=
  (s.csr.filter (fun p => decide (0x000A4000 ≤ p.1) && decide (p.1 < 0x000A5000))).map
    (fun p => ((p.1 - 0x000A4000) / 4, ~~~ p.2))

/-- The coordinate word of a logical chip in a map; all ones when none is mapped. -/
def mapWord (m : List (Nat × Word)) (c : Nat) : Word := (lookup m c).getD 0xFFFFFFFF

/-- TOP_DEP_MASK (R273). -/
def depMaskOf (s : State) : Word :=
  let others := (roadMap s).filter (fun p => decide (p.2 ≠ coord s))
  (List.range 24).foldl (fun (w : Word) n =>
    if linkActive s n && !lnkDiscard s n && others.any (fun p => p.2 == (getLink s n).partner) then w ||| at_ 1 n else w) 0

/-- TOP_DEP_MASK as it stands. -/
def depMask (s : State) : Word := getReg s 0x000B0008
/-- Whether link n is in the mask. -/
def inMask (s : State) (n : Nat) : Bool := bit (depMask s) n

/-- A link with its partner: what tells the START of one chip on a link from that of another (R281). -/
def linkEnd (s : State) (n : Nat) : Nat × Word := (n, (getLink s n).partner)

/-- The links of the mask with their partners. -/
def maskEnds (s : State) : List (Nat × Word) := ((List.range 24).filter (inMask s)).map (linkEnd s)

/-- The neighbours of the job: one link of the mask for each distinct partner (R273). -/
def neighbours (s : State) : List Word :=
  (List.range 24).foldl (fun l n =>
    if inMask s n && !l.contains (getLink s n).partner then l ++ [(getLink s n).partner] else l) []

/-- The links of the mask that lead to a partner. -/
def linksTo (s : State) (w : Word) : List Nat :=
  (List.range 24).filter (fun n => inMask s n && (getLink s n).partner == w)

/-- S(c) under a map: the ACTIVE links to the coordinate of logical chip c, by number (R275). -/
def linkSet (s : State) (m : List (Nat × Word)) (c : Nat) : List LinkId :=
  let w := mapWord m c
  if w = 0xFFFFFFFF then [] else (List.finRange 24).filter (fun n => (getLink s n.val).partner == w && linkActive s n.val)

/-- The ranks toward logical chip c under a map (R275). -/
def ranksTo (s : State) (m : List (Nat × Word)) (c : Nat) : List RankLink :=
  (List.finRange 4).filterMap (fun r => ((linkSet s m c)[r.val]?).map (fun n => { chip := c, rank := r, link := n }))

/-- The link of a rank among resolved ranks. -/
def linkOf (l : List RankLink) (c : Nat) (r : Fin 4) : Option LinkId :=
  (l.find? (fun p => decide (p.chip = c) && decide (p.rank = r))).map (·.link)

/-- The link of a rank to a logical chip, as COMMIT or the last restart boundary resolved it (R275). -/
def rankLink (s : State) (c : Nat) (r : Fin 4) : Option LinkId := linkOf s.sch.ranks c r

/-- The physical hop of a hop of the itinerary under resolved ranks (R275). -/
def hopUnder (l : List RankLink) : HopDef → Option HopId
  | .street d p => some (.street d p)
  | .localSwitch d => some (.localSwitch d)
  | .bridge q down => some (.bridge q down)
  | .linkTx c r => (linkOf l c r).map HopId.linkTx
  | .linkIn c r => (linkOf l c r).map HopId.linkIn

/-- The physical hop of a hop of the itinerary. -/
def resolveHop (s : State) (h : HopDef) : Option HopId := hopUnder s.sch.ranks h

/-- The hops of all frames that lie on a logical chip, and the outputs of the forks on it. -/
def ownHops (c : ItinContent) (l : Nat) : List HopDef :=
  ((c.frames.flatMap (fun f => (f.slots.filter (fun e => e.lchip == l)).map (fun e => e.hop))) ++
    c.roads.flatMap (fun r => r.forks.flatMap (fun f => if f.1 = l then f.2.2 else []))).foldl
    (fun acc h => if acc.contains h then acc else acc ++ [h]) []

/-- The logical chip and rank of a link hop. -/
def linkHop : HopDef → Option (Nat × Fin 4)
  | .linkTx c r => some (c, r)
  | .linkIn c r => some (c, r)
  | _ => none

/-- The link pairs a logical chip's tables use. -/
def usedRanks (c : ItinContent) (l : Nat) : List (Nat × Fin 4) := (ownHops c l).filterMap linkHop

/-- The logical chips toward which a logical chip has link hops. -/
def usedChips (c : ItinContent) (l : Nat) : List Nat :=
  (usedRanks c l).foldl (fun acc p => if acc.contains p.1 then acc else acc ++ [p.1]) []

/-- Whether the committed itinerary uses a link. -/
def usesLink (s : State) (n : Nat) : Bool :=
  match committedSlot s with
  | some x => (usedRanks x.content s.sch.lchip).any (fun p => (rankLink s p.1 p.2).map (·.val) == some n)
  | none => false

/-! ### Detours: the ranks of the new tables (R275, R279, R284) -/

/-- The other logical chip of a rank substitution of a pair that this chip belongs to. -/
def pairOf (s : State) : Subst → Option (Nat × Fin 4 × Fin 4)
  | .chip _ _ => none
  | .rank f p a b => if a = s.sch.lchip then some (b, f, p) else if b = s.sch.lchip then some (a, f, p) else none

/-- The resolved ranks after a rank substitution: the failed rank runs on the link that carried the spare rank (R284). -/
def moveRank (s : State) (l : List RankLink) (x : Subst) : List RankLink :=
  match pairOf s x with
  | some (c, f, p) =>
    match linkOf l c p with
    | some n => l.map (fun e => if e.chip = c ∧ e.rank = f then { e with link := n } else e)
    | none => l
  | none => l

/-- The logical chips toward which a rank has been moved, those of a detour among them. -/
def movedChips (s : State) (d : Detour) : List Nat := d.substs.foldl (fun l x =>
  match pairOf s x with
  | some p => if l.contains p.1 then l else l ++ [p.1]
  | none => l) s.sch.moved

/-- The map under which a detour's tables are resolved. -/
def detourMap (s : State) (d : Detour) : List (Nat × Word) := if d.join then roadMap s else d.map

/-- The ranks of the new tables (R275): a pair with a moved rank keeps its links, the moved rank on its new one; every other rank is
resolved among the links that are ACTIVE (log 30). -/
def detourRanks (s : State) (d : Detour) : List RankLink :=
  match committedSlot s with
  | none => []
  | some x =>
    let kept := d.substs.foldl (moveRank s) s.sch.ranks
    (usedChips x.content s.sch.lchip).flatMap (fun c =>
      if (movedChips s d).contains c then kept.filter (fun e => decide (e.chip = c)) else ranksTo s (detourMap s d) c)

/-- The link that a rank of the new tables will use: the link of a moved pair's rank, else the one that R275 gives as things stand; while it
gives none, the next of the links toward the old coordinate or the new that are still to come up (R279). -/
def awaitedLink (s : State) (d : Detour) (c : Nat) (r : Fin 4) : Option Nat :=
  if (movedChips s d).contains c then (linkOf (d.substs.foldl (moveRank s) s.sch.ranks) c r).map (·.val)
  else
    let there := (linkSet s (detourMap s d) c).map (·.val)
    let old := mapWord (roadMap s) c
    let new := mapWord d.map c
    (there ++ (List.range 24).filter (fun n =>
      ((getLink s n).partner == old || (getLink s n).partner == new) && !there.contains n))[r.val]?

/-- The links still awaited under R279. -/
def awaited (s : State) (d : Detour) : List Nat :=
  match committedSlot s with
  | none => []
  | some x =>
    (usedRanks x.content s.sch.lchip).foldl (fun l p =>
      match awaitedLink s d p.1 p.2 with
      | some n =>
        if (linkActive s n && (getLink s n).partner == mapWord d.map p.1) || l.contains n then l else l ++ [n]
      | none => l) []

/-- Whether every link that the new tables use is there. -/
def detourReady (s : State) (d : Detour) : Bool :=
  (awaited s d).isEmpty &&
  (match committedSlot s with
   | some x => (usedRanks x.content s.sch.lchip).all (fun p => (awaitedLink s d p.1 p.2).isSome)
   | none => true)

/-- TOP_DETOUR (R287). -/
def topDetour (s : State) : Word :=
  match s.sch.detour with
  | none => 0
  | some d =>
    if d.join then 0
    else at_ 1 31 ||| at_ (flag (detourReady s d)) 30 ||| (awaited s d).foldl (fun (w : Word) n => w ||| at_ 1 n) 0

end Sys2Proof.Machine
end

