-- ==== Sys2Proof/Machine/LinkCore.lean ====
section
/-! DEFINITION. What a link does as a whole: its status word, credits, discarding, retrains, failed attempts, full
initialisation, link down and ENABLE (R231, R239 to R249, R251, R255 to R262, R264, R269). -/

namespace Sys2Proof.Machine

/-! ### Status (R231, R264) -/

/-- The state code (R251). -/
def linkCode : LinkState → Nat
  | .disabled => 0
  | .detect => 1
  | .align => 2
  | .negotiate => 3
  | .verify => 4
  | .active => 5
  | .pause => 6
  | .down => 7
  | .test => 8

/-- The narrowing factor f (R231). -/
def narrowing (l : Link) : Nat := 2 ^ (l.width.toNat + l.rate.toNat)
/-- Whether the link is narrow (R261). -/
def isNarrow (l : Link) : Bool := decide (l.state = .active) && decide (1 < narrowing l)

/-- LNKnn_STATUS. -/
def lnkStatus (l : Link) : Word :=
  at_ (linkCode l.state) 28 ||| at_ l.width.toNat 26 ||| at_ l.rate.toNat 24 ||| at_ l.version.toNat 16 |||
  at_ (flag l.leader) 15 ||| at_ (flag l.down) 14 ||| at_ (flag (isNarrow l)) 13 ||| at_ (flag l.clamp) 12 |||
  at_ l.lanes.toNat 8 ||| at_ l.failLane.toNat 6 ||| at_ l.failCause.toNat 0

/-- Bumps a counter of link n by its offset. -/
def bumpLink (s : State) (n off k : Nat) : State := bump s (lnkBase n + off) k

/-! ### Classes and credits (R244 to R247) -/

/-- The number of a sequenced class: its place among the credit pairs. -/
def classNo : FlitClass → Nat
  | .sch => 0
  | .way => 1
  | .mgt => 2
  | .link => 3

/-- The cost of a flit of a class in one kind of credit: header, then data (R244). -/
def creditCost (cls kind : Nat) : Nat := if kind = 0 then 1 else if cls = 1 then 1 else 4

/-- A credit count: class 0 to 2, kind 0 header or 1 data. -/
def getCredit (l : Link) (cls kind : Nat) : Credit := SMap.get {} l.credits (2 * cls + kind)
/-- Replaces a credit count. -/
def setCredit (l : Link) (cls kind : Nat) (c : Credit) : Link :=
  { l with credits := SMap.set {} l.credits (2 * cls + kind) c }

/-- Frees the credits of one flit of a class (R246). -/
def freeCredit (l : Link) (cls : Nat) : Link :=
  [0, 1].foldl (fun l k =>
    let c := getCredit l cls k
    setCredit l cls k { c with freed := c.freed + BitVec.ofNat 16 (creditCost cls k) }) l

/-- Whether a flit of a class may be sent (R247). -/
def creditOk (l : Link) (cls : Nat) : Bool :=
  [0, 1].all (fun k =>
    let c := getCredit l cls k
    decide (creditCost cls k ≤ (c.limit - c.consumed).toNat))

/-- Spends the credits of a flit of a class (R247). -/
def spendCredit (l : Link) (cls : Nat) : Link :=
  [0, 1].foldl (fun l k =>
    let c := getCredit l cls k
    setCredit l cls k { c with consumed := c.consumed + BitVec.ofNat 16 (creditCost cls k) }) l

/-- The advertisement of the three CREDIT registers, or the default values when they ask for more than the ingress buffer
holds (R245). -/
def advertised (s : State) (n : Nat) : List Word × Bool :=
  let asked := [0x20, 0x24, 0x28].map (fun off => getReg s (lnkBase n + off))
  let hdr := (asked.map (fun w => bits w 15 0)).sum
  let data := (asked.map (fun w => bits w 31 16)).sum
  if 4096 < hdr ∨ 16384 < data then ([0x20000800, 0x01000100, 0x02000080], true) else (asked, false)

/-- Fresh credit counts (R244, R247, R255). -/
def freshCredits (s : State) (n : Nat) (l : Link) : Link :=
  let a := advertised s n
  let l := { l with credits := [], clamp := a.2, partnerSch := 0 }
  ((List.range 3).zip a.1).foldl (fun l p =>
    let l := setCredit l p.1 0 { adv := BitVec.ofNat 16 (bits p.2 15 0) }
    setCredit l p.1 1 { adv := BitVec.ofNat 16 (bits p.2 31 16) }) l

/-! ### Turns at a hop (R183, R205) -/

/-- The entry whose turn it is. -/
def turnEntry (tbl : List SlotEntry) : Option SlotEntry := tbl.find? (fun e => decide (e.sent < e.count))

/-- The table after a unit has taken its turn; a unit marked last ends its entry (R183). -/
def useTurn : List SlotEntry → Bool → List SlotEntry
  | [], _ => []
  | e :: r, last =>
    if e.sent < e.count then { e with sent := if last then e.count else e.sent + 1 } :: r else e :: useTurn r last

/-- The table as the units ahead leave it. -/
def afterUnits (tbl : List SlotEntry) (us : List RoadUnit) : List SlotEntry := us.foldl (fun t u => useTurn t u.last) tbl

/-- A table, and what the units ahead leave of it, without the turn of a unit that is lost: its entry has one unit less, or ends with
the units before it when the unit was its last (R183, R197, R260). -/
def loseTurn (z : List SlotEntry × List SlotEntry) (u : RoadUnit) : List SlotEntry × List SlotEntry :=
  match z.2.findIdx? (fun e => decide (e.sent < e.count)) with
  | none => z
  | some i =>
    let cut := fun (l : List SlotEntry) (e : SlotEntry) =>
      l.set i { e with count := if u.last then ((z.2[i]?).map (·.sent)).getD e.count else e.count - 1 }
    (match z.1[i]? with | some e => cut z.1 e | none => z.1, match z.2[i]? with | some e => cut z.2 e | none => z.2)

/-! ### Milestones of units (R204, R208) -/

/-- The low eight bits of a job milestone, as MS carries them (R204). -/
def msByte (j : Nat) : BitVec 8 := BitVec.ofNat 8 j

/-- Whether a unit at a link ingress comes ahead of its milestone: it is of the next one, of the first one of a job that has not started,
or of the one that the restart boundary of a pending detour begins (R208, R281). -/
def aheadOfTime (s : State) (u : RoadUnit) : Bool :=
  decide (u.ms = msByte (s.sch.jobMs + 1)) || (!s.sch.running && decide (u.ms = msByte s.sch.jobMs)) ||
  (match s.sch.detour with
   | some d => decide (u.ms = msByte d.j)
   | none => false)

/-! ### Discarding (R255, R260) -/

/-- Discards the replay buffer, unacknowledged and waiting flits alike, each counted in DISCARD_CNT; those that waited for their turns
count as sent (R197, R255, R260). -/
def discardReplay (s : State) (n : LinkId) : State :=
  let l := getLink s n.val
  let k := l.unacked.length + l.waiting.length + l.schQ.length
  let x := getHop s (.linkTx n)
  let s := setHop s (.linkTx n) { x with table := (l.waiting.foldl loseTurn (x.table, afterUnits x.table x.verge)).1 }
  let s := setLink s n.val { l with unacked := [], waiting := [], schQ := [], starved := 0, replayAt := none, replaySlots := 0, replayOver := false }
  bumpLink s n.val 0x80 k

/-- Discards what the ingress buffer holds, the units that its hop has taken up among it; the units count as sent, those of a milestone
to come when it comes (R197, R255). -/
def discardIngress (s : State) (n : LinkId) : State :=
  let us := (getLink s n.val).inSch
  let x := getHop s (.linkIn n)
  let s := setHop s (.linkIn n) { x with
    verge := [], early := [], packs := [], gone := x.gone ++ us.filter (aheadOfTime s)
    table := ((us.filter (fun u => !aheadOfTime s u)).foldl loseTurn (x.table, x.table)).1 }
  setLink s n.val { getLink s n.val with inSch := [], inWay := [] }

/-- Sequence numbers and credits start afresh (R255). -/
def freshSequence (s : State) (n : Nat) : State :=
  let l := freshCredits s n (getLink s n)
  setLink s n { l with txNext := 0, rxExpect := 0, nakState := false, nakDue := false, replayAt := none, replaySlots := 0, replayOver := false }

/-! ### LINK_RETRAIN (R258) -/

/-- Link n raises LINK_RETRAIN. -/
def raiseRetrain (s : State) (n : Nat) : State :=
  raiseCause (setLink s n { getLink s n with raised := true }) 1

/-- Link n no longer holds LINK_RETRAIN; the cause clears when no link does. -/
def clearRetrain (s : State) (n : Nat) : State :=
  let s := setLink s n { getLink s n with raised := false }
  if (List.range 24).any (fun i => (getLink s i).raised) then s else clearCause s 1

/-- LINK_REPLAY clears in its turn when every replay that was over its allowance has ended (R212, R215, R218). -/
def settleReplay (s : State) : State :=
  if s.sch.holds.getLsbD 2 ∧ (List.range 24).all (fun i => !(getLink s i).replayOver) then clearInTurn s 2 else s

/-! ### Training blocks (R250, R262) -/

/-- A block whose low 120 bits are given, with its parity. -/
def withParity (d : Nat) : BitVec 128 :=
  let p := (List.range 8).foldl (fun (z : Nat) k =>
    z + (List.range 15).foldl (fun c i => (c + d / 2 ^ (k + 8 * i)) % 2) 0 * 2 ^ k) 0
  BitVec.ofNat 128 (d % 2 ^ 120 + p * 2 ^ 120)

/-- A training block of link n on a lane: TYPE, the fields of the table, and T_TURN in units of 0.125 ns. -/
def tsBlock (s : State) (n type turn lane : Nat) : BitVec 128 :=
  let l := getLink s n
  let own := getReg s 0x0000000C
  let put := fun (v lo : Nat) => v * 2 ^ lo
  let chosen := match l.chosen with
    | some c => put c.laneSet.toNat 100 + put c.width.toNat 104 + put c.rate.toNat 106 + put c.version.toNat 108
    | none => 0
  withParity (put type 0 + put lane 8 + put (flag l.full) 10 + put (flag (l.ackSent && decide (type = 2))) 11 +
    put l.askWidth.toNat 12 + put l.askRate.toNat 14 + put l.lanesOk.toNat 16 + put (bits own 31 24) 20 + put (bits own 23 16) 28 +
    put (coord s).toNat 36 + put l.rxExpect.toNat 68 + put (turn % 2 ^ 16) 84 + chosen)

/-- The lanes of a lane set, ascending. -/
def laneList (w : BitVec 4) : List Nat := (List.range 4).filter (fun i => w.getLsbD i)

/-- Sends training blocks of a type, from now on until others follow (R251): TS1 and TS2 on every lane at the attempt's rate, TS3 and
TS_DONE on the chosen lanes at the chosen rate. In FAULT nothing is sent (R472). -/
def sendTs (s : State) (n : LinkId) (type turn : Nat) : State :=
  let l := getLink s n.val
  if s.dev = .fault then s
  else match l.chosen, decide (3 ≤ type) with
  | some c, true => emit s (.training n c.rate ((laneList c.laneSet).map (tsBlock s n.val type turn)))
  | _, _ => emit s (.training n l.askRate ((List.range 4).map (tsBlock s n.val type turn)))

/-- The next `k` bits of PRBS31, x^31 + x^28 + 1, as a number whose bit 0 is the first. -/
def prbsBits : Nat → BitVec 31 → Nat
  | 0, _ => 0
  | k + 1, v =>
    let b := Bool.xor (v.getLsbD 30) (v.getLsbD 27)
    flag b + 2 * prbsBits k (v <<< 1 ||| (if b then 1 else 0))

/-- The lanes of a width code in test mode: the lowest ones (log 97). -/
def testLanes (w : BitVec 2) : List Nat := List.range (4 / 2 ^ w.toNat)

/-- Sends TS_TEST blocks: TYPE, and PRBS31 in the bits beyond it (R262; log 97). -/
def sendTest (s : State) (n : LinkId) : State :=
  let l := getLink s n.val
  if s.dev = .fault then s
  else takeFresh (emit s (.training n l.askRate ((testLanes l.askWidth).map (fun i =>
    withParity (5 + 2 ^ 8 * prbsBits 112 (Config.prbsSeed s.fresh n.val i))))))

/-! ### Training attempts (R251, R257 to R259) -/

/-- A link leaves ACTIVE or begins an attempt in a state; nothing of an earlier attempt stays. -/
def beginAttempt (l : Link) (st : LinkState) (full : Bool) : Link :=
  { l with state := st, full := full, failedWait := false, width := 0b11, rate := 0b11, lanes := 0, lanesOk := 0, locked := 0,
           ts1Seen := false, ackSent := false, turnPs := 0, chosen := none, firstTs2At := false, pauseOver := false }

/-- Starts a retrain from ACTIVE (R257, R258); a retrain that a write starts asks for REQ_WIDTH and REQ_RATE, every other
for the width and rate in use. A NAK that is due is not sent any more, and the NAK state stays (log 123, DESIGN CHOICE). -/
def startRetrain (s : State) (n : LinkId) (byWrite : Bool) : State :=
  let l := getLink s n.val
  if l.state ≠ .active then s
  else
    let c := lnkCtrl s n.val
    let w : BitVec 2 := if byWrite then BitVec.ofNat 2 (bits c 27 26) else l.width
    let r : BitVec 2 := if byWrite then BitVec.ofNat 2 (bits c 25 24) else l.rate
    let s := setLink s n.val { beginAttempt l .pause false with askWidth := w, askRate := r, replayAt := none, nakDue := false }
    let s := sendTs (bumpLink s n.val 0x70 1) n 1 0
    settleReplay (raiseRetrain (setLink s n.val { getLink s n.val with replaySlots := 0, replayOver := false }) n.val)

/-- Begins a full initialisation in DETECT at the requested width and rate (R251, R255). The three CREDIT registers are read here, once
for all its attempts (R245; log 113, DESIGN CHOICE). A copy of START that the link still owed is lost with its buffers. -/
def startFull (s : State) (n : LinkId) : State :=
  let c := lnkCtrl s n.val
  let l := beginAttempt (getLink s n.val) .detect true
  let s := setLink s n.val { l with askWidth := BitVec.ofNat 2 (bits c 27 26), askRate := BitVec.ofNat 2 (bits c 25 24),
                                    down := false }
  let s := { s with sch := { s.sch with startOwed := s.sch.startOwed.filter (fun e => decide (e.1 ≠ n.val)) } }
  let s := freshSequence (discardIngress (discardReplay s n) n) n.val
  settleReplay (sendTs s n 1 0)

/-- Follows the partner into a full initialisation (R251, R255). -/
def followFull (s : State) (n : LinkId) : State := raiseRetrain (startFull s n) n.val

/-- Marks link n down (R260). -/
def markDown (s : State) (n : LinkId) : State :=
  let l := beginAttempt (getLink s n.val) .down false
  let s := setLink s n.val { l with down := true, wayQ := [] }
  let s := discardReplay s n
  let s := report s 0x0B [BitVec.ofNat 32 n.val, lnkStatus (getLink s n.val), (getLink s n.val).partner]
  settleReplay (clearRetrain s n.val)

/-- The rate that the next attempt asks for: with AUTO_NARROW at 1 on both ends the next lower one (R259); the partner's bit is in no
training block, so it is a free value (log 34). -/
def nextRate (s : State) (n : Nat) (l : Link) : BitVec 2 :=
  if !l.full && autoNarrow s n && Config.partnerAutoNarrow s.fresh n && decide (l.askRate.toNat < 2) then l.askRate + 1 else l.askRate

/-- Begins the next attempt of a link, with TS1 (R251). -/
def nextAttempt (s : State) (n : LinkId) : State :=
  let l := getLink s n.val
  sendTs (setLink s n.val (beginAttempt l (if l.full then .detect else .pause) l.full)) n 1 0

/-- An attempt fails (R250, R251, R259, R265): counted and reported; the third failed retrain attempt within any 10 ms, whatever came
between, marks the link down; a PARTNER_ABORT returns at once, every other failure after 100 µs. -/
def failAttempt (s : State) (n : LinkId) (cause : Nat) : State :=
  let l := getLink s n.val
  let now := s.tme.age
  let times := if l.full then l.failTimes else (l.failTimes ++ [now]).filter (fun t => decide (now - t ≤ 10000000))
  let s := takeFresh (setLink s n.val { l with failCause := BitVec.ofNat 6 cause, failTimes := times, askRate := nextRate s n.val l,
                                               failedWait := true })
  let s := bumpLink s n.val 0x78 1
  let s := report s 0x0A [BitVec.ofNat 32 n.val, lnkStatus (getLink s n.val)]
  if !l.full && decide (3 ≤ times.length) then markDown s n else if cause = 8 then nextAttempt s n else s

/-- Whether an attempt is under way: DETECT, PAUSE, ALIGN, NEGOTIATE or VERIFY, not waiting after a failure. -/
def attempting (l : Link) : Bool :=
  !l.failedWait && (l.state == .detect || l.state == .pause || l.state == .align || l.state == .negotiate || l.state == .verify)

/-! ### DISABLED (R251, R268, R269) -/

/-- Link n enters DISABLED; a link that was down is no longer marked so from ENABLE 0 on (R251, R260; log 125, DEDUCED), and its cause
LINK_RETRAIN clears (log 142, DEDUCED). -/
def disableLink (s : State) (n : LinkId) : State :=
  let l := beginAttempt (getLink s n.val) .disabled true
  let s := setLink s n.val { l with down := false }
  settleReplay (clearRetrain (discardIngress (discardReplay s n) n) n.val)

/-- Whether the links of the chip may train: not before the image is applied, and not in RECOVERY (R442). -/
def linksLive (s : State) : Bool := decide (s.dev = .ready)

/-- A DISABLED link whose ENABLE is 1 leaves for DETECT once the coordinate is valid (R251). -/
def wakeLink (s : State) (n : LinkId) : State :=
  if (getLink s n.val).state = .disabled ∧ lnkEnabled s n.val = true ∧ ownValid s = true ∧ linksLive s = true then startFull s n else s

/-- The effect of a change of TOP_COORD or TOP_SHAPE on the links (R269): `was` is the earlier coordinate when it was
valid. -/
def coordChanged (s : State) (wasValid : Bool) (was : Word) : State :=
  let now := ownValid s
  if wasValid && !now then
    (List.finRange 24).foldl (fun s n => if (getLink s n.val).state = .down then s else disableLink s n) s
  else if now && (!wasValid || decide (was ≠ coord s)) then
    (List.finRange 24).foldl (fun s n =>
      let st := (getLink s n.val).state
      if st = .down then s else if st = .disabled then wakeLink s n else startFull s n) s
  else s

/-- A link with the width and rate that its CTRL requests. -/
def askFor (c : Word) (l : Link) : Link := { l with askWidth := BitVec.ofNat 2 (bits c 27 26), askRate := BitVec.ofNat 2 (bits c 25 24) }

/-- A write of 1 to TEST in TEST: the blocks go on at the rate and on the lanes that CTRL now requests. A run that an error has ended stays
ended (R262; log 127, DESIGN CHOICE). -/
def changeTest (s : State) (n : LinkId) : State :=
  let l := getLink s n.val
  let m := askFor (lnkCtrl s n.val) l
  if m = l then s else if l.failedWait then setLink s n.val m else sendTest (setLink s n.val m) n

/-- Enters TEST, with TS_TEST (R262); a chip whose committed itinerary uses the link is frozen by LINK_RETRAIN. A link does not leave
DISABLED before the coordinate is valid (R268). -/
def enterTest (s : State) (n : LinkId) : State :=
  let l := getLink s n.val
  if l.state = .test then changeTest s n
  else if l.state = .down ∨ linksLive s = false ∨ (l.state = .disabled ∧ ownValid s = false) then s
  else
    let c := lnkCtrl s n.val
    let uses := usesLink s n.val
    let l := askFor c (beginAttempt l .test false)
    let s := sendTest (settleReplay (setLink s n.val { l with replaySlots := 0, replayOver := false, replayAt := none })) n
    if uses then raiseRetrain s n.val else s

/-- Leaves TEST by a retrain, which the write started: at REQ_WIDTH and REQ_RATE (R257, R262). -/
def leaveTest (s : State) (n : LinkId) : State :=
  let l := getLink s n.val
  if l.state ≠ .test then s
  else raiseRetrain (sendTs (bumpLink (setLink s n.val (askFor (lnkCtrl s n.val) (beginAttempt l .pause false))) n.val 0x70 1) n 1 0) n.val

/-- The effect of a write of LNKnn_CTRL on its link (R251, R257, R260, R262): `old` is the register before the write. The fields of one
write act in the order ENABLE, TEST, RETRAIN (log 126, DESIGN CHOICE). -/
def ctrlWritten (s : State) (n : LinkId) (old : Word) (retrain : Bool) : State :=
  let new := lnkCtrl s n.val
  let s := if bit old 31 && !bit new 31 then disableLink s n else s
  let s := if !bit old 31 && bit new 31 then wakeLink s n else s
  let s := if bit new 29 then enterTest s n else s
  let s := if bit old 29 && !bit new 29 then leaveTest s n else s
  if retrain then startRetrain s n true else s

end Sys2Proof.Machine
end

