-- ==== Sys2Proof/Machine/PowerCore.lean ====
section
/-! DEFINITION. The power and thermal controller (R359, R360, R365, R366): activity, leakage, the estimate and the targets. Power
is counted in units of 1/562,500 nW, in which the terms of R360 are whole numbers (log 36). -/

namespace Sys2Proof.Machine

/-- A die of the power controller. -/
def getDie (s : State) (q : Nat) : DiePower := SMap.get {} s.pwr.dies q
/-- Replaces a die of the power controller. -/
def setDie (s : State) (q : Nat) (x : DiePower) : State :=
  { s with pwr := { s.pwr with dies := SMap.set {} s.pwr.dies q x } }

/-! ### Targets (R365, R366) -/

/-- A throttle target of a die (R365). -/
def target (x : DiePower) (r : Nat) : Nat := SMap.get 64 x.targets r

/-- Whether a target other than SLOPE stands below 64 (R371). -/
def lowNow (x : DiePower) : Bool := (List.range 6).any (fun r => decide (r ≠ 4) && decide (target x r < 64))

/-- The lowest target of a die. -/
def lowestTarget (x : DiePower) : Nat := (List.range 6).foldl (fun m r => min m (target x r)) 64

/-- Sets a throttle target; one that falls below 64 sets the reason's bit in PWR_SEEN (R365, R366). -/
def setTarget (s : State) (q r v : Nat) : State :=
  let x := getDie s q
  let v := max 8 (min 64 v)
  let t := setDie s q { x with
    targets := SMap.set 64 x.targets r v, lowered := x.lowered || (decide (v < 64) && decide (r ≠ 4)) }
  if target x r = 64 ∧ v < 64 then setReg t 0x00040004 (getReg t 0x00040004 ||| at_ 1 r) else t

/-- DROOP at a boundary (R365), by whether a district of the die went over its stretch budget. -/
def droop (s : State) (q : Nat) (spent : Bool) : State :=
  let t := target (getDie s q) 3
  setTarget s q 3 (if spent then t - 4 else t + 1)

/-! ### Activity (R359) -/

/-- PWR_EFULL. -/
def efull (s : State) : Nat := (getReg s 0x0004001C).toNat

/-- 64 times the activity of a count that is held 64 times over, rounded up. -/
def activityCeil (s : State) (q act64 : Nat) : Nat :=
  if act64 = 0 then 0 else if efull s = 0 then Config.activity s.fresh q else ceilDiv act64 (efull s)

/-- 64 times a die's mean activity over its last `n` ticks, as a fraction; 0 before the first tick. -/
def meanActivity (s : State) (q n : Nat) : Nat × Nat :=
  let l := (getDie s q).recent
  let l := l.drop (l.length - n)
  let t := l.foldl (· + ·) 0
  if t = 0 then (0, 1) else if efull s = 0 then (Config.activity s.fresh q, 1) else (t, l.length * efull s)

/-- Whether the root gate of a die removes its cycles: the weighted count of the tick has reached B_q/64 of full (R362). While EFULL is
0 it removes none (log 36). -/
def gated (s : State) (q : Nat) : Bool :=
  let x := getDie s q
  decide (efull s ≠ 0) && decide (x.budget * efull s ≤ 64 * x.tickFj)

/-! ### Power (R360) -/

/-- The power of one µs of weighted count at a rail voltage. -/
def dynamicPower (fj mv : Nat) : Nat := fj * mv * mv

/-- A word of LEAK, by temperature and voltage index. -/
def leakWord (s : State) (i j : Nat) : Nat := (SMap.get 0 s.pwr.leak (13 * min i 25 + min j 12)).toNat

/-- LEAK interpolated linearly in both indices and clamped at the edges (R435), in 1/125 mW. -/
def leak125 (s : State) (c mv : Nat) : Nat :=
  let c := min 125 c
  let v := max 550 (min 850 mv) - 550
  let i := c / 5
  let j := v / 25
  (5 - c % 5) * ((25 - v % 25) * leakWord s i j + v % 25 * leakWord s i (j + 1)) +
  c % 5 * ((25 - v % 25) * leakWord s (i + 1) j + v % 25 * leakWord s (i + 1) (j + 1))

/-- The leakage of a district. -/
def districtLeak (s : State) (d : Nat) : Nat :=
  leak125 s (bits (getReg s (dstBase d + 0xF200)) 23 16) (getDie s (quadOf d)).mv * 4500000000

/-- The leakage of a die. -/
def dieLeak (s : State) (q : Nat) : Nat :=
  (List.range 36).foldl (fun a i => a + districtLeak s (36 * q + i)) 0

/-- One watt. -/
def watt : Nat := 562500000000000

/-- The total of a list. -/
def total (l : List Nat) : Nat := l.foldl (· + ·) 0

/-- The last `n` of a list. -/
def lastOf {α : Type} (n : Nat) (l : List α) : List α := l.drop (l.length - n)

/-- Twice the dynamic power of a die over its last two samples. -/
def twiceDynamic (s : State) (q : Nat) : Nat := total (lastOf 2 (getDie s q).pdyn)

/-- Twice the fixed part F of the estimate: the leakage, and the hub die, the engines and the stacks. -/
def twiceFixed (s : State) : Nat :=
  2 * total ((List.range 4).map (dieLeak s)) + 562500 * total (lastOf 2 s.pwr.hub) +
  2 * 562500000000 * total s.pwr.fixedMw

/-- Twice the package estimate P. -/
def twicePackage (s : State) : Nat := total ((List.range 4).map (twiceDynamic s)) + twiceFixed s

/-- A share of full that activity `a` may have, were its dynamic power `part` of `whole`: the targets PCAP and RAIL. -/
def shareTarget (a : Nat × Nat) (part whole : Nat) : Nat := if a.2 * whole = 0 then 64 else a.1 * part / (a.2 * whole)

end Sys2Proof.Machine
end

