-- ==== Sys2Proof/Machine/RegView.lean ====
section
/-! DEFINITION. What a register holds (R3, R4, R27 to R32, R67, R123, R228, R264, R287, R312, R339, R357, R358, R376,
R395, R429, R430, R451): a register that shows other state is computed here; every other lies in `csr`. -/

namespace Sys2Proof.Machine

/-- Word 0 or 1 of a 64-bit value. -/
def half (v : DWord) (hi : Bool) : Word := if hi then v.extractLsb' 32 32 else v.extractLsb' 0 32

/-- DEGRADED (R32). -/
def degraded (s : State) : Bool := s.readySeen && s.dists.any (fun p => bit p.2.spare 14)

/-- GEN and BOOT (R30 to R32, R451). -/
def viewGenBoot (s : State) (a : Nat) : Option Word :=
  let info := s.boot.applied
  if a = 0x18 then some (half (uidView s) false)
  else if a = 0x1C then some (half (uidView s) true)
  else if a = 0x20 then some (at_ (flag (s.mem.preset != 0)) 9 ||| at_ (flag (degraded s)) 8 ||| at_ (stateCode s) 0)
  else if a = 0x10000 then
    some (at_ s.boot.cause.toNat 16 ||| at_ (flag s.boot.enrolled) 9 ||| at_ (flag s.boot.repaired) 8 ||| at_ s.boot.step 0)
  else if a = 0x10008 then some (at_ s.boot.flashMode.toNat 30 ||| at_ s.boot.flashMiB.toNat 0)
  else if a = 0x1000C then
    some (0x00101000 ||| match info with
      | some x => at_ x.format.toNat 24
      | none => 0)
  else if a = 0x10010 then some (match info with
      | some x => x.imageId
      | none => 0)
  else if a = 0x10014 then some (match info with
      | some x => BitVec.ofNat 32 x.length
      | none => 0)
  else if 0x10020 ≤ a ∧ a < 0x10040 then some (match info with
      | some x => digestWord x.digest ((a - 0x10020) / 4)
      | none => 0)
  else if a = 0x10040 then
    some (at_ (flag s.boot.storeBusy) 31 ||| at_ (flag s.boot.storeErr) 30 ||| at_ (flag s.boot.session.isSome) 29 |||
      at_ (flag s.boot.verified) 28 ||| at_ (s.boot.storePages / 4 % 2 ^ 21) 0)
  else if a = 0x10044 then some (at_ (flag s.boot.attestBusy) 31 ||| at_ (flag s.boot.attestReady) 30)
  else none

/-- JRN (R67). -/
def viewJrn (s : State) (a : Nat) : Option Word :=
  let sealed : DWord := match s.jrn.sealed with
    | some n => BitVec.ofNat 64 n
    | none => 0xFFFFFFFFFFFFFFFF
  if a = 0x20004 then some (jrnStatus s)
  else if a = 0x20008 then some (half (BitVec.ofNat 64 s.jrn.next) false)
  else if a = 0x2000C then some (half (BitVec.ofNat 64 s.jrn.next) true)
  else if a = 0x20010 then some (half sealed false)
  else if a = 0x20014 then some (half sealed true)
  else if a = 0x20018 then some (half (BitVec.ofNat 64 s.jrn.retain) false)
  else if a = 0x2001C then some (half (BitVec.ofNat 64 s.jrn.retain) true)
  else if a = 0x20020 then some (half s.jrn.nonce false)
  else if a = 0x20024 then some (half s.jrn.nonce true)
  else if a = 0x20028 then some (at_ (s.sch.staged.length + s.sch.leftover.length) 0)
  else none

/-- CLK, TME, CHK and MEM registers that show other state. -/
def viewClkMem (s : State) (a : Nat) : Option Word :=
  if a = 0x30000 then
    let on := fun (lo n : Nat) => flag ((List.range n).all (fun i => s.clk.locks.getLsbD (lo + i)))
    some (at_ (flag s.clk.refOk) 31 ||| at_ (flag s.clk.timeOk) 30 ||| at_ (on 11 8) 8 ||| at_ (on 10 1) 7 ||| at_ (on 6 4) 6 |||
      at_ (on 5 1) 5 ||| at_ (on 4 1) 4 ||| at_ (s.clk.locks.toNat % 16) 0)
  else if a = 0x50004 then some (getReg s a ||| at_ (flag s.tme.isSet) 31 ||| at_ (flag s.tme.locked) 30)
  else if a = 0x50008 then some (localTime s)
  else if a = 0x5000C then some s.tme.c
  else if a = 0x50010 then some s.tme.rate
  else if a = 0x50014 then some s.tme.slew
  else if a = 0x50030 then some (half s.tme.wraps false)
  else if a = 0x50034 then some (half s.tme.wraps true)
  else if a = 0x6002C then some (getReg s a ||| at_ (flag s.dig.busy) 30)
  else if a = 0x70000 then
    some (at_ (flag s.mem.restoring) 31 ||| at_ (flag s.mem.writeback) 30 ||| at_ s.mem.stacksOk.toNat 12 |||
      at_ s.mem.preset.toNat 8 ||| at_ s.mem.trained.toNat 0)
  else if a = 0x70008 then some (at_ s.mem.installed.toNat 0)
  else none

/-- PWR_QDq_CAP (R376). -/
def viewCap (s : State) (q : Nat) : Word :=
  let x := getDie s q
  let a := meanActivity s q 16
  at_ x.budget 24 ||| at_ (lowestTarget x) 16 ||| at_ (min 127 (a.1 / a.2)) 8 ||| at_ x.binds.toNat 0

/-- PWR registers that show other state (R376). -/
def viewPwr (s : State) (a : Nat) : Option Word :=
  if a = 0x40000 then some (getReg s a ||| at_ (flag (!s.throtN)) 8)
  else if 0x40020 ≤ a ∧ a < 0x40060 ∧ a % 0x10 = 0 then some (viewCap s ((a - 0x40020) / 0x10))
  else none

/-- HOST and MGT (R429, R430). -/
def viewPorts (s : State) (a : Nat) : Option Word :=
  if a = 0x80000 then
    some (at_ (flag s.ports.hostUp) 31 ||| at_ (flag s.ports.bound.isSome) 30 ||| at_ s.ports.version.toNat 16 |||
      at_ s.ports.qps.length 0)
  else if a = 0x90000 then
    some (at_ (flag s.ports.mgtUp) 31 ||| at_ (flag s.ports.fecOn) 30 ||| at_ s.ports.i3cAddr.toNat 16)
  else if a = 0x9001C then some s.ports.reportSeq
  else if a = 0x90020 then
    some (at_ (if s.ports.survey.isSome then 1 else if s.ports.surveyDone then 2 else 0) 30 ||| at_ (flag s.ports.atEnd) 29 |||
      at_ (flag s.ports.cleared) 28 ||| at_ s.ports.surveySeq.toNat 0)
  else none

/-- Whether a JOB-scope TOLL waits on the chip. -/
def tollPending (s : State) : Bool := s.tiles.any (fun p => p.2.groups.any (fun g => decide (g.2.wait = .toll 4)))

/-- SCH and TOP (R228, R287). -/
def viewSch (s : State) (a : Nat) : Option Word :=
  let c := committedSlot s
  let field := fun (f : Slot → Nat) => match c with
    | some x => f x
    | none => 0
  if a = 0xA0000 then
    some (at_ (match c with
      | some x => header x 8 1
      | none => 14) 24 ||| at_ (milestoneLen s) 0)
  else if a = 0xA0004 then
    some (at_ (flag (isCommitted s)) 31 ||| at_ (match s.sch.committed with
      | some i => i.val
      | none => 0) 16 ||| at_ (field (fun x => header x 4 1)) 8 ||| at_ (flag (tollPending s)) 1 |||
      at_ (flag (!s.sch.rewind.isEmpty)) 0)
  else if a = 0xA0008 then some (half (BitVec.ofNat 64 s.sch.milestone) false)
  else if a = 0xA000C then some (half (BitVec.ofNat 64 s.sch.milestone) true)
  else if a = 0xA0010 then some (half (BitVec.ofNat 64 s.sch.jobMs) false)
  else if a = 0xA0014 then some (half (BitVec.ofNat 64 s.sch.jobMs) true)
  else if a = 0xA0018 then some (half (BitVec.ofNat 64 s.sch.position) false)
  else if a = 0xA001C then some (half (BitVec.ofNat 64 s.sch.position) true)
  else if a = 0xA0020 then some (s.sch.holds.setWidth 32)
  else if a = 0xA003C then
    some (at_ (field (fun x => header x 9 1)) 24 ||| at_ (field (fun x => header x 10 2)) 11 ||| at_ s.sch.lchip 0)
  else if a = 0xB000C then some (topDetour s)
  else none

/-- LNKnn (R264). -/
def viewLnk (s : State) (a : Nat) : Option Word :=
  let l := getLink s ((a - 0x100000) / 0x10000)
  let off := a % 0x10000
  if off = 0x4 then some (lnkStatus l)
  else if off = 0x8 then some l.partner
  else if off = 0xC then some l.delayPs
  else if off = 0x10 then some l.rttPs
  else if off = 0x14 then some (at_ l.txNext.toNat 16 ||| at_ l.rxExpect.toNat 0)
  else if off = 0x18 then some (at_ (l.waiting.length % 2 ^ 14) 16 ||| at_ (l.unacked.length % 2 ^ 14) 0)
  else if off = 0x2C then some l.partnerSch
  else none

/-- The logical tile at a position, if it carries one (R120). -/
def logicalAt (x : District) (p : Nat) : Option (Fin 8) := (List.finRange 8).find? (fun l => mapPos x.map l.val == p)

/-- The committed tile program at a position. -/
def progAt (s : State) (d : Fin 144) (p : Nat) : Option TileProg :=
  match logicalAt (getDist s d.val) p with
  | some l => (getTile s { d := d, l := l }).prog
  | none => none

/-- ROLE of a position (R123). -/
def roleAt (x : District) (p : Nat) : Nat :=
  if bit x.spare (5 + p) then 3
  else if bits x.spare 3 0 = p then (if bit x.spare 4 then 2 else 1)
  else 0

/-- A tile sub-block (R123). -/
def viewTile (s : State) (d : Fin 144) (p off : Nat) : Option Word :=
  let x := getDist s d.val
  let role := roleAt x p
  if off = 0 then
    some (at_ role 30 ||| at_ (match logicalAt x p with
      | some l => if role = 0 then l.val else 0xF
      | none => 0xF) 0)
  else if off = 4 then
    some (match progAt s d p with
      | some t => at_ t.groups 16 ||| at_ (min 64 (1024 / t.vregs)) 8 ||| at_ t.vregs 0
      | none => 0)
  else if off = 8 then
    some (match progAt s d p with
      | some t => at_ t.pages 8 ||| at_ t.pinned.length 0
      | none => 0)
  else none

/-- A divergence as four bits. -/
def deltaBits (x : District) (port : Nat) : Nat := (BitVec.ofInt 4 (SMap.get 0 x.delta port)).toNat

/-- DSTddd (R120, R123, R358). -/
def viewDst (s : State) (d : Fin 144) (off : Nat) : Option Word :=
  let x := getDist s d.val
  if off < 0x9000 then viewTile s d (off / 0x1000) (off % 0x1000)
  else if off = 0xF000 then some x.map
  else if off = 0xF004 then some x.spare
  else if off = 0xF100 then
    some (at_ x.event.toNat 16 ||| at_ (deltaBits x 0) 12 ||| at_ (deltaBits x 1) 8 ||| at_ (deltaBits x 2) 4 |||
      at_ (deltaBits x 3) 0)
  else none

/-- A register that shows other state. -/
def regView (s : State) (a : Nat) : Option Word :=
  if a < 0x20000 then viewGenBoot s a
  else if a < 0x30000 then viewJrn s a
  else if 0x40000 ≤ a ∧ a < 0x50000 then viewPwr s a
  else if a < 0x80000 then viewClkMem s a
  else if a < 0xA0000 then viewPorts s a
  else if a < 0x100000 then viewSch s a
  else if a < 0x280000 then viewLnk s a
  else if h : 0x1000000 ≤ a ∧ (a - 0x1000000) / 0x10000 < 144 then viewDst s ⟨(a - 0x1000000) / 0x10000, h.2⟩ (a % 0x10000)
  else none

/-- The 32-bit value of a register (R3, R124). -/
def readReg (s : State) (a : Nat) : Word :=
  match counterAt a with
  | some (base, hi) => if hi then cntHi (getCnt s base) else cntLo (getCnt s base)
  | none =>
    match regView s a with
    | some v => v
    | none => getReg s a

end Sys2Proof.Machine
end

