-- ==== Sys2Proof/Machine/TimeCore.lean ====
section
/-! DEFINITION. Local time, its steps and the servo (R378 to R387), and the output pulses that a step passes over
(R393). -/

namespace Sys2Proof.Machine

/-- TME_SERVO.SRC (R395). -/
def servoSrc (s : State) : Nat := bits (getReg s 0x00050020) 1 0

/-- Local time of a time unit (R378). -/
def unitTime (t : TimeUnit) : Word := t.c + t.o.extractLsb' 32 32

/-- One ns of the time domain: C rises by one and O by RATE + SLEW (R378); W rises when local time passes to 0 (R387); SLEW runs out
(R383). -/
def tickTime (t : TimeUnit) : TimeUnit :=
  let n := { t with c := t.c + 1, o := t.o + t.rate.signExtend 64 + t.slew.signExtend 64, stepped := none }
  { n with
    wraps := if (unitTime n).toNat < (unitTime t).toNat then t.wraps + 1 else t.wraps
    slewLeft := t.slewLeft - 1, slew := if t.slewLeft ≤ 1 then 0 else t.slew }

/-! ### Output pulses (R393) -/

/-- The base address of TME_OUTk. -/
def outBase (k : Nat) : Nat := 0x00050040 + 0x10 * k

/-- Output k drives its pulse; NEXT advances by PERIOD, or EN clears. -/
def firePulse (s : State) (k : Fin 4) (late : Bool) : State :=
  let b := outBase k.val
  let cfg := getReg s b
  let period := getReg s (b + 8)
  let s := emit s (.pulse k (!bit cfg 30) (bits cfg 15 0))
  let s := if late then setReg s 0x00050004 (getReg s 0x00050004 ||| at_ 1 (24 + k.val)) else s
  if period = 0 then setReg s b (cfg &&& 0x7FFFFFFF) else setReg s (b + 12) (getReg s (b + 12) + period)

/-- Fires while EN is 1 and NEXT is already reached: each such pulse is late. -/
def fireLate : Nat → State → Fin 4 → State
  | 0, s, _ => s
  | n + 1, s, k =>
    if bit (getReg s (outBase k.val)) 31 && reached s (getReg s (outBase k.val + 12)) then fireLate n (firePulse s k true) k
    else s

/-- How many pulses of output k are already reached. A PERIOD above 2^31 takes NEXT back, as local time compares (R381). -/
def lateCount (s : State) (k : Fin 4) : Nat :=
  let a := (localTime s - getReg s (outBase k.val + 12)).toNat
  let p := (getReg s (outBase k.val + 8)).toNat
  if p ≤ 2 ^ 31 then a / p + 1 else ceilDiv (2 ^ 31 - a) (2 ^ 32 - p)

/-- Output k drives its pulse, and those that are reached as NEXT advances: a NEXT that is already reached when it is set fires at once
(R393). -/
def fireOutput (s : State) (k : Fin 4) (late : Bool) : State :=
  let s := firePulse s k late
  fireLate (lateCount s k) s k

/-- Arms output k (R393). -/
def armOutput (s : State) (k : Fin 4) : State :=
  let s := setReg s (outBase k.val + 12) (getReg s (outBase k.val + 4))
  fireLate (lateCount s k) s k

/-! ### Steps (R383, R385, R387) -/

/-- The change of W when a step of `d` ns takes local time `t` across 0. -/
def wrapStep (t : Word) (d : Int) : Int := ((t.toNat : Int) + d).fdiv (2 ^ 32)

/-- Steps local time by `d` ns (R383, R385); the outputs whose NEXT the step passes over fire at once. `keep` is whether SLEW goes on:
the pseudocode of R383 leaves it, R385 clears it. -/
def stepTime (s : State) (d : Int) (keep : Bool) : State :=
  let t := s.tme
  let due := (List.finRange 4).filter (fun k =>
    bit (getReg s (outBase k.val)) 31 && !reached s (getReg s (outBase k.val + 12)))
  let s := { s with
    sinceRecord := s.sinceRecord + d
    tme := { t with
      o := t.o + BitVec.ofInt 64 (d * 2 ^ 32), isSet := true, prev := none, stepped := some (t.stepped.getD 0 + d),
      slew := if keep then t.slew else 0, slewLeft := if keep then t.slewLeft else 0,
      wraps := t.wraps + BitVec.ofInt 64 (wrapStep (localTime s) d) } }
  due.foldl (fun s k => fireLate (lateCount s k) s k) s

/-- The outputs whose NEXT lies strictly between `was` and local time: the slew passed over it, and they fire at once, late (R393). -/
def fireSkipped (s : State) (was : Word) : State :=
  (List.finRange 4).foldl (fun s k =>
    let n := getReg s (outBase k.val + 12)
    if bit (getReg s (outBase k.val)) 31 && decide (0 < (n - was).toNat) && decide ((n - was).toNat < (localTime s - was).toNat) then
      fireOutput s k true
    else s) s

/-- A refusal (R384). -/
def refuseTime (s : State) (d : Int) : State :=
  let s := setReg s 0x00050004 (getReg s 0x00050004 ||| 0x20000000)
  let s := bump { s with tme := { s.tme with locked := false } } 0x00050108 1
  report s 0x0F [BitVec.ofInt 32 d, getReg s 0x00050020]

/-- Whether a correction lies beyond TME_JUMP_LIMIT. -/
def overJump (s : State) (d : Int) : Bool := decide ((getReg s 0x0005001C).toNat < d.natAbs)

/-- A number within bounds. -/
def clampInt (lo hi v : Int) : Int := max lo (min hi v)

/-- A measurement (θ, t) (R383), at the end of its ns: one that falls in the ns of a step is discarded, whichever of them came first
(R385). -/
def measure (s : State) (d : Int) (t : Word) : State :=
  if s.tme.stepped.isSome then s
  else if !s.tme.isSet then stepTime { s with tme := { s.tme with locked := false } } d true
  else if overJump s d then refuseTime s d
  else
    let s := bump (setReg s 0x00050024 (BitVec.ofInt 32 d)) 0x00050100 1
    let locked := decide (d.natAbs ≤ 50)
    let used := { s with tme := { s.tme with locked := locked, prev := some t } }
    match s.tme.prev with
    | none => used
    | some p =>
      let gap := (t - p).toNat
      if gap = 0 ∨ 2 ^ 31 ≤ gap then used
      else
        let g := d * 2 ^ 32
        let ki := bits (getReg s 0x00050020) 18 16
        let slew := clampInt (-(2 ^ 26)) (2 ^ 26) (g.tdiv gap)
        let rate := clampInt (-(2 ^ 20)) (2 ^ 20) (s.tme.rate.toInt + g.tdiv ((gap : Int) * 2 ^ ki))
        { used with tme := { used.tme with slew := BitVec.ofInt 32 slew, slewLeft := gap, rate := BitVec.ofInt 32 rate } }

/-- A step of the PTP slave sets W from the master's full time (R387): `full` is a PTP time at which local time, before the
step, read as it does now. -/
def setWraps (s : State) (full : Int) : State :=
  let l : Int := (localTime s).toNat
  let near := full + (BitVec.ofInt 32 (l - full)).toInt
  { s with tme := { s.tme with wraps := BitVec.ofInt 64 (near.fdiv (2 ^ 32)) } }

/-- A measurement is noted, and waits for the end of its ns. -/
def noteMeasure (s : State) (m : Measurement) : State := { s with tme := { s.tme with measured := s.tme.measured ++ [m] } }

/-- A measurement in its turn; one that makes a step sets W where the master's full time is known (R387), and one behind which SRC changes
leaves prev unset (R383). -/
def takeMeasure (s : State) (m : Measurement) : State :=
  let u := measure s m.theta m.t
  let u := if m.last then { u with tme := { u.tme with prev := none } } else u
  if s.tme.isSet || s.tme.stepped.isSome then u
  else
    match m.full with
    | some f => setWraps u f
    | none => u

/-- The measurements of the ns that ends. -/
def settleMeasures (s : State) : State := s.tme.measured.foldl takeMeasure { s with tme := { s.tme with measured := [] } }

/-- One ns of local time, with the time since the last record (R57, R378, R385, R393). -/
def tickUnit (s : State) : State :=
  let s := settleMeasures s
  let was := localTime s
  let s := { s with tme := { tickTime s.tme with age := s.tme.age + 1 } }
  let gone := (localTime s - was).toNat
  fireSkipped { s with sinceRecord := s.sinceRecord + gone } was

/-- A write to TME_ADJ (R385): whether it is refused, and its effect. -/
def adjust (s : State) (w : Word) : State × Bool :=
  if s.tme.isSet && overJump s w.toInt then (refuseTime s w.toInt, true) else (stepTime s w.toInt false, false)

/-- A change of SRC leaves prev unset (R383): behind the measurements of its ns, which wait for the end of the ns (R385). -/
def dropPrev (s : State) : State :=
  match s.tme.measured.getLast? with
  | some m => { s with tme := { s.tme with measured := s.tme.measured.dropLast ++ [{ m with last := true }], exchanges := [] } }
  | none => { s with tme := { s.tme with prev := none, exchanges := [] } }

end Sys2Proof.Machine
end

