-- ==== Sys2Proof/Machine/RegWrite.lean ====
section
/-! DEFINITION. Register accesses (R3 to R10, R43 to R47, R53, R58, R59, R64, R66): which writes are refused, which wait
for a boundary, what a write changes and starts, and its record. -/

namespace Sys2Proof.Machine

/-- Statuses of a register access (R405). -/
def stOk : Nat := 0
/-- BAD_ACCESS. -/
def stBadAccess : Nat := 1
/-- NO_REGISTER. -/
def stNoRegister : Nat := 2
/-- STAGE_FULL. -/
def stStageFull : Nat := 3
/-- JOURNAL_FULL. -/
def stJournalFull : Nat := 4
/-- BAD_STATE. -/
def stBadState : Nat := 7

/-! ### Field rules (R53 NOEFFECT) -/

/-- A value within bounds. -/
def within (lo hi v : Nat) : Bool := decide (lo ≤ v) && decide (v ≤ hi)

/-- Whether a write acts under an itinerary: one is committed, or the write waited under one that has just ended (R43, R47). -/
def underJob (s : State) : Bool := isCommitted s || s.sch.draining

/-- A write that changes nothing while an itinerary is committed (R269, R293). -/
def inhibited (s : State) (a : Nat) : Bool :=
  underJob s &&
  (a == 0xB0000 || a == 0xB0004 || a == 0x70004 || a == 0x7000C || a == 0x70010 ||
    (decide (0x71000 ≤ a) && decide (a < 0x71800)))

/-- Bits of `mask` when `bad`. -/
def refuseIf (bad : Bool) (mask : Word) : Word := if bad then mask else 0

/-- The RW bits that a rule of the CLK, PWR or CHK tables leaves unchanged (R339, R357, R376). -/
def refusedClk (a : Nat) (d : Word) : Word :=
  if a = 0x30008 then
    refuseIf (decide (bits d 15 8 ≤ bits d 7 0) || decide (bits d 7 0 < 4) || decide (bits d 15 8 < 4)) 0xFFFF
  else if 0x30010 ≤ a ∧ a < 0x30050 ∧ a % 0x10 = 0 then refuseIf (!within 8 16 (bits d 4 0)) 0x1F
  else if a = 0x40008 then refuseIf (!within 600 2800 (bits d 11 0)) 0xFFF
  else if a = 0x4000C then refuseIf (!within 100 600 (bits d 9 0)) 0x3FF
  else if a = 0x40010 then refuseIf (!within 70 105 (bits d 7 0)) 0xFF
  else if a = 0x40014 then refuseIf (!within 8 64 (bits d 6 0)) 0x7F
  else if a = 0x60000 then
    refuseIf (!within 3 12 (bits d 27 24)) 0x0F000000 ||| refuseIf (!within 10 20 (bits d 20 16)) 0x001F0000
  else if a = 0x60020 then refuseIf (!within 1 256 (bits d 8 0)) 0x1FF
  else 0

/-- The RW bits that a rule of the TME table leaves unchanged (R395). -/
def refusedTme (s : State) (a : Nat) (d : Word) : Word :=
  if a = 0x50010 then refuseIf (decide (2 ^ 20 < d.toInt.natAbs)) 0xFFFFFFFF
  else if a = 0x5001C then refuseIf (!within 1 (2 ^ 31 - 1) d.toNat) 0xFFFFFFFF
  else if a = 0x50020 then refuseIf (decide (23 < bits d 12 8)) 0x1F00
  else if a = 0x50028 then
    refuseIf (decide (127 < bits d 31 24)) 0xFF000000 |||
    refuseIf (decide (bits d 23 20 = 8) || within 2 7 (bits d 23 20)) 0x00F00000 |||
    refuseIf (decide (bits d 17 16 = 3)) 0x00030000
  else if 0x50040 ≤ a ∧ a < 0x50080 ∧ a % 0x10 = 0 then
    let w := bits d 15 0
    let p := (getReg s (a + 8)).toNat
    refuseIf (decide (w < 8) || (decide (p ≠ 0) && decide (p < w + 8))) 0xFFFF
  else if 0x50040 ≤ a ∧ a < 0x50080 ∧ a % 0x10 = 8 then
    refuseIf (decide (d ≠ 0) && decide (d.toNat < bits (getReg s (a - 8)) 15 0 + 8)) 0xFFFFFFFF
  else 0

/-- The RW bits of a write that a rule leaves unchanged. -/
def refusedBits (s : State) (a : Nat) (d : Word) : Word :=
  if inhibited s a then 0xFFFFFFFF
  else if 0x50000 ≤ a ∧ a < 0x60000 then refusedTme s a d
  else if 0x100000 ≤ a ∧ a < 0x280000 ∧ a % 0x10000 = 0 then
    refuseIf (decide (bits d 27 26 = 3)) 0x0C000000 ||| refuseIf (decide (bits d 25 24 = 3)) 0x03000000
  else refusedClk a d

/-- Whether the action of a WO field is refused (R257, R384, R448). -/
def refusedAction (s : State) (a : Nat) (d : Word) : Bool :=
  if a = 0x10004 then bit d 0 && (s.boot.storeBusy || s.jrn.flashBusy)
  else if a = 0x50000 then bit d 0 && underJob s
  else if a = 0x50018 then s.tme.isSet && overJump s d.toInt
  else if 0x100000 ≤ a ∧ a < 0x280000 ∧ a % 0x10000 = 0 then bit d 16 && !linkActive s ((a - 0x100000) / 0x10000)
  else false

/-- Whether a write carries NOEFFECT (R53). -/
def noEffect (s : State) (a : Nat) (d : Word) : Bool :=
  match regInfo a with
  | some i => decide (i.rw ||| i.w1c ||| i.wo = 0) || decide (refusedBits s a d &&& i.rw ≠ 0) || refusedAction s a d
  | none => true

/-! ### Fields -/

/-- Writes the RW and W1C fields of a register where they live (R3, R4). -/
def storeFields (s : State) (a : Nat) (d : Word) : State :=
  match regInfo a with
  | none => s
  | some i =>
    let rw := i.rw &&& ~~~ refusedBits s a d
    if a = 0x20004 then
      { s with jrn := { s.jrn with releaseErr := s.jrn.releaseErr && !bit d 27, flashErr := s.jrn.flashErr && !bit d 26 } }
    else if a = 0x10040 then { s with boot := { s.boot with storeErr := s.boot.storeErr && !bit d 30 } }
    else if a = 0x50010 then { s with tme := { s.tme with rate := putMask s.tme.rate d rw } }
    else if a = 0x50030 then
      { s with tme := { s.tme with wraps := (half s.tme.wraps true).setWidth 64 <<< 32 ||| d.setWidth 64 } }
    else if a = 0x50034 then
      { s with tme := { s.tme with wraps := d.setWidth 64 <<< 32 ||| (half s.tme.wraps false).setWidth 64 } }
    else if a = 0x20018 ∨ a = 0x2001C then s
    else setReg s a (putMask (getReg s a) d rw &&& ~~~ (d &&& i.w1c))

/-! ### What a write starts -/

/-- Ends the host session (R403): no binding, no session, no queue pair. -/
def unbindHost (s : State) : State :=
  { s with ports := { s.ports with bound := none, session := 0, version := 0, qps := [], keptHost := [] } }

/-- The action of a write in the BOOT, JRN, CLK, TME, HOST or MGT block; `old` is the register before it. A write of JRN_CTRL that sets
SEAL and SEAL_FLASH asks for one seal, stored in flash (R61; log 86, DEDUCED). -/
def actLow (s : State) (a : Nat) (old d : Word) (refused : Bool) : State :=
  if a = 0x10004 then (if bit d 0 && !refused then reboot s else s)
  else if a = 0x20000 then
    let s := settleWarn s
    if bit d 2 then requestSeal s true else if bit d 1 then requestSeal s false else s
  else if 0x30010 ≤ a ∧ a < 0x30050 ∧ a % 0x10 = 0 then (if underJob s then s else changeDiv s ((a - 0x30010) / 0x10))
  else if a = 0x50000 then
    (if bit d 0 && !refused then { s with tme := { s.tme with isSet := false } } else s)
  else if a = 0x50018 then (adjust s d).1
  else if a = 0x50020 then (if bits old 1 0 = servoSrc s then s else dropPrev s)
  else if a = 0x80004 then (if bit d 31 then unbindHost s else s)
  else if a = 0x90004 then
    (if mgtRecovery s || bit old 31 == bit (getReg s a) 31 then s else { s with ports := { s.ports with mgtUp := false, fecOn := false } })
  else s

/-- The output of a TME_OUTk_CFG address. -/
def outOf (a : Nat) : Fin 4 := ⟨(a - 0x50040) / 0x10 % 4, Nat.mod_lt _ (by decide)⟩

/-- The action of a write to a register: nothing for a register without behaviour of its own. -/
def act (s : State) (a : Nat) (old d : Word) (refused : Bool) (wasValid : Bool) (wasCoord : Word) : State :=
  if 0x50040 ≤ a ∧ a < 0x50080 ∧ a % 0x10 = 0 then
    (if !bit old 31 && bit (getReg s a) 31 then armOutput s (outOf a) else s)
  else if a = 0xB0000 ∨ a = 0xB0004 then coordChanged s wasValid wasCoord
  else if 0x100000 ≤ a ∧ a < 0x280000 ∧ a % 0x10000 = 0 then
    ctrlWritten s (Fin.ofNat 24 ((a - 0x100000) / 0x10000)) old (bit d 16)
  else actLow s a old d refused

/-- Performs a 32-bit write: its fields, its record of the given milestone and acceptance time, and what it starts (R6,
R53). `flags` are those of `writeDraft` beside NOEFFECT. -/
def writeWord (s : State) (src flags a : Nat) (d : Word) (time : Word) (ms : Nat) : State :=
  let old := readReg s a
  let refused := refusedAction s a d
  let ne := noEffect s a d
  let valid := ownValid s
  let was := coord s
  let t := storeFields s a d
  let rec_ := { writeDraft t src (flags + (if ne then 4 else 0)) a old (readReg t a) with time := time, milestone := ms }
  act (append t rec_) a old d refused valid was

/-- Reverts a staged write (R49): the RW fields take back what they held, W1C and WO fields are left alone, and the record has the
value the write set as OLD and the value it replaced as NEW. -/
def revertWord (s : State) (e : Effected) : State :=
  let rw := match regInfo e.addr with
    | some i => i.rw
    | none => 0
  let d := e.old &&& rw
  let r := writeDraft s 0 (1 + (if noEffect s e.addr d then 4 else 0)) e.addr e.val e.old
  if rw = 0 then append s r
  else act (append (storeFields s e.addr d) r) e.addr (readReg s e.addr) d false (ownValid s) (coord s)

/-- A write of a 64-bit value's word as R49 and a staged pair make it: the word itself, no holding (R49, R58). -/
def writeNow (s : State) (src flags a : Nat) (d : Word) : State := writeWord s src flags a d (localTime s) (recordMs s)

/-! ### Release (R64, R66, R47) -/

/-- A staged write takes effect (R44, R58): with its record, or, for a low word that has its record, without. -/
def effectWrite (s : State) (w : StagedWrite) (ms : Nat) : State :=
  if w.recorded then writeWord s (srcCode w.src) 0 w.addr w.data w.time ms else storeFields s w.addr w.data

/-- How many records must find room before the first of the waiting writes is performed: the words of a staged pair take effect at once,
so its low word asks for the room of both (R8, R58). A high word finds the room that its low word asked for. -/
def recordsDue : List StagedWrite → Nat
  | [] => 0
  | w :: r => flag w.recorded + (if pairHalf w.addr = some false then flag (r.any (fun x => x.addr == w.addr + 4)) else 0)

/-- Whether `n` records can be appended at once (R66). -/
def roomFor (s : State) (n : Nat) : Bool := roomNow s && decide (occupancy s + n ≤ jrnCap)

/-- Staged writes that an ended itinerary left waiting take effect while the journal has room for their records (R47), as writes made
under that itinerary (R269, R293, R384). -/
def drainLeftover : Nat → State → State
  | 0, s => s
  | n + 1, s =>
    match s.sch.leftover with
    | [] => s
    | (w, ms) :: r =>
      let u := { s with sch := { s.sch with leftover := r, draining := true } }
      if roomFor u (recordsDue (s.sch.leftover.map (·.1))) then
        let t := effectWrite u w ms
        drainLeftover n { t with sch := { t.sch with draining := false } }
      else s

/-- The writes that an ended itinerary left waiting take effect as far as the journal has room (R47); a die whose divider they change runs
the sequence of R350 once, behind them. -/
def drainWaiting (s : State) : State :=
  if s.sch.leftover.isEmpty then s else changeDivs (drainLeftover s.sch.leftover.length s)

/-- Whether R64 accepts a new JRN_RETAIN. -/
def releaseOk (s : State) (v : Nat) : Bool :=
  decide (s.jrn.retain ≤ v) &&
  decide (v ≤ match s.jrn.sealed with
    | some n => n + 1
    | none => 0)

/-- A write of JRN_RETAIN_HI that commits `v` (R64), its record in the order R66 gives, held records and waiting writes
after it, and then the late records of low words (R6). -/
def release (s : State) (src v : Nat) : State :=
  let old := readReg s 0x2001C
  let ok := releaseOk s v
  let room := roomNow s
  let j := if ok then { s.jrn with retain := v, records := s.jrn.records.filter (fun r => decide (v ≤ r.recno)),
                                   seals := s.jrn.seals.filter (fun x => decide (v ≤ x.covered)) }
           else { s.jrn with releaseErr := true }
  let s := { s with jrn := j }
  let d := { writeDraft s src (if ok then 0 else 4) 0x2001C old (readReg s 0x2001C) with time := localTime s }
  let s := if room then append s d else { s with jrn := { s.jrn with held := s.jrn.held ++ [d] }, sinceRecord := 0 }
  let s := flushHeld s.jrn.held.length s
  let s := settleLevels s
  let s := drainWaiting s
  flushLate s.jrn.late.length s

/-! ### Accesses (R7 to R10) -/

/-- The access source a register access comes from (R9): the host port is one source, whatever address it is bound to. -/
def accessSource : Source → Source
  | .host _ => .host 0
  | x => x

/-- The holding registers of a source (R9). -/
def getHolding (s : State) (src : Source) : Holding :=
  (s.holding.find? (fun h => h.src == accessSource src)).getD { src := accessSource src }

/-- Whether a holding belongs to a management station. -/
def isStation (h : Holding) : Bool :=
  match h.src with
  | .mgt _ => true
  | _ => false

/-- Replaces the holding registers of a source, most recently used last; of more than 64 stations the oldest is dropped (R417), and a
low word it held with no record yet is recorded (R6). -/
def putHolding (s : State) (h : Holding) : State :=
  let l := s.holding.filter (fun x => x.src != h.src) ++ [h]
  if 64 < (l.filter isStation).length then
    match l.find? isStation with
    | some old => recordOwed { s with holding := l.erase old } old
    | none => { s with holding := l }
  else { s with holding := l }

/-- An access to a high word uses the holding registers of its source, if there are any (R417). -/
def touchHolding (s : State) (src : Source) : State :=
  match s.holding.find? (fun h => h.src == accessSource src) with
  | some h => putHolding s h
  | none => s

/-- The one RC field, CLK_QDq_CROSS.MAXDIV, clears when it is read (R3), and starts again from the divergences at which the FIFOs of its
die then stand (R357). -/
def clearOnRead (s : State) (a : Nat) : State :=
  if 0x30010 ≤ a ∧ a < 0x30050 ∧ a % 0x10 = 4 then
    setReg s a (putMask (getReg s a) (at_ (min 7 (greatestDelta s ((a - 0x30014) / 0x10))) 0) 7)
  else s

/-- A register read of a source: the state, the status and the data (R7 to R10). -/
def readAccess (s : State) (src : Source) (addr : Word) : State × Nat × Word :=
  let a := addr.toNat
  if a % 4 ≠ 0 then (s, stBadAccess, 0)
  else if (regInfo a).isNone then (s, stNoRegister, 0)
  else
    match pairHalf a with
    | some false => (putHolding s { getHolding s src with high := some (readReg s (a + 4)) }, stOk, readReg s a)
    | some true => (touchHolding s src, stOk, (getHolding s src).high.getD 0)
    | none => (clearOnRead s a, stOk, readReg s a)

/-- Whether the writable fields of a register are W1C only (R43). -/
def onlyW1c (i : RegInfo) : Bool := i.w1c != 0 && i.rw == 0 && i.wo == 0

/-- Whether a write waits for a boundary, wholly or but for its W1C part (R43). -/
def isStaged (s : State) (a : Nat) : Bool :=
  runOrHold s && a != 0x24 && a / 0x10000 != 2 &&
  (match regInfo a with
   | some i => !onlyW1c i
   | none => false)

/-- Whether a write to the JRN block is refused in the reserve (R66). -/
def reserveRefuses (s : State) (a : Nat) : Bool :=
  !roomNow s &&
  !((a == 0x20018 || a == 0x2001C) && decide ((s.jrn.held.filter (fun d => d.type == 1 && (d.a0 == 0x20018 || d.a0 == 0x2001C))).length < 16))

/-- What refuses a write of a known register before its class is decided (R59, R66). A FAULT that comes before the EPOCH record by another
cause than LPDDR5X training is in neither case of R59: no journal is kept in it either, and writes are refused alike (log 132, DEDUCED). -/
def writeRefusal (s : State) (a : Nat) : Option Nat :=
  if !s.jrn.kept then some stBadState
  else if a / 0x10000 = 2 then (if reserveRefuses s a then some stJournalFull else none)
  else if journalFull s then some stJournalFull
  else none

/-- Adds staged writes, or none when they do not all fit (R46). A pair counts as two of the 4,096, and is refused while 4,095 wait
(log 87, DESIGN CHOICE). -/
def stage (s : State) (l : List StagedWrite) : State × Nat :=
  if 4096 < s.sch.staged.length + l.length then (s, stStageFull)
  else ({ s with sch := { s.sch with staged := s.sch.staged ++ l } }, stOk)

/-- A write of a low word is held, and recorded, unless the pair is to be staged: then its record waits for the pair's boundary, and
is appended now if this word replaces it (R6, R8, R58; log 121, DEDUCED). It answers OK whatever the number of staged writes (log 87). -/
def writeLow (s : State) (src : Source) (a : Nat) (d : Word) : State × Nat :=
  let s := recordOwed s (getHolding s src)
  let h : Holding := { getHolding s src with low := some d, lowAt := localTime s, lowWas := readReg s a, owed := none }
  if isStaged s a then (putHolding s { h with owed := some a }, stOk)
  else
    let t := putHolding s h
    let ne := match regInfo a with
      | some i => decide (i.rw = 0)
      | none => true
    (append t (writeDraft t (srcCode src) (if ne then 4 else 0) a (readReg t a) (if ne then readReg t a else d)), stOk)

/-- A write of a high word commits both words (R8, R10, R58). A low word held with no record yet is recorded with the pair, or, where
the pair is not staged or is another, now. -/
def writeHigh (s : State) (src : Source) (a : Nat) (d : Word) : State × Nat :=
  let h := getHolding s src
  let low := h.low.getD 0
  let paired := decide (h.owed = some (a - 4))
  if isStaged s a then
    let r := stage s [{ addr := a - 4, data := low, src := src, time := if paired then h.lowAt else localTime s, recorded := paired },
      { addr := a, data := d, src := src, time := localTime s }]
    if r.2 = stOk then
      let t := if paired then r.1 else recordOwed r.1 h
      (if h.owed.isSome then putHolding t { h with owed := none } else touchHolding t src, stOk)
    else r
  else
    let s := if h.owed.isSome then putHolding (recordOwed s h) { h with owed := none } else touchHolding s src
    if a = 0x2001C then (release s (srcCode src) (d.toNat * 2 ^ 32 + low.toNat), stOk)
    else (writeNow (storeFields s (a - 4) low) (srcCode src) 0 a d, stOk)

/-- A write of a 32-bit register: immediate, staged or split (R43, R46). -/
def writeSingle (s : State) (src : Source) (a : Nat) (d : Word) : State × Nat :=
  if isStaged s a then
    match regInfo a with
    | none => (s, stNoRegister)
    | some i =>
      let r := stage s [{ addr := a, data := d &&& ~~~ i.w1c, src := src, time := localTime s }]
      if i.w1c = 0 ∨ r.2 ≠ stOk then r
      else (writeNow r.1 (srcCode src) 0 a ((getReg s a &&& ~~~ i.w1c) ||| (d &&& i.w1c)), stOk)
  else (writeNow s (srcCode src) 0 a d, stOk)

/-- A register write of a source: the state and the status (R7 to R10, R43 to R46, R58, R59, R66). -/
def writeAccess (s : State) (src : Source) (addr data : Word) : State × Nat :=
  let a := addr.toNat
  if a % 4 ≠ 0 then (s, stBadAccess)
  else if (regInfo a).isNone then (s, stNoRegister)
  else
    match writeRefusal s a with
    | some c => (s, c)
    | none =>
      match pairHalf a with
      | some false => writeLow s src a data
      | some true => writeHigh s src a data
      | none => writeSingle s src a data

end Sys2Proof.Machine
end

