-- ==== Sys2Proof/Machine/Image.lean ====
section
/-! DEFINITION. The configuration image (R434 to R436, R440, R441): its checks, in the order of R440, and its application. An
image is read through a function from byte offset to byte, so that step 5 and IMG_VERIFY share the checks. -/

namespace Sys2Proof.Machine

/-- Reads bytes of an image. -/
abbrev ImageBytes := Nat → Byte

/-- Bytes of an image. -/
def imgBytes (m : ImageBytes) (a n : Nat) : List Byte := (List.range n).map (fun i => m (a + i))

/-- A little-endian number of an image. -/
def imgNum (m : ImageBytes) (a n : Nat) : Nat := ofLe (imgBytes m a n)

/-- LENGTH. -/
def imgLength (m : ImageBytes) : Nat := imgNum m 16 8

/-- A rule of the header (R434); `room` is the size of the image slot. -/
def headerOk (m : ImageBytes) (room : Nat) : Bool :=
  decide (imgNum m 0 4 = 0x47494D59) && decide (imgNum m 4 1 = 0x10) && decide (imgNum m 5 1 = 0) &&
  decide (imgNum m 6 2 = 0x9600) && decide (imgNum m 8 1 ≤ 0x10) && decide (0x10 ≤ imgNum m 9 1) &&
  decide (1 ≤ imgNum m 10 2) && decide (imgNum m 10 2 ≤ 16) && decide (imgNum m 12 4 ≠ 0) &&
  decide (imgLength m % 64 = 0) && decide (imgLength m + 29792 ≤ min room 0x4000000) && decide (imgNum m 88 40 = 0)

/-- A directory entry: TYPE, OFFSET, SIZE. -/
structure Section where
  type : Nat
  offset : Nat
  size : Nat
deriving DecidableEq, Repr

/-- The directory. -/
def directory (m : ImageBytes) : List Section :=
  (List.range (imgNum m 10 2)).map (fun i =>
    { type := imgNum m (128 + 16 * i) 4, offset := imgNum m (132 + 16 * i) 4, size := imgNum m (136 + 16 * i) 4 })

/-- Whether the spare bytes of every directory entry are zero. -/
def spareZero (m : ImageBytes) : Bool :=
  (List.range (imgNum m 10 2)).all (fun i => decide (imgNum m (140 + 16 * i) 4 = 0))

/-- The size that the contents of a section fix (R435). -/
def sizeOk (x : Section) : Bool :=
  if x.type = 1 then decide (x.size % 8 = 0)
  else if x.type = 2 then decide (x.size = 4 * (17 + 3 + 26 * 13))
  else if x.type = 3 then decide (x.size = 24)
  else if x.type = 5 then decide (x.size = 6 * 512)
  else decide (x.type = 4)

/-- Whether two sections overlap. -/
def overlaps (x y : Section) : Bool := decide (x.offset < y.offset + y.size) && decide (y.offset < x.offset + x.size)

/-- No section overlaps a later one, and no type comes twice. -/
def apart : List Section → Bool
  | [] => true
  | x :: r => r.all (fun y => !overlaps x y && decide (x.type ≠ y.type)) && apart r

/-- The section of a type. -/
def sectionOf (m : ImageBytes) (t : Nat) : Option Section := (directory m).find? (fun x => decide (x.type = t))

/-- The entries of section 0x01: address and value. -/
def settings (m : ImageBytes) : List (Word × Word) :=
  match sectionOf m 1 with
  | some x => (List.range (x.size / 8)).map (fun i =>
      (BitVec.ofNat 32 (imgNum m (x.offset + 8 * i) 4), BitVec.ofNat 32 (imgNum m (x.offset + 8 * i + 4) 4)))
  | none => []

/-- The bits of a register with an RW field that are neither writable nor reserved (R357, R376). -/
def readOnlyBits (a : Nat) : Word :=
  if 0x30010 ≤ a ∧ a < 0x30050 ∧ a % 0x10 = 0 then 0x1F1F0000 else if a = 0x40010 then 0xFF00 else 0

/-- Whether R441 admits an entry of section 0x01. -/
def settingOk (e : Word × Word) : Bool :=
  let a := e.1.toNat
  match regInfo a with
  | none => false
  | some i =>
    decide (a / 0x10000 ≠ 1) && decide (a / 0x10000 ≠ 2) && decide (i.rw ≠ 0) &&
    decide (e.2 &&& ~~~(i.rw ||| i.w1c ||| i.wo ||| readOnlyBits a) = 0)

/-- The zero bytes of section 0x03 (R435). -/
def addressesOk (m : ImageBytes) : Bool :=
  match sectionOf m 3 with
  | some x => decide (imgNum m (x.offset + 6) 2 = 0) && decide (imgNum m (x.offset + 18) 2 = 0)
  | none => true

/-- The rules of the directory and the sections (R434, R435, R441). -/
def sectionsOk (m : ImageBytes) : Bool :=
  let d := directory m
  spareZero m && apart d &&
  d.all (fun x => decide (x.offset % 64 = 0) && decide (x.offset + x.size ≤ imgLength m) && sizeOk x) &&
  (sectionOf m 2).isSome && (sectionOf m 3).isSome && (sectionOf m 5).isSome && addressesOk m &&
  (settings m).all settingOk

/-- Whether SHAKE256 of VENDOR_PK is the key hash in mask ROM (R439, R440). -/
def keyOk (m : ImageBytes) : Bool := digest256 (imgBytes m 24 64) == Config.keyHash

/-- Whether the signature at byte LENGTH verifies over bytes 0 to LENGTH - 1 under VENDOR_PK (R434, R436). -/
def signatureOk (m : ImageBytes) : Bool :=
  Config.verifies (BitVec.ofNat 512 (imgNum m 24 64)) (imgBytes m 0 (imgLength m)) (imgBytes m (imgLength m) 29792)

/-- CAUSE of the checks of an image in a slot of `room` bytes (R440). -/
def imageCause (m : ImageBytes) (room : Nat) : Byte :=
  if headerOk m room = false then 2
  else if keyOk m = false then 3
  else if signatureOk m = false then 4
  else if sectionsOk m = false then 5
  else 0

/-- CAUSE of the checks of step 5 on an image, the flash first (R440). -/
def stepFiveCause (s : State) (m : ImageBytes) : Byte :=
  if flashUsable s = false then 1 else imageCause m (imageSlot s)

/-- The words of a section. -/
def sectionWords (m : ImageBytes) (t : Nat) : List Word :=
  match sectionOf m t with
  | some x => (List.range (x.size / 4)).map (fun i => BitVec.ofNat 32 (imgNum m (x.offset + 4 * i) 4))
  | none => []

/-- The bytes of a section. -/
def sectionBytes (m : ImageBytes) (t : Nat) : List Byte :=
  match sectionOf m t with
  | some x => imgBytes m x.offset x.size
  | none => []

/-- The digest of an image (R436). -/
def imageDigest (m : ImageBytes) : BitVec 256 := digest256 (imgBytes m 0 (imgLength m))

/-- What the boot ROM takes from an image that passes. The CRC table of section 0x04 has a CRC-32C for each 4 KiB of the section before it,
the last of which may be shorter (R435; log 106). -/
def imageInfo (m : ImageBytes) : ImageInfo :=
  { format := m 4, imageId := BitVec.ofNat 32 (imgNum m 12 4), length := imgLength m, digest := imageDigest m,
    registers := settings m, power := sectionWords m 2, addresses := sectionBytes m 3, optics := sectionBytes m 5,
    scan := (sectionOf m 4).map (fun x =>
      let n := ceilDiv x.size 4100
      { offset := x.offset, size := x.size - 4 * n
        crcs := (List.range n).map (fun k => BitVec.ofNat 32 (imgNum m (x.offset + x.size - 4 * n + 4 * k) 4)) }) }

/-! ### Application (R441) -/

/-- A CONFIG record of a register that holds its new value. -/
def configRecord (s : State) (a flags : Nat) : State :=
  append s (draft s 0x02 (16 * flags) (BitVec.ofNat 32 a) (resetOf a) (readReg s a))

/-- Writes a register whose reset value is "From the image". -/
def configSet (s : State) (a : Nat) (v : Word) : State := configRecord (setReg s a v) a 0

/-- An entry of section 0x01: a write from SELF of the word itself, with its action. -/
def configWrite (s : State) (e : Word × Word) : State :=
  let a := e.1.toNat
  let d := e.2
  let old := readReg s a
  let refused := refusedAction s a d
  let ne := noEffect s a d
  let valid := ownValid s
  let was := coord s
  let s := storeFields s a d
  act (configRecord s a (if ne then 4 else 0)) a old d refused valid was

/-- An octet of section 0x03. -/
def octet (l : List Byte) (i : Nat) : Nat := ((l[i]?).getD 0).toNat

/-- A MAC address at an offset of section 0x03, its first octet most significant. -/
def macAt (l : List Byte) (i : Nat) : Nat := (List.range 6).foldl (fun v k => v * 256 + octet l (i + k)) 0

/-- An IPv4 address at an offset of section 0x03, its first octet in [31:24]. -/
def ipv4At (l : List Byte) (i : Nat) : Word :=
  BitVec.ofNat 32 ((List.range 4).foldl (fun v k => v * 256 + octet l (i + k)) 0)

/-- The registers of section 0x03. -/
def addressWrites (l : List Byte) : List (Nat × Word) :=
  [(0x00080008, BitVec.ofNat 32 (macAt l 0)), (0x0008000C, BitVec.ofNat 32 (macAt l 0 / 2 ^ 32)), (0x00080010, ipv4At l 8),
   (0x00090008, BitVec.ofNat 32 (macAt l 12)), (0x0009000C, BitVec.ofNat 32 (macAt l 12 / 2 ^ 32)), (0x00090010, ipv4At l 20)]

/-- The registers of section 0x02. -/
def powerWrites (l : List Word) : List (Nat × Word) :=
  (List.range 16).map (fun n => (0x00040080 + 4 * n, (l[n]?).getD 0)) ++ [(0x0004001C, (l[16]?).getD 0)]

/-- The tables of section 0x02: the fixed terms and LEAK, in canonical form. -/
def powerTables (p : Power) (l : List Word) : Power :=
  let t := l.drop 20
  { p with
    fixedMw := ((l.drop 17).take 3).map (·.toNat)
    leak := ((List.range t.length).zip t).filter (fun x => x.2 != 0) }

/-- Applies the sections of an image: 0x02, 0x03, 0x05, then 0x01 (R441). -/
def applyImage (s : State) (x : ImageInfo) : State :=
  let s := { s with pwr := powerTables s.pwr x.power, boot := { s.boot with applied := some x } }
  let s := (powerWrites x.power).foldl (fun s p => configSet s p.1 p.2) s
  let s := (addressWrites x.addresses).foldl (fun s p => configSet s p.1 p.2) s
  x.registers.foldl configWrite s

end Sys2Proof.Machine
end

