-- ==== Sys2Proof/Machine/Boot.lean ====
section
/-! DEFINITION. Resets and start-up (R56, R62, R63, R331, R348, R354, R380, R396, R431 to R443, R461) and the Ethernet ports'
links. -/

namespace Sys2Proof.Machine

/-! ### Pins (R431, R439, R461) -/

/-- PORST_N_ASSERT (R431, R461). -/
def execPorstAssert (s : State) : Host.Outcome State Fault Refusal :=
  .next (if s.porstN then porstReset s else s)

/-- PORST_N_RELEASE (R439, R461): the boot ROM starts; while WRST_N is low it waits for its release. -/
def execPorstRelease (f : Sfdp) (s : State) : Host.Outcome State Fault Refusal :=
  .next (
    if s.porstN then s
    else
      let s := { s with porstN := true }
      if s.wrstN then startBoot s f else s)

/-- WRST_N_ASSERT (R431, R461): in power-on reset only the pin changes. -/
def execWrstAssert (s : State) : Host.Outcome State Fault Refusal :=
  .next (
    if !s.wrstN then s
    else if s.porstN then wrstReset s
    else { s with wrstN := false })

/-- WRST_N_RELEASE (R431, R439, R461). -/
def execWrstRelease (f : Sfdp) (s : State) : Host.Outcome State Fault Refusal :=
  .next (
    if s.wrstN then s
    else
      let s := { s with wrstN := true }
      if s.porstN then startBoot s f else s)

/-! ### Steps 5 to 7 (R439 to R442) -/

/-- Whether the boot ROM runs. -/
def booting (s : State) : Bool := s.porstN && s.wrstN && decide (s.dev = .boot)

/-- The EPOCH record with its DIGEST records (R54, R56). -/
def epochRecords (s : State) : State :=
  let g3 := match s.boot.found with
    | some x => x.digest
    | none => 0
  let s := append s (draft s 0x03 0 (half s.jrn.nonce false) (half s.jrn.nonce true) 16)
  let s := appendAll s (digestDrafts s 3 (digestWord g3))
  appendAll s (digestDrafts s 4 (digestWord s.boot.group4))

/-- Step 6, in BOOT, once step 5 has ended and LPDDR5X training too: the journal of the epoch begins and the sections are applied; or
the device enters FAULT. -/
def stepSix (s : State) : State :=
  if s.dev ≠ .boot ∨ s.boot.step ≠ 5 ∨ s.mem.trained = 0 then s
  else if s.mem.trained ≠ 1 then enterFault s 3
  else
    let s := epochRecords { s with jrn := { s.jrn with kept := true } }
    let s := { s with boot := { s.boot with step := 6 } }
    match s.boot.found with
    | some x => applyImage s x
    | none => s

/-- The installed capacity in GiB: a multiple of 32 from 64 to 1,024 (R290). -/
def capacityGib (units : Fin 31) : BitVec 16 := BitVec.ofNat 16 (64 + 32 * units.val)

/-- LPDDR5X_TRAINING_DONE (R290, R439): the installed capacity, and step 6 when step 5 has ended. -/
def execLpddrTrainingDone (ok : Bool) (units : Fin 31) (s : State) : Host.Outcome State Fault Refusal :=
  .next (
    if s.porstN && decide (s.mem.trained = 0) && s.clk.locks.getLsbD 10 then
      stepSix { s with mem := { s.mem with trained := if ok then 1 else 2, installed := if ok then capacityGib units else 0 } }
    else s)

/-- CAUSE of step 5 (R440, R447). -/
def bootCause (s : State) : Byte :=
  if s.boot.cut && flashUsable s then (if Config.headerCut s.fresh then 2 else 4) else stepFiveCause s (flashByte s)

/-- IMAGE_CHECK_DONE (R439, R440): step 5 ends, and step 6 follows when LPDDR5X is trained. -/
def execImageCheckDone (s : State) : Host.Outcome State Fault Refusal :=
  .next (
    if booting s && decide (s.boot.step = 4) then
      let c := bootCause s
      stepSix { takeFresh s with boot := { s.boot with
        step := 5, cause := c, found := if c = 0 then some (imageInfo (flashByte s)) else none } }
    else s)

/-- Wakes the links that the image enabled (R251). -/
def wakeLinks (s : State) : State :=
  (List.finRange 24).foldl (fun s n => if bit (lnkCtrl s n.val) 29 then enterTest s n else wakeLink s n) s

/-- From step 7 on the management port runs under its settings (R443): a clause 74 FEC that they set otherwise takes the link down. -/
def restartFec (s : State) : State :=
  if s.dev = .boot ∧ s.boot.found.isSome ∧ bit (mgtSetting s 0x00090004) 31 ≠ s.ports.fecOn then
    { s with ports := { s.ports with mgtUp := false, fecOn := false } }
  else s

/-- BOOT_READY (R31, R439, R442): step 7 ends: the HBM3E stacks are initialised and the device is READY, or RECOVERY when step 5
failed. The power controller runs from READY on, and its first sample counts from there (R360). -/
def execBootReady (s : State) : Host.Outcome State Fault Refusal :=
  .next (
    if booting s && decide (s.boot.step = 6) then
      let s := restartFec { s with boot := { s.boot with step := 7 } }
      if s.boot.found.isSome then
        wakeLinks { s with
          dev := .ready, readySeen := true, mem := { s.mem with stacksOk := 0xFFF }, pwr := { s.pwr with hubFj := 0 } }
      else { s with dev := .recovery }
    else s)

/-! ### The Ethernet ports (R396, R422, R429, R430, R442) -/

/-- PORT_LINK_UP (R396): the management port runs clause 74 FEC as MGT_CTRL.FEC says; the host port stays idle until READY and in
RECOVERY. -/
def execPortLinkUp (p : PortId) (s : State) : Host.Outcome State Fault Refusal :=
  .next (
    if !s.porstN || !s.wrstN || !s.clk.timeOk || !s.clk.locks.getLsbD (if p = .host then 17 else 18) then s
    else
      match p with
      | .host => if s.dev = .ready then { s with ports := { s.ports with hostUp := true } } else s
      | .mgt => { s with ports := { s.ports with mgtUp := true, fecOn := bit (mgtSetting s 0x00090004) 31 } })

/-- PORT_LINK_DOWN (R422). -/
def execPortLinkDown (p : PortId) (s : State) : Host.Outcome State Fault Refusal :=
  .next (match p with
    | .host => { s with ports := { s.ports with hostUp := false } }
    | .mgt => { s with ports := { s.ports with mgtUp := false, fecOn := false } })

end Sys2Proof.Machine
end

