-- ==== Sys2Proof/Machine/Positions.lean ====
section
/-! DEFINITION. Positions of the committed itinerary: the step and the frame of a position (R193, R223). -/

namespace Sys2Proof.Machine

/-- Where a position lies: its step record, the index of its step in position order, the step's first position and length,
and its frame. -/
structure Place where
  record : Nat
  index : Nat
  first : Nat
  len : Nat
  frame : Nat
deriving DecidableEq, Repr

/-- The place of position `p` in step records of which the first begins at position `base` with step `idx`. -/
def placeAt : List StepRec → Nat → Nat → Nat → Nat → Option Place
  | [], _, _, _, _ => none
  | r :: rest, p, base, k, idx =>
    let n := r.frames.length
    if p < base + n * r.repeats then
      let off := p - base
      some { record := k, index := idx + off / n, first := base + off / n * n, len := n, frame := (r.frames[off % n]?).getD 0 }
    else placeAt rest p (base + n * r.repeats) (k + 1) (idx + r.repeats)

/-- The positions that step records cover. -/
def totalPositions (l : List StepRec) : Nat := l.foldl (fun a r => a + r.frames.length * r.repeats) 0

/-- The place of a position of the committed itinerary; none beyond its last position. -/
def placeOfPos (s : State) (p : Nat) : Option Place :=
  match committedSlot s with
  | some x => placeAt x.content.steps p 0 0 0
  | none => none

/-- The place of the running position. -/
def placeNow (s : State) : Option Place := placeOfPos s s.sch.position

/-- Whether the running position is its step's last. -/
def lastOfStep (s : State) : Bool :=
  match placeNow s with
  | some p => decide (s.sch.position + 1 = p.first + p.len)
  | none => false

/-- The frame of the running position; a milestone run beyond the last position, while its step waits to commit, has none
(R194; log 32). -/
def frameNow (s : State) : FrameDef :=
  match committedSlot s, placeNow s with
  | some x, some p => (x.content.frames[p.frame]?).getD { sends := [], arrivals := [], slots := [] }
  | _, _ => { sends := [], arrivals := [], slots := [] }

/-- The arrival tags marked as peer digests of a logical tile in the step of the running position, ascending: entry k of
R323 is the k-th. -/
def peerTags (s : State) (t : TileRef) : List Nat :=
  match committedSlot s, placeNow s with
  | some x, some p =>
    let fs := match x.content.steps[p.record]? with
      | some r => r.frames
      | none => []
    let tags := (fs.filterMap (fun i => x.content.frames[i]?)).flatMap (fun f =>
      (f.arrivals.filter (fun e => decide (e.lchip = s.sch.lchip) && decide (e.d = t.d) && decide (e.l = t.l) &&
        e.mark == .peerDigest)).map (fun e => e.tag))
    (tags.foldl (fun l g => if l.contains g then l else l ++ [g]) []).mergeSort (fun a b => decide (a ≤ b))
  | _, _ => []

end Sys2Proof.Machine
end

