-- ==== Sys2Proof/Machine/Binary32.lean ====
section
/-! DEFINITION. Binary32 and the special functions (spec/03_arithmetic.md, R89 to R95). -/

namespace Sys2Proof.Machine

/-- The canonical NaN (R89). -/
def nan32 : Word := 0x7FC00000

/-- The sign of a binary32 word. -/
def neg32 (a : Word) : Bool := a.msb

/-- A binary32 word with its sign bit inverted. -/
def flip32 (a : Word) : Word := a ^^^ 0x80000000

/-- Class and value of a binary32 word (R73). -/
def dec32 (a : Word) : Cls × Dyadic := decode .fp32 a.toNat

/-- Whether the word is a NaN. -/
def isNan32 (a : Word) : Bool := (dec32 a).1 == .nan

/-- Whether the word is +0 or -0. -/
def isZero32 (a : Word) : Bool := a &&& 0x7FFFFFFF == 0

/-- A finite value rounded to nearest even; an exact zero takes `zeroNeg` as its sign. -/
def rne32 (v : Dyadic) (zeroNeg : Bool) : Word :=
  if v.n = 0 then (if zeroNeg then 0x80000000 else 0) else BitVec.ofNat 32 (roundTo v .fp32 .rne false 0)

/-- The exact sum of two dyadic rationals. -/
def addDyadic (a b : Dyadic) : Dyadic :=
  let e := min a.e b.e
  ⟨a.n * ((2 ^ (a.e - e).toNat : Nat) : Int) + b.n * ((2 ^ (b.e - e).toNat : Nat) : Int), e⟩

/-- An infinite class as a word. -/
def inf32 (c : Cls) : Word := if c = .ninf then 0xFF800000 else 0x7F800000

/-- The sum of two classified values with the signs their zeros carry, rounded once (R89). -/
def addRounded (a b : Cls × Dyadic) (na nb : Bool) : Word :=
  match clsAdd a.1 b.1 with
  | .nan => nan32
  | .finite => rne32 (addDyadic a.2 b.2) (na && nb && decide (a.2.n = 0) && decide (b.2.n = 0))
  | c => inf32 c

/-- fadd32 (R89). -/
def fadd32 (a b : Word) : Word := addRounded (dec32 a) (dec32 b) (neg32 a) (neg32 b)

/-- fmul32 (R89). -/
def fmul32 (a b : Word) : Word :=
  let p := product (dec32 a) (dec32 b)
  match p.1 with
  | .nan => nan32
  | .finite => rne32 p.2 (neg32 a != neg32 b) ||| (if neg32 a != neg32 b then 0x80000000 else 0)
  | c => inf32 c

/-- ffma32 (R89): a times b plus c, rounded once. -/
def ffma32 (a b c : Word) : Word :=
  addRounded (product (dec32 a) (dec32 b)) (dec32 c) (neg32 a != neg32 b) (neg32 c)

/-- rne_int (R89) of a finite dyadic rational. -/
def rneInt (v : Dyadic) : Int :=
  let n : Int := roundShift .rne v.n.natAbs v.e 0
  if v.n < 0 then -n else n

/-- The binary32 word of an integer, exact for the uses of R93 and R94. -/
def ofInt32 (z : Int) : Word := rne32 ⟨z, 0⟩ false

/-- canon_sum (R90) with a bound on the depth of the tree. -/
def canonFuel : Nat → List Word → Word
  | 0, _ => 0
  | k + 1, l =>
    match l with
    | [] => 0
    | [a] => a
    | l =>
      let h := 2 ^ (l.length - 1).log2
      fadd32 (canonFuel k (l.take h)) (canonFuel k (l.drop h))

/-- canon_sum (R90). -/
def canonSum (l : List Word) : Word := canonFuel (l.length + 1) l

/-- TEXP (R92): entry k is the binary32 nearest to 2^(k/64). -/
def tableTexp : List Word :=
  [0x3F800000, 0x3F8164D2, 0x3F82CD87, 0x3F843A29, 0x3F85AAC3, 0x3F871F62, 0x3F88980F, 0x3F8A14D5,
   0x3F8B95C2, 0x3F8D1ADF, 0x3F8EA43A, 0x3F9031DC, 0x3F91C3D3, 0x3F935A2B, 0x3F94F4F0, 0x3F96942D,
   0x3F9837F0, 0x3F99E046, 0x3F9B8D3A, 0x3F9D3EDA, 0x3F9EF532, 0x3FA0B051, 0x3FA27043, 0x3FA43516,
   0x3FA5FED7, 0x3FA7CD94, 0x3FA9A15B, 0x3FAB7A3A, 0x3FAD583F, 0x3FAF3B79, 0x3FB123F6, 0x3FB311C4,
   0x3FB504F3, 0x3FB6FD92, 0x3FB8FBAF, 0x3FBAFF5B, 0x3FBD08A4, 0x3FBF179A, 0x3FC12C4D, 0x3FC346CD,
   0x3FC5672A, 0x3FC78D75, 0x3FC9B9BE, 0x3FCBEC15, 0x3FCE248C, 0x3FD06334, 0x3FD2A81E, 0x3FD4F35B,
   0x3FD744FD, 0x3FD99D16, 0x3FDBFBB8, 0x3FDE60F5, 0x3FE0CCDF, 0x3FE33F89, 0x3FE5B907, 0x3FE8396A,
   0x3FEAC0C7, 0x3FED4F30, 0x3FEFE4BA, 0x3FF28177, 0x3FF5257D, 0x3FF7D0DF, 0x3FFA83B3, 0x3FFD3E0C]

/-- RLOG (R92): entry k is the binary32 nearest to 128/(129 + 2k). -/
def tableRlog : List Word :=
  [0x3F7E03F8, 0x3F7A232D, 0x3F76603E, 0x3F72B9D6, 0x3F6F2EB7, 0x3F6BBDB3, 0x3F6865AC, 0x3F652598,
   0x3F61FC78, 0x3F5EE95C, 0x3F5BEB62, 0x3F5901B2, 0x3F562B81, 0x3F53680D, 0x3F50B6A0, 0x3F4E168A,
   0x3F4B8728, 0x3F4907DA, 0x3F46980C, 0x3F443730, 0x3F41E4BC, 0x3F3FA030, 0x3F3D6910, 0x3F3B3EE7,
   0x3F392144, 0x3F370FBB, 0x3F3509E7, 0x3F330F63, 0x3F311FD4, 0x3F2F3ADE, 0x3F2D602B, 0x3F2B8F6A,
   0x3F29C84A, 0x3F280A81, 0x3F2655C4, 0x3F24A9CF, 0x3F23065E, 0x3F216B31, 0x3F1FD80A, 0x3F1E4CAD,
   0x3F1CC8E1, 0x3F1B4C70, 0x3F19D723, 0x3F1868C8, 0x3F17012E, 0x3F15A025, 0x3F144581, 0x3F12F114,
   0x3F11A2B4, 0x3F105A38, 0x3F0F177A, 0x3F0DDA52, 0x3F0CA29C, 0x3F0B7034, 0x3F0A42F8, 0x3F091AC7,
   0x3F07F781, 0x3F06D905, 0x3F05BF37, 0x3F04A9FA, 0x3F039930, 0x3F028CC0, 0x3F01848E, 0x3F008081]

/-- LLOG (R92): entry k is the binary32 nearest to −ln(RLOG[k]). -/
def tableLlog : List Word :=
  [0x3BFF015B, 0x3CBDC8D6, 0x3D1CF437, 0x3D5A16F0, 0x3D8B29B9, 0x3DA8D837, 0x3DC61A33, 0x3DE2F2A6,
   0x3DFF648A, 0x3E0DB958, 0x3E1B8FE1, 0x3E29372F, 0x3E36B07E, 0x3E43FD04, 0x3E511DE0, 0x3E5E1436,
   0x3E6AE10A, 0x3E778570, 0x3E82012E, 0x3E882C5F, 0x3E8E44C6, 0x3E944AD0, 0x3E9A3EEE, 0x3EA02185,
   0x3EA5F2FD, 0x3EABB3BA, 0x3EB16416, 0x3EB70476, 0x3EBC952A, 0x3EC2168E, 0x3EC788F5, 0x3ECCECAC,
   0x3ED24205, 0x3ED78949, 0x3EDCC2C5, 0x3EE1EEBE, 0x3EE70D79, 0x3EEC1F3A, 0x3EF12441, 0x3EF61CCF,
   0x3EFB0921, 0x3EFFE96F, 0x3F025EFD, 0x3F04C37B, 0x3F07224C, 0x3F097B8D, 0x3F0BCF55, 0x3F0E1DC0,
   0x3F1066E6, 0x3F12AADF, 0x3F14E9C0, 0x3F1723A2, 0x3F19589A, 0x3F1B88BE, 0x3F1DB423, 0x3F1FDADD,
   0x3F21FCFE, 0x3F241A9F, 0x3F2633CE, 0x3F28489E, 0x3F2A5924, 0x3F2C656D, 0x3F2E6D8E, 0x3F307197]

/-- TRSQ (R92): entry k is the binary32 nearest to 1/sqrt(1 + (k + 0.5)/32). -/
def tableTrsq : List Word :=
  [0x3F7E05EC, 0x3F7A33F9, 0x3F768CDC, 0x3F730D8A, 0x3F6FB345, 0x3F6C7B90, 0x3F69642A, 0x3F666B02,
   0x3F638E39, 0x3F60CC16, 0x3F5E2305, 0x3F5B9193, 0x3F59166B, 0x3F56B051, 0x3F545E22, 0x3F521ED0,
   0x3F4FF162, 0x3F4DD4ED, 0x3F4BC89B, 0x3F49CBA2, 0x3F47DD45, 0x3F45FCD6, 0x3F4429AF, 0x3F426337,
   0x3F40A8DE, 0x3F3EFA1C, 0x3F3D5671, 0x3F3BBD67, 0x3F3A2E8C, 0x3F38A975, 0x3F372DBF, 0x3F35BB09,
   0x3F3450FC, 0x3F32EF41, 0x3F319589, 0x3F304387, 0x3F2EF8F2, 0x3F2DB587, 0x3F2C7904, 0x3F2B432A,
   0x3F2A13C0, 0x3F28EA8C, 0x3F27C759, 0x3F26A9F4, 0x3F25922C, 0x3F247FD3, 0x3F2372BD, 0x3F226ABE,
   0x3F2167AF, 0x3F206968, 0x3F1F6FC4, 0x3F1E7AA0, 0x3F1D89D9, 0x3F1C9D4E, 0x3F1BB4E1, 0x3F1AD073,
   0x3F19EFE6, 0x3F191320, 0x3F183A05, 0x3F17647C, 0x3F16926C, 0x3F15C3BC, 0x3F14F857, 0x3F143026,
   0x3F136B13, 0x3F12A90B, 0x3F11E9F9, 0x3F112DCA, 0x3F10746D, 0x3F0FBDCE, 0x3F0F09DD, 0x3F0E5889,
   0x3F0DA9C2, 0x3F0CFD79, 0x3F0C539F, 0x3F0BAC25, 0x3F0B06FD, 0x3F0A641A, 0x3F09C36D, 0x3F0924EC,
   0x3F088889, 0x3F07EE37, 0x3F0755ED, 0x3F06BF9E, 0x3F062B40, 0x3F0598C7, 0x3F05082A, 0x3F04795F,
   0x3F03EC5C, 0x3F036117, 0x3F02D788, 0x3F024FA6, 0x3F01C967, 0x3F0144C4, 0x3F00C1B4, 0x3F004030]

/-- An entry of a table. -/
def entry (t : List Word) (k : Nat) : Word := (t[k]?).getD 0

/-- A finite binary32 word times a power of two, rounded to nearest even (the last line of R93 and R95). -/
def scale32 (y : Word) (m : Int) : Word :=
  let v := (dec32 y).2
  rne32 ⟨v.n, v.e + m⟩ false

/-- vexp (R93). -/
def vexp32 (x : Word) : Word :=
  let d := dec32 x
  if d.1 = .nan then nan32
  else if d.1 = .pinf ∨ (d.1 = .finite ∧ 0 ≤ (addDyadic d.2 ⟨-128, 0⟩).n) then 0x7F800000
  else if d.1 = .ninf ∨ (d.1 = .finite ∧ (addDyadic d.2 ⟨150, 0⟩).n ≤ 0) then 0
  else
    let n := rneInt (dec32 (fmul32 x 0x42B8AA3B)).2
    let j := n % 64
    let m := (n - j) / 64
    let nn := ofInt32 (-n)
    let r := ffma32 nn 0x3C317200 x
    let r := ffma32 nn 0x32BFBB48 r
    let q := ffma32 0x3E2AAAAB r 0x3F000000
    let q := fmul32 q (fmul32 r r)
    let p := fadd32 r q
    let y := ffma32 (entry tableTexp j.toNat) p (entry tableTexp j.toNat)
    scale32 y m

/-- x = mm times 2^e with 1 ≤ mm < 2, for a positive finite dyadic: mm as a binary32 word, and e (R94, R95). -/
def splitMant (v : Dyadic) : Word × Int :=
  let k := v.n.natAbs.log2
  (BitVec.ofNat 32 (roundTo ⟨v.n, -(k : Int)⟩ .fp32 .rne false 0), v.e + k)

/-- floor((mm - 1) times 2^k) of a binary32 value not below 1. -/
def stepIndex (mm : Word) (k : Nat) : Nat :=
  let v := addDyadic (dec32 mm).2 ⟨-1, 0⟩
  (scaled v k).toNat

/-- vlog (R94). -/
def vlog32 (x : Word) : Word :=
  let d := dec32 x
  if d.1 = .nan ∨ (neg32 x ∧ ¬ isZero32 x) then nan32
  else if isZero32 x then 0xFF800000
  else if d.1 = .pinf then 0x7F800000
  else
    let s := splitMant d.2
    let mm := s.1
    let e := ofInt32 s.2
    let j := stepIndex mm 6
    let r := ffma32 mm (entry tableRlog j) 0xBF800000
    let q := ffma32 0x3EAAAAAB r 0xBF000000
    let q := fmul32 q (fmul32 r r)
    let p := fadd32 r q
    let hi := ffma32 e 0x3F317200 (entry tableLlog j)
    let lo := ffma32 e 0x35BFBB48 p
    fadd32 hi lo

/-- One Newton step of vrsq (R95). -/
def vrsqStep (mm y : Word) : Word :=
  let h := fmul32 mm y
  let h := ffma32 (flip32 h) y 0x3F800000
  ffma32 (fmul32 y h) 0x3F000000 y

/-- vrsq (R95). -/
def vrsq32 (x : Word) : Word :=
  let d := dec32 x
  if d.1 = .nan ∨ (neg32 x ∧ ¬ isZero32 x) then nan32
  else if isZero32 x then (if neg32 x then 0xFF800000 else 0x7F800000)
  else if d.1 = .pinf then 0
  else
    let s := splitMant d.2
    let odd := s.2 % 2 = 1
    let mm := if odd then scale32 s.1 1 else s.1
    let e := if odd then s.2 - 1 else s.2
    let y := entry tableTrsq (stepIndex mm 5)
    let y := vrsqStep mm (vrsqStep mm y)
    scale32 y (-(e / 2))

end Sys2Proof.Machine
end

