-- ==== Sys2Proof/Machine/Operands.lean ====
section
/-! DEFINITION. The operands of a tile instruction: registers of a group under the guard (R131, R132), effective addresses
(R141), scratchpad lines with their tags, locks and arrival checks (R103 to R111, R156, R165, R166), and the issue of an
instruction (R100, R101, R134, R148). -/

namespace Sys2Proof.Machine

/-- Adds a number to a list that does not hold it yet. -/
def addTo (l : List Nat) (g : Nat) : List Nat := if l.contains g then l else l ++ [g]

/-! ### Registers of a group -/

/-- s[r][k]; s0 reads as zero (R131). -/
def sReg (x : Group) (r k : Nat) : DWord := if r = 0 then 0 else SMap.get 0 x.s (32 * r + k)

/-- Writes s[r][k]; a write to s0 is discarded (R131). -/
def setS (x : Group) (r k : Nat) (v : DWord) : Group :=
  if r = 0 then x else { x with s := SMap.set 0 x.s (32 * r + k) v }

/-- p[r]; p0 reads as all ones (R131). -/
def pReg (x : Group) (r : Nat) : DWord := if r = 0 then 0xFFFFFFFFFFFFFFFF else SMap.get 0 x.p r

/-- Writes p[r]; no instruction names p0 as a destination (R131). -/
def setP (x : Group) (r : Nat) (v : DWord) : Group := if r = 0 then x else { x with p := SMap.set 0 x.p r v }

/-- Lane i of v[r]. -/
def vReg (x : Group) (r i : Nat) : Word := SMap.get 0 x.v (64 * r + i)

/-- Writes lane i of v[r]. -/
def setV (x : Group) (r i : Nat) (v : Word) : Group := { x with v := SMap.set 0 x.v (64 * r + i) v }

/-- The guard G (R132). -/
def guardOf (x : Group) (gd : Guard) : DWord :=
  if gd.pn then ~~~ pReg x gd.pg.toNat else pReg x gd.pg.toNat

/-- The threads that act: k below 32 with G[k] = 1 (R98). -/
def actThreads (G : DWord) : List Nat := (List.range 32).filter (fun k => G.getLsbD k)

/-- The lanes that act: i below 64 with G[i] = 1 (R98). -/
def actLanes (G : DWord) : List Nat := (List.range 64).filter (fun i => G.getLsbD i)

/-- Writes `f k` into s[r][k] for each listed thread, every value taken from `x` before any is written. -/
def writeThreads (x : Group) (r : Nat) (ks : List Nat) (f : Nat → DWord) : Group :=
  (ks.map (fun k => (k, f k))).foldl (fun y p => setS y r p.1 p.2) x

/-- Writes `f i` into lane i of v[r] for each listed lane, every value taken from `x` before any is written. -/
def writeLanes (x : Group) (r : Nat) (is : List Nat) (f : Nat → Word) : Group :=
  (is.map (fun i => (i, f i))).foldl (fun y p => setV y r p.1 p.2) x

/-- Operand b of formats S (R137): the immediate, sign-extended, or a register. -/
def operandS (x : Group) (f : SFields) (k : Nat) : DWord :=
  if f.i then f.imm.signExtend 64 else sReg x (f.imm.toNat % 64) k

/-- Operand b of format V in lane i (R176). -/
def operandV (x : Group) (f : VFields) (i : Nat) : Word :=
  if f.sb then (sReg x f.sr.toNat 0).setWidth 32 else vReg x f.b.toNat i

/-- A base register of a thread plus a signed byte offset (R141). -/
def baseAddr (x : Group) (a k : Nat) (imm : BitVec 32) : Nat := (sReg x a k + imm.signExtend 64).toNat

/-! ### The issue of an instruction -/

/-- The address after completing the word at `a`, with the loop stack that leaves (R148). -/
def completeWord : List LoopEntry → Nat → Nat × List LoopEntry
  | [], a => (a + 1, [])
  | e :: r, a =>
    if a = e.last then
      if 1 < e.left then (e.first, { e with left := e.left - 1 } :: r) else completeWord r a
    else (a + 1, e :: r)

/-- The group continues at its next instruction (R134, R148); its cycles of not being ready are over (R113). -/
def advance (x : Group) : Group :=
  let n := completeWord x.loops x.ia
  { x with ia := n.1, loops := n.2, waited := 0, needs := .none }

/-- Whether the partition of the tile is in partition reset, when its tiles issue nothing (R310). -/
def inPreset (s : State) (t : TileRef) : Bool := s.mem.preset.getLsbD (quadOf t.d.val)

/-- Whether a shadow runs beside logical tile l, for a shadow's own instructions (R318). -/
def tileLive (s : State) (t : TileRef) : Bool :=
  (getTile s t).prog.isSome && (!t.shadow || (sampleOf (getDist s t.d.val) t.l.val).isSome)

/-- Whether the tile can issue at all: the itinerary runs, the chip is not frozen, the tile has not been finished by a
RETRACE decision or a partition reset, and its district has ended the copy of a roadworks move (R100, R122, R211, R216, R310). -/
def tileIssues (s : State) (t : TileRef) : Bool :=
  decide (s.dev = .ready) && isCommitted s && s.sch.running && tileLive s t && !frozen s && !inPreset s t &&
  !(getTile s t).forced && !s.sch.forced && decide ((getDist s t.d.val).copying = 0)

/-- Whether the group is ready but for what its instruction needs (R100): resident, in no wait, in no swap. -/
def groupReady (s : State) (t : TileRef) (g : Nat) : Bool :=
  let x := getTile s t
  let y := getGroup x g
  tileIssues s t && groupExists x g && y.resident && decide (y.wait = .none) &&
  (match x.swap with
   | some w => decide (w.out ≠ g)
   | none => true)

/-- Whether no listed register waits for data (R134). -/
def regsFree (x : Group) (ss vs : List Nat) : Bool :=
  ss.all (fun r => r == 0 || !x.pendS.contains r) && vs.all (fun r => !x.pendV.contains r)

/-! ### The issue stage (R101) -/

/-- The instructions a port takes in one cycle. -/
def portCap : Port → Nat
  | .scalar => 4
  | .vector => 4
  | .matrix => 1
  | .memory => 2
  | .transfer => 1

/-- The place of a slot in the scan from the round-robin pointer. -/
def scanPlace (x : Tile) (slot : Nat) : Nat := (slot + 64 - x.rr) % 64

/-- Whether the issue stage still takes an instruction of the group in this cycle: fewer than four have issued, the port has room, and
the scan has not passed the group's slot. Which of the groups ahead in the scan are ready in the cycle rests on latencies: their
commands say so by coming first (log 28). -/
def issueRoom (x : Tile) (g : Nat) (p : Port) : Bool :=
  decide (x.slate.length < 4) && decide ((x.slate.filter (fun e => e.2 == p)).length < portCap p) &&
  x.slate.all (fun e => decide (scanPlace x e.1 < scanPlace x (getGroup x g).slot))

/-- Whether the group's instruction for a port can issue in this cycle. -/
def canIssue (s : State) (t : TileRef) (g : Nat) (p : Port) : Bool := groupReady s t g && issueRoom (getTile s t) g p

/-- The class of power events of an issue: vector instructions, and scalar, memory and transfer instructions (R359). -/
def chargeIssue (s : State) (d : Nat) : Port → State
  | .vector => charge s d 5 1
  | .matrix => s
  | _ => charge s d 6 1

/-- Counts an issue in the cycle (R101, R123). -/
def countIssue (s : State) (t : TileRef) (g : Nat) (p : Port) : State :=
  let x := getTile s t
  let s := setTile s t { x with slate := x.slate ++ [((getGroup x g).slot, p)] }
  chargeIssue (bump s (tileBase t.d.val (posOf s t) + 0x10) 1) t.d.val p

/-- The round-robin pointer after a cycle: the slot after the last group that issued (R101). -/
def nextPointer (x : Tile) : Nat :=
  match x.slate.getLast? with
  | some e => (e.1 + 1) % 64
  | none => x.rr

/-! ### Groups -/

/-- Writes a group back into its tile. -/
def putGroup (s : State) (t : TileRef) (g : Nat) (y : Group) : State := setTile s t (setGroup (getTile s t) g y)

/-- The group continues at its next instruction. -/
def advanceGroup (s : State) (t : TileRef) (g : Nat) : State :=
  putGroup s t g (advance (getGroup (getTile s t) g))

/-- Whether the vector registers lie below the program's VREGS (R131). -/
def vregsOk (s : State) (t : TileRef) (vs : List Nat) : Bool :=
  match (getTile s t).prog with
  | some p => vs.all (fun r => decide (r < p.vregs))
  | none => true

/-- A tile instruction that R127 admits answers a next state; one that it refuses can not exist in a committed program. -/
def decoded (ok : Bool) (s : State) : Host.Outcome State Fault Refusal := if ok then .next s else .refused .malformed

/-- An instruction that works only on its group: when the group is ready and no register it names waits for data, it has
its effect and the group continues; otherwise nothing happens. -/
def issueGroup (s : State) (t : TileRef) (g : Nat) (p : Port) (ss vs : List Nat) (f : Group → Group) : State :=
  let y := getGroup (getTile s t) g
  if canIssue s t g p && regsFree y ss vs then
    putGroup (countIssue s t g p) t g (advance (f y))
  else s

/-! ### Scratchpad (R103 to R111) -/

/-- The first address beyond the declared pages (R104). -/
def spadEnd (x : Tile) : Nat :=
  match x.prog with
  | some p => p.pages * 65536
  | none => 0

/-- The lines that `n` bytes from `a` touch. -/
def linesOf (a n : Nat) : List Nat := (List.range ((a + n - 1) / 64 + 1 - a / 64)).map (fun i => a / 64 + i)

/-- Whether a line belongs to an EXPECTED arrival entry whose tag is not `own` (R111, R185). -/
def expected (x : Tile) (own : Option Nat) (line : Nat) : Bool :=
  x.arrivals.any (fun e => !e.landed && decide (some e.tag ≠ own) && decide (e.line ≤ line) &&
    decide (line < e.line + e.count))

/-- Whether a line carries another group's tag (R106); tags hold the group plus one. -/
def otherTag (x : Tile) (g line : Nat) : Bool :=
  let v := SMap.get 0 x.tags line
  v != 0 && v != g + 1

/-- Whether a line lies in a span. -/
def inSpan (p : Span) (line : Nat) : Bool := decide (p.first ≤ line) && decide (line < p.first + p.count)

/-- Whether a line is locked, for a departure or while an engine instruction reads it (R156, R166). -/
def isLocked (x : Tile) (line : Nat) : Bool := x.locks.any (fun p => inSpan p line)

/-- What an access to a line raises, if anything (R104, R106, R111, R156, R166): the code of R125. Where several apply the spec names no
order: bounds come first, then an arrival that is still expected, then a tag or a lock (log 90, DESIGN CHOICE). -/
def lineCheck (x : Tile) (g : Nat) (wr : Bool) (own : Option Nat) (line : Nat) : Option Nat :=
  if spadEnd x ≤ line * 64 then some 1
  else if expected x own line then some 2
  else if otherTag x g line || (wr && isLocked x line) then some 3
  else none

/-- The first line of a list whose access raises something, with the code. -/
def firstCheck (x : Tile) (g : Nat) (wr : Bool) (own : Option Nat) : List Nat → Option (Nat × Nat)
  | [] => none
  | l :: r =>
    match lineCheck x g wr own l with
    | some c => some (c, l)
    | none => firstCheck x g wr own r

/-- Reads `n` scratchpad bytes. -/
def spadRead (x : Tile) (a n : Nat) : List Byte := (List.range n).map (fun i => SMap.get 0 x.spad (a + i))

/-- Writes scratchpad bytes. -/
def spadWrite (x : Tile) (a : Nat) (l : List Byte) : Tile :=
  { x with spad := ((List.range l.length).zip l).foldl (fun m p => SMap.set 0 m (a + p.1) p.2) x.spad }

/-- Sets the tags of lines to a group (R106). -/
def tagLines (x : Tile) (g : Nat) (ls : List Nat) : Tile := { x with tags := SMap.setAll 0 x.tags ls (g + 1) }

/-- Clears the tags of lines, as an arrival does (R106). -/
def clearTags (x : Tile) (ls : List Nat) : Tile := { x with tags := SMap.setAll 0 x.tags ls 0 }

/-- Whether a page is in a frame (R104, R115). -/
def pageIn (x : Tile) (page : Nat) : Bool := x.frames.any (fun f => decide (f.page = page))

/-- Notes a use of a page for the least-recently-used order, and whether it was written (R115). -/
def touchPage (x : Tile) (wr : Bool) (page : Nat) : Tile :=
  { x with
    useClock := x.useClock + 1
    frames := x.frames.map (fun f =>
      if f.page = page then { f with lastUse := x.useClock, dirty := f.dirty || wr } else f) }

/-- The declared pages that lines lie in and that are in no frame: the access waits for them (R115). -/
def missingPages (x : Tile) (ls : List Nat) : List Nat :=
  ((ls.filter (fun l => decide (l * 64 < spadEnd x))).map (fun l => l / 1024)).filter (fun p => !pageIn x p)

/-- The next instruction of a group lacks something (R100). -/
def noteNeed (s : State) (t : TileRef) (g : Nat) (n : Need) : State :=
  putGroup s t g { getGroup (getTile s t) g with needs := n }

/-- Starts the page swaps that lines wait for (R115). -/
def wantPages (s : State) (t : TileRef) (ps : List Nat) : State :=
  let x := getTile s t
  setTile s t { x with pageSwaps := ps.foldl addTo x.pageSwaps }

/-- The next instruction of a group waits for pages (R100, R115). -/
def awaitPages (s : State) (t : TileRef) (g : Nat) (ps : List Nat) : State := noteNeed (wantPages s t ps) t g (.page (ps.headD 0))

/-- Notes a use of the pages of lines. -/
def touchLines (x : Tile) (wr : Bool) (ls : List Nat) : Tile := ((ls.map (fun l => l / 1024)).foldl addTo []).foldl (touchPage · wr) x

/-! ### Banks (R103, R105) -/

/-- The places of the order in which a bank serves accesses (R105): arrivals, departures, the engines, LD and ST, the spill engine. -/
def bankArrival : Nat := 1
/-- Departures. -/
def bankDeparture : Nat := 2
/-- The engines: operand tile loads and accumulator spills, and the other engine instructions with them (log 91, DEDUCED). -/
def bankEngine : Nat := 3
/-- LD and ST. -/
def bankLdSt : Nat := 4
/-- The spill engine. -/
def bankSpill : Nat := 5

/-- An access to each of some lines comes to the lines' banks. -/
def bookBanks (x : Tile) (place : Nat) (ls : List Nat) : Tile :=
  { x with banks := ls.foldl (fun m l => SMap.modify [] m (l % 16) (· ++ [place])) x.banks }

/-- What waits at a bank after it has served one access: the earliest of those that come first in its order. -/
def serveBank (l : List Nat) : List Nat :=
  match l with
  | [] => []
  | a :: r => l.erase (r.foldl min a)

/-- One cycle of the banks: each serves one access, and every other access waits one cycle. -/
def serveBanks (x : Tile) : Tile × Nat :=
  let left := (x.banks.map (fun p => (p.1, serveBank p.2))).filter (fun p => !p.2.isEmpty)
  ({ x with banks := left }, left.foldl (fun n p => n + p.2.length) 0)

/-- Accesses to distinct lines of a tile: their banks, their pages and their power (R105, R115, R359). -/
def useLines (s : State) (t : TileRef) (place : Nat) (wr : Bool) (ls : List Nat) : State :=
  let ls := ls.foldl addTo []
  charge (setTile s t (touchLines (bookBanks (getTile s t) place ls) wr ls)) t.d.val 7 ls.length

/-! ### Tile-state tags (R107) -/

/-- Whether a list holds a group other than g. -/
def others (l : List Nat) (g : Nat) : Bool := l.any (fun h => decide (h ≠ g))

/-- The uses R107 distinguishes. -/
inductive Use where
  | tWrite (r : Nat) | tRead (r : Nat) | xAccum (r : Nat) | xClear (r : Nat) | xRead (r : Nat)
deriving DecidableEq, Repr

/-- Whether the use violates R107. -/
def useConflict (x : Tile) (g : Nat) : Use → Bool
  | .tWrite r => let u := SMap.get {} x.tUse r; others u.wrote g || others u.read g
  | .tRead r => others (SMap.get {} x.tUse r).wrote g
  | .xAccum r => let u := SMap.get {} x.xUse r; others u.cleared g || others u.read g
  | .xClear r => let u := SMap.get {} x.xUse r; others u.cleared g || others u.accum g || others u.read g
  | .xRead r => let u := SMap.get {} x.xUse r; others u.cleared g || others u.accum g

/-- Records a use for the rest of the generation (R107). -/
def noteUse (x : Tile) (g : Nat) : Use → Tile
  | .tWrite r => let u := SMap.get {} x.tUse r
    { x with tUse := SMap.set {} x.tUse r { u with wrote := addTo u.wrote g } }
  | .tRead r => let u := SMap.get {} x.tUse r
    { x with tUse := SMap.set {} x.tUse r { u with read := addTo u.read g } }
  | .xAccum r => let u := SMap.get {} x.xUse r
    { x with xUse := SMap.set {} x.xUse r { u with accum := addTo u.accum g } }
  | .xClear r => let u := SMap.get {} x.xUse r
    { x with xUse := SMap.set {} x.xUse r { u with cleared := addTo u.cleared g } }
  | .xRead r => let u := SMap.get {} x.xUse r
    { x with xUse := SMap.set {} x.xUse r { u with read := addTo u.read g } }

/-- The number LINE gives the register of a use (R125). -/
def useLine : Use → Nat
  | .tWrite r => r
  | .tRead r => r
  | .xAccum r => 8 + r
  | .xClear r => 8 + r
  | .xRead r => 8 + r

/-! ### Generations (R106) -/

/-- Starts a new generation of a tile: every tag is cleared, and the generation count rises (R106, R297). -/
def newGeneration (x : Tile) : Tile := { x with tags := [], tUse := [], xUse := [], gen := x.gen + 1 }

end Sys2Proof.Machine
end

