-- ==== Sys2Proof/Machine/Memory.lean ====
section
/-! DEFINITION. Device memory (spec/10_memory.md): the address map, windows, spill pages, write tags, retain copies, the
mirror, uncorrectable errors, path failures and partition resets. -/

namespace Sys2Proof.Machine

/-! ### Address map (R288 to R291) -/

/-- The quadrant die that owns an HBM3E address. -/
def hbmQuad (a : Nat) : Option Nat := if a < 0x9000000000 then some (a / 0x2400000000) else none

/-- Whether an address lies in the LPDDR5X range. -/
def inT2 (a : Nat) : Bool := decide (0x10000000000 ≤ a) && decide (a < 0x20000000000)

/-- Whether an address lies in spill space. -/
def inSpill (a : Nat) : Bool := decide (0x20000000000 ≤ a) && decide (a < 0x40000000000)

/-- The usable LPDDR5X size U (R290). -/
def usableT2 (s : State) : Nat := s.mem.installed.toNat * 2 ^ 30 * 8 / 9 / 4096 * 4096

/-- GiB. -/
def gib : Nat := 2 ^ 30

/-- The first byte of the LPDDR5X window part, as an offset (R290). -/
def t2WindowFirst (s : State) : Nat :=
  let l := getReg s 0x00070010
  64 * 2 ^ 20 + gib + bits l 31 16 * gib + bits l 15 0 * gib

/-- The end of the LPDDR5X window part, as an offset (R290). -/
def t2WindowEnd (s : State) : Nat :=
  let u := usableT2 s
  u - ceilDiv (u / 128) 4096 * 4096

/-- The end of the window part of a quadrant range, as an offset (R289). -/
def hbmWindowEnd (s : State) : Nat :=
  let l := getReg s 0x0007000C
  0x23B8000000 - bits l 15 8 * gib - bits l 7 0 * gib

/-- The stack of an HBM3E address (R289). -/
def stackOf (a : Nat) : Nat := 3 * (a / 0x2400000000) + (a % 0x2400000000 / 4096) % 3

/-- A 64-bit window value. -/
def winVal (s : State) (n off : Nat) : Nat :=
  (getReg s (winAddr n (off + 4))).toNat * 2 ^ 32 + (getReg s (winAddr n off)).toNat
/-- A window's base. -/
def winBase (s : State) (n : Nat) : Nat := winVal s n 0
/-- A window's length. -/
def winLen (s : State) (n : Nat) : Nat := winVal s n 8
/-- A window's attributes. -/
def winAttr (s : State) (n : Nat) : Word := getReg s (winAddr n 0x10)
/-- VALID. -/
def winValid (s : State) (n : Nat) : Bool := bit (winAttr s n) 31
/-- BACKING. -/
def winBacking (s : State) (n : Nat) : Bool := bit (winAttr s n) 4

/-- Whether window n is valid and holds all of `k` bytes from `a`; a window of length 0 holds nothing (R291). -/
def winHolds (s : State) (n a k : Nat) : Bool :=
  winValid s n && decide (0 < winLen s n) && decide (winBase s n ≤ a) && decide (a + k ≤ winBase s n + winLen s n)

/-- Whether `n` bytes from `a` lie within one part of device memory in which windows may lie (R289 to R291). -/
def inWindowPart (s : State) (a n : Nat) : Bool :=
  match hbmQuad a with
  | some q => decide (a + n ≤ 0x2400000000 * q + hbmWindowEnd s)
  | none =>
    if inT2 a then decide (0x10000000000 + t2WindowFirst s ≤ a) && decide (a + n ≤ 0x10000000000 + t2WindowEnd s)
    else inSpill a && decide (a + n ≤ 0x40000000000)

/-- A window that holds all of `k` bytes from `a` and whose attribute bit `b` is 1; a backing window admits only the
spill engine (R291, R292). -/
def window (s : State) (a k b : Nat) : Option Nat :=
  (List.range 64).find? (fun n => winHolds s n a k && bit (winAttr s n) b && !winBacking s n)

/-! ### Bytes -/

/-- Whether a byte lies in a span left as zero (R311). -/
def inZeroed (m : DevMem) (a : Nat) : Bool := m.zeroed.any (fun p => decide (p.1 ≤ a) && decide (a < p.1 + p.2))

/-- A byte of device memory: the byte written last, or a free value where nothing was written in the epoch (R431). -/
def memByte (s : State) (a : Nat) : Byte :=
  match SMap.get none s.mem.bytes a with
  | some b => b
  | none => if inZeroed s.mem a then 0 else Config.undefinedByte s.epoch a

/-- `n` bytes of device memory. -/
def memRead (s : State) (a n : Nat) : List Byte := (List.range n).map (fun i => memByte s (a + i))

/-- Writes one byte, keeping the canonical form. -/
def putByte (m : DevMem) (a : Nat) (b : Byte) : DevMem :=
  { m with bytes := SMap.set none m.bytes a (if b = 0 ∧ inZeroed m a then none else some b) }

/-- Unlists the bytes that are 0 where an unlisted byte reads 0. -/
def settleZeros (m : DevMem) : DevMem :=
  { m with bytes := m.bytes.filter (fun p => !(decide (p.2 = some 0) && inZeroed m p.1)) }

/-- Writes bytes from `a`. -/
def memWrite (s : State) (a : Nat) (l : List Byte) : State :=
  { s with mem := ((List.range l.length).zip l).foldl (fun m p => putByte m (a + p.1) p.2) s.mem }

/-- The listed bytes of a 4 KiB block. -/
def blockOf (m : List (Nat × Option Byte)) (b : Nat) : List (Nat × Option Byte) := m.filter (fun p => p.1 / 4096 == b)

/-- Replaces the bytes of a 4 KiB block. -/
def putBlock (m : List (Nat × Option Byte)) (b : Nat) (l : List (Nat × Option Byte)) : List (Nat × Option Byte) :=
  l.foldl (fun m p => SMap.set none m p.1 p.2) (m.filter (fun p => p.1 / 4096 != b))

/-- The CRC-32C of a block (R302). -/
def blockCheck (s : State) (b : Nat) : Word := crc32c (memRead s (4096 * b) 4096)

/-- A block's tag (R297). -/
def getTag (s : State) (b : Nat) : WriteTag := SMap.get {} s.mem.tags b
/-- Replaces a block's tag. -/
def setTag (s : State) (b : Nat) (x : WriteTag) : State :=
  { s with mem := { s.mem with tags := SMap.set {} s.mem.tags b x } }

/-- Updates the check value of a block that holds one (R302). -/
def updateCheck (s : State) (b : Nat) : State :=
  match (getTag s b).check with
  | some _ => setTag s b { getTag s b with check := some (blockCheck s b) }
  | none => s

/-- Gives a block a check value at its first whole-block movement (R302). -/
def giveCheck (s : State) (b : Nat) : State :=
  match (getTag s b).check with
  | some _ => s
  | none => setTag s b { getTag s b with check := some (blockCheck s b) }

/-- The blocks that `n` bytes from `a` touch. -/
def blocksOf (a n : Nat) : List Nat :=
  (List.range ((a + n - 1) / 4096 + 1 - a / 4096)).map (fun i => a / 4096 + i)

/-- The blocks that `n` bytes from `a` cover whole. -/
def wholeBlocks (a n : Nat) : List Nat :=
  (List.range ((a + n) / 4096 - ceilDiv a 4096)).map (fun i => ceilDiv a 4096 + i)

/-! ### Spill pages (R295) -/

/-- The pages that an HBM spill pool holds. -/
def hbmPoolPages (s : State) : Nat := bits (getReg s 0x0007000C) 7 0 * 512
/-- The pages that the LPDDR5X spill pool holds. -/
def t2PoolPages (s : State) : Nat := bits (getReg s 0x00070010) 15 0 * 512

/-- The pages placed at a place. -/
def placed (s : State) (p : Placement) : Nat := (s.mem.spill.filter (fun x => x.2 == p)).length

/-- The place of a page, if it has one. -/
def placeOf (s : State) (page : Nat) : Option Placement := (s.mem.spill.find? (fun x => x.1 == page)).map (·.2)

/-- Where a first touch from quadrant die q places a page (R295). -/
def choosePlace (s : State) (q : Nat) : Option Placement :=
  let pools := q :: (List.range 4).filter (fun i => i != q)
  match pools.find? (fun i => decide (placed s (.hbm i) < hbmPoolPages s)) with
  | some i => some (.hbm i)
  | none => if placed s .t2 < t2PoolPages s then some .t2 else none

/-- The mirror's image of a spill page that is placed in HBM: what RDMA wrote to the page before its first touch goes into it with the page
(R306; log 79). -/
def imagePage (m : DevMem) (page : Nat) : List (Nat × Option Byte) :=
  (m.bytes.filter (fun p => p.1 / 2 ^ 21 == page)).foldl (fun l p => SMap.set none l p.1 p.2)
    (m.mirror.filter (fun p => p.1 / 2 ^ 21 != page))

/-- Places the spill page of an address on first touch from quadrant die q; none when every pool is full (R295, R306). -/
def touchSpill (s : State) (q a : Nat) : Option State :=
  if inSpill a then
    let page := a / 2 ^ 21
    match placeOf s page with
    | some _ => some s
    | none =>
      match choosePlace s q with
      | none => none
      | some p =>
        let s := { s with mem := { s.mem with
          spill := s.mem.spill ++ [(page, p)], mirror := if p = .t2 then s.mem.mirror else imagePage s.mem page } }
        some (bump s (if p = .t2 then 0x00070198 else 0x00070190) 1)
  else some s

/-- Whether an address is served from LPDDR5X. -/
def servedT2 (s : State) (a : Nat) : Bool := inT2 a || (inSpill a && decide (placeOf s (a / 2 ^ 21) = some .t2))

/-- The quadrant die whose stacks hold an address, if an HBM3E stack does. -/
def backingQuad (s : State) (a : Nat) : Option Nat :=
  if inSpill a then
    match placeOf s (a / 2 ^ 21) with
    | some (.hbm q) => some q
    | _ => none
  else hbmQuad a

/-! ### Spill pools (R289, R290, R295) -/

/-- The pages at a place, in the order of their placement. -/
def pagesAt (s : State) (p : Placement) : List Nat := (s.mem.spill.filter (fun x => x.2 == p)).map (·.1)

/-- The first address of the pool of a place. -/
def poolBase (s : State) : Placement → Nat
  | .hbm q => 0x2400000000 * q + hbmWindowEnd s
  | .t2 => 0x10000000000 + 64 * 2 ^ 20 + gib + bits (getReg s 0x00070010) 31 16 * gib

/-- The place whose pool holds a device address. -/
def poolOf (s : State) (a : Nat) : Option Placement :=
  let inPool := fun (p : Placement) (n : Nat) => decide (poolBase s p ≤ a) && decide (a < poolBase s p + 2 ^ 21 * n)
  match hbmQuad a with
  | some q => if inPool (.hbm q) (hbmPoolPages s) then some (.hbm q) else none
  | none => if inPool .t2 (t2PoolPages s) then some .t2 else none

/-- The address by which a line of device memory is known: in a spill pool that of the page that lies there. The pages of a pool lie in it
in the order of their placement (log 13, DESIGN CHOICE). -/
def knownAs (s : State) (a : Nat) : Nat :=
  match poolOf s a with
  | some p =>
    let o := a - poolBase s p
    match (pagesAt s p)[o / 2 ^ 21]? with
    | some page => 2 ^ 21 * page + o % 2 ^ 21
    | none => a
  | none => a

/-- Where a line lies in device memory: a line of a spill page that is placed, in its pool (log 13, DESIGN CHOICE). -/
def liesAt (s : State) (a : Nat) : Nat :=
  if inSpill a then
    match placeOf s (a / 2 ^ 21) with
    | some p => poolBase s p + 2 ^ 21 * (pagesAt s p).idxOf (a / 2 ^ 21) + a % 2 ^ 21
    | none => a
  else a

/-! ### Races (R297, R298) -/

/-- Whether a tile access conflicts with the block's tag (R298). -/
def tagConflict (s : State) (t : TileRef) (g b : Nat) : Bool :=
  let x := getTag s b
  let me := 8 * t.d.val + t.l.val
  x.written && decide (x.milestone = s.sch.milestone) && !(decide (x.tile = me) && decide (x.group = g)) &&
  (if x.tile = me then decide ((getTile s t).gen = x.tgen)
   else if x.tile / 8 = t.d.val then decide ((getDist s t.d.val).gen = x.dgen)
   else true)

/-- The power of `k` accesses of 64 bytes at an address: of the controller of a die, or of LPDDR5X (R359). -/
def chargeAccess (s : State) (a k : Nat) : State :=
  match backingQuad s a with
  | some q => chargeDie s q (k * weight s 12)
  | none => chargeHub s 13 k

/-- The accesses that a retain copy takes: the block is read and the copy written beside it, that of an HBM-backed block in LPDDR5X too
(R305, R359). -/
def chargeRetain (s : State) (b : Nat) : State :=
  let s := chargeAccess s (4096 * b) 128
  if (backingQuad s (4096 * b)).isSome then chargeHub s 13 64 else s

/-- Makes the retain copy of a block before the first tile write of the step (R305). -/
def retainBlock (s : State) (b : Nat) : State :=
  if (getTag s b).retainStep = some s.sch.stepFirst then s
  else
    let s := giveCheck (chargeRetain s b) b
    let c : Retain := { block := b, step := s.sch.stepFirst, bytes := blockOf s.mem.bytes b, check := (getTag s b).check,
                        inHbm := (backingQuad s (4096 * b)).isSome }
    let s := { s with mem := { s.mem with retained := s.mem.retained ++ [c] } }
    let s := setTag s b { getTag s b with retainStep := some s.sch.stepFirst }
    bump s 0x00070168 1

/-- A tile write to device memory that neither window nor tag stops (R297, R302, R305). -/
def tileStore (s : State) (t : TileRef) (g a : Nat) (l : List Byte) : State :=
  let bs := blocksOf a l.length
  let s := bs.foldl retainBlock s
  let s := memWrite s a l
  bs.foldl (fun s b =>
    let s := setTag s b { getTag s b with
      written := true, milestone := s.sch.milestone, tile := 8 * t.d.val + t.l.val, group := g,
      dgen := (getDist s t.d.val).gen, tgen := (getTile s t).gen }
    updateCheck s b) s

/-- What a tile access to `n` bytes at `a` meets (R292, R295, R298): the LINE of the violation it raises, with the code,
or the state with its spill page placed. -/
def tileAccess (s : State) (t : TileRef) (g a n : Nat) (wr : Bool) : (Nat × Nat) ⊕ State :=
  match window s a n (if wr then 1 else 0) with
  | none => .inl (1, 0x1FFFE)
  | some _ =>
    if (blocksOf a n).any (tagConflict s t g) then .inl (3, 0x1FFFD)
    else
      match touchSpill s (quadOf t.d.val) a with
      | none => .inl (1, 0x1FFFE)
      | some s => .inr (if servedT2 s a then bump s 0x000701A0 1 else s)

/-- The blocks of a read that no tile has read in this milestone (R302). -/
def firstReads (s : State) (a n : Nat) : List Nat := (blocksOf a n).filter (fun b => !s.mem.readThis.contains b)

/-- Path protection of the committed itinerary (R221): 1 check values, 2 parity; 0 when none is committed. -/
def pathMode (s : State) : Nat :=
  match committedSlot s with
  | some x => header x 5 1 / 2 % 4
  | none => 0

/-- A tile read of `n` bytes at `a` is under way (R302). -/
def noteRead (s : State) (a n : Nat) : State :=
  { s with mem := { s.mem with readThis := (blocksOf a n).foldl addTo s.mem.readThis } }

/-- The power of an instruction's accesses: one for each line that it touches, and 64 for each block that the controller reads whole for it
(R302, R359). -/
def chargeLines (s : State) (lines whole : List Nat) : State :=
  let s := (whole.foldl addTo []).foldl (fun s b => chargeAccess s (4096 * b) 64) s
  (((lines.foldl addTo []).filter (fun l => !whole.contains (l / 64)))).foldl (fun s l => chargeAccess s (64 * l) 1) s

/-- The lines that `n` bytes from `a` touch. -/
def lineCount (a n : Nat) : Nat := if n = 0 then 0 else (a + n - 1) / 64 + 1 - a / 64

/-- The address words a report of a device-memory violation carries (R292, R298). -/
def addrWords (a : Nat) : List Word := [BitVec.ofNat 32 a, BitVec.ofNat 32 (a / 2 ^ 32)]

/-! ### RDMA and the mirror (R292, R302, R306) -/

/-- Whether a block's image lies in the mirror: HBM-backed, in a window that is not a backing window (R306). -/
def mirrored (s : State) (b : Nat) : Bool :=
  (backingQuad s (4096 * b)).isSome &&
  (List.range 64).any (fun n => winHolds s n (4096 * b) 4096 && !winBacking s n)

/-- Copies a block into the mirror. -/
def toMirror (s : State) (b : Nat) : State :=
  { s with mem := { s.mem with mirror := putBlock s.mem.mirror b (blockOf s.mem.bytes b) } }

/-- The lines of a block that `n` bytes from `a` touch. -/
def linesInBlock (a n b : Nat) : Nat := ceilDiv (min (a + n) (4096 * b + 4096)) 64 - max a (4096 * b) / 64

/-- An RDMA write of the bytes, which ends the blocks `whole` of those that its message covers whole (R302, R306). -/
def hostStore (s : State) (a : Nat) (l : List Byte) (whole : List Nat) : State :=
  let bs := blocksOf a l.length
  let s := memWrite s a l
  let s := bs.foldl (fun s b => if mirrored s b then toMirror (chargeHub s 13 (linesInBlock a l.length b)) b else s) s
  let s := bs.foldl updateCheck s
  whole.foldl giveCheck s

/-! ### Partitions and errors (R301, R304, R310, R311) -/

/-- The quadrant dies of the partition of q (MEM_PARTITION). -/
def partitionOf (s : State) (q : Nat) : List Nat :=
  let p := getReg s 0x00070004
  (List.range 4).filter (fun i => bits p (2 * i + 1) (2 * i) == bits p (2 * q + 1) (2 * q))

/-- A tile after its partition was reset (R310): nothing of its working state is left, its groups have executed STOP. -/
def resetTile (x : Tile) : Tile :=
  { x with groups := x.groups.map (fun p => (p.1, { slot := p.2.slot, wait := .stop, resident := p.2.resident })),
           spad := [], tags := [], tUse := [], xUse := [], t := [], x := [], locks := [], queue := [],
           reqs := [], pageSwaps := [], moving := none, swap := none, loadQ := [], slate := [], banks := [],
           forced := x.prog.isSome }

/-- The key of a tile lies in a quadrant die of the list. -/
def keyIn (qs : List Nat) (k : Nat) : Bool := qs.contains (quadOf (k / 16))

/-- Whether a step attempt runs: from JOB_START to the end of the job (R311). -/
def inAttempt (s : State) : Bool := isCommitted s && s.sch.running

/-- Begins a partition reset (R310 steps 1 and 2, R311, R336); a further error in a partition that is in reset begins none. -/
def partitionReset (s : State) (q : Nat) : State :=
  let qs := partitionOf s q
  if qs.all (fun i => s.mem.preset.getLsbD i) then s
  else
  let s := { s with mem := { s.mem with
    preset := qs.foldl (fun (w : BitVec 4) i => w ||| ((1 : BitVec 4) <<< i)) s.mem.preset, restoring := true,
    stacksOk := qs.foldl (fun (w : BitVec 12) i => w &&& ~~~((7 : BitVec 12) <<< (3 * i))) s.mem.stacksOk } }
  let s := raiseCause s 4
  let s := setAbandon s 4
  let s := { s with
    tiles := s.tiles.map (fun p => if keyIn qs p.1 then (p.1, resetTile p.2) else p)
    dists := s.dists.map (fun p =>
      if qs.contains (quadOf p.1) ∧ bit p.2.spare 4 then (p.1, { p.2 with tested := some .incomplete }) else p)
    code := s.code.filter (fun p => !qs.contains (quadOf (p.1 / 32768)))
    mem := { s.mem with
      tags := s.mem.tags.filter (fun p =>
        match backingQuad s (4096 * p.1) with
        | some i => !qs.contains i
        | none => true)
      attemptResets := if inAttempt s then s.mem.attemptResets + 1 else s.mem.attemptResets } }
  if inAttempt s ∧ 3 ≤ s.mem.attemptResets then enterFault s 4 else s

/-- The stack number of an address as MEM_UE_INFO codes it: 0xF for LPDDR5X. The blocks of a spill page rotate over the stacks where they
lie in their pool (R289; log 13, DESIGN CHOICE). -/
def stackNum (s : State) (a : Nat) : Nat := if (backingQuad s a).isSome then stackOf (liesAt s a) else 0xF

/-- An uncorrectable error (R301): logged, reported, and a partition reset or FAULT. SOURCE as MEM_UE_INFO codes it. -/
def uncorrectable (s : State) (a source : Nat) (restore : Bool) : State :=
  let q := backingQuad s a
  let stack := stackNum s a
  let s := setReg s 0x00070018 (BitVec.ofNat 32 a)
  let s := setReg s 0x0007001C (BitVec.ofNat 32 (a / 2 ^ 32))
  let s := setReg s 0x00070020 (0x80000000 ||| at_ source 28 ||| at_ stack 24)
  let s := report s 0x0C [getReg s 0x00070018, getReg s 0x0007001C, getReg s 0x00070020]
  if restore then enterFault s 3
  else
    match q with
    | some i => partitionReset s i
    | none => enterFault s 3

/-- A check-value mismatch or a parity error (R304). -/
def pathFailure (s : State) (a : Nat) (parity : Bool) : State :=
  let s := bump s 0x00070188 1
  let s := report s 0x0D (addrWords a ++ [BitVec.ofNat 32 (flag parity)])
  setAbandon s 2

/-- A corrected error at an address (R299). -/
def corrected (s : State) (a : Nat) : State :=
  if stackNum s a < 12 then bump s (0x00070100 + 8 * stackNum s a) 1 else bump s 0x00070160 1

/-- Whether a line lies in the itinerary store or in the protection area, which hold what restores read (R290, R304, R310). -/
def inStore (s : State) (a : Nat) : Bool :=
  decide (0x10004000000 ≤ a) && decide (a < 0x10004000000 + gib + bits (getReg s 0x00070010) 31 16 * gib)

/-- Whether a line lies in the protection area (R290). -/
def inProtection (s : State) (a : Nat) : Bool := inStore s a && decide (0x10004000000 + gib ≤ a)

/-- Whether a line lies in the HBM reserve of its quadrant die (R289). -/
def inReserve (s : State) (a : Nat) : Bool :=
  decide (a < 0x9000000000) && decide (a % 0x2400000000 < 0x23B8000000) &&
  decide (0x23B8000000 - bits (getReg s 0x0007000C) 15 8 * gib ≤ a % 0x2400000000)

/-- Whether the block of a line holds a check value: by its tag, or where the device keeps what restores read (R302, R304). -/
def holdsCheck (s : State) (a : Nat) : Bool := (getTag s (a / 4096)).check.isSome || inStore s a || inReserve s a

/-- What an access to a line really meets: a check value can fail only where a block that holds one is verified (R302), parity only
between a tile's registers and the controller (SOURCE 0) and while a committed itinerary selects it (R303). -/
def admitted (s : State) (a source : Nat) (verify : Bool) (o : MemOutcome) : MemOutcome :=
  match o with
  | .checkFail => if verify && holdsCheck s a then .checkFail else .ok
  | .parityFail => if source = 0 ∧ pathMode s = 2 then .parityFail else .ok
  | o => o

/-- What an access's outcome does beside returning data (R299, R301, R304): nothing, a correction, an uncorrectable error or a path
failure, which in data read for a restore (SOURCE 3) acts as an uncorrectable error. -/
def memOutcome (s : State) (a source : Nat) (verify : Bool) (o : MemOutcome) : State :=
  match admitted s a source verify o with
  | .ok => s
  | .corrected => corrected s a
  | .uncorrectable => uncorrectable s a source (decide (source = 3))
  | .checkFail => if source = 3 then uncorrectable s a source true else pathFailure s a false
  | .parityFail => pathFailure s a true

/-- What the lines that `hit` admits meet, in order. -/
def meet (s : State) (source : Nat) (verify : Bool) (hit : Nat → Bool) (d : Damage) : State :=
  (d.filter (fun p => hit p.1)).foldl (fun s p => memOutcome s p.1 source verify p.2) s

/-- What lines meet, judged as things stand: before the command gives a check value to a block that has none (R302). -/
def judged (s : State) (source : Nat) (verify : Bool) (d : Damage) : Damage := d.map (fun p => (p.1, admitted s p.1 source verify p.2))

/-- Whether data is sound after an outcome. -/
def sound (o : MemOutcome) : Bool := o == .ok || o == .corrected

/-- What the line at an address meets: the first that is listed for it. -/
def outcomeAt (d : Damage) (a : Nat) : MemOutcome := (lookup d (a / 64 * 64)).getD .ok

/-- Whether a line lies in a span. -/
def lineIn (a n x : Nat) : Bool := decide (a / 64 * 64 ≤ x) && decide (x < a + n)

/-- An uncorrectable line met while the device reads for the loader, the journal export or the hash engine; R312 gives no SOURCE for it
(log 37). -/
def copyError (s : State) (a : Nat) : State := takeFresh (uncorrectable s a (Config.loaderSource s.fresh).toNat false)

/-- What such a read of the lines that `hit` admits meets (R299, R301): corrected lines are counted up to the first that cannot be
corrected, at which it stops. -/
def copyMeets (s : State) (hit : Nat → Bool) (d : Damage) : State × Bool :=
  let l := d.filter (fun p => hit p.1)
  let s := (l.takeWhile (fun p => p.2 != .uncorrectable)).foldl (fun s p => if p.2 = .corrected then corrected s p.1 else s) s
  match l.find? (fun p => p.2 == .uncorrectable) with
  | some p => (copyError s p.1, false)
  | none => (s, true)

/-- The blocks of the windows and spill pages that a mirror image covers, in the partition of some quadrant dies (R306, R310). -/
def mirroredBlocks (s : State) (qs : List Nat) : List Nat :=
  ((List.range 64).filter (fun n =>
    winValid s n && !winBacking s n &&
    (match hbmQuad (winBase s n) with
     | some i => qs.contains i
     | none => false))).flatMap (fun n => blocksOf (winBase s n) (winLen s n)) ++
  (s.mem.spill.filter (fun p =>
    match p.2 with
    | .hbm i => qs.contains i
    | .t2 => false)).flatMap (fun p => blocksOf (2 ^ 21 * p.1) (2 ^ 21))

/-- A block is written from LPDDR5X: 64 accesses to read it and 64 to write it (R359). -/
def chargeRestore (s : State) (b : Nat) : State := chargeHub (chargeAccess s (4096 * b) 64) 13 64

/-- Restores the blocks of a partition that the mirror holds an image of, and then, newest step first, those of the reserve mirror (R306,
R310); a block that is restored has a check value from then on (R302). -/
def restorePartition (s : State) (qs : List Nat) : State :=
  let inPart := fun (b : Nat) => match backingQuad s (4096 * b) with
    | some i => qs.contains i
    | none => false
  let kept := s.mem.bytes.filter (fun p => !inPart (p.1 / 4096))
  let image := s.mem.mirror.filter (fun p => inPart (p.1 / 4096) && (inSpill p.1 || mirrored s (p.1 / 4096)))
  let base := image.foldl (fun m p => SMap.set none m p.1 p.2) kept
  let copies := s.mem.retained.filter (fun c => inPart c.block)
  let bytes := copies.reverse.foldl (fun m c => putBlock m c.block c.bytes) base
  let unmirrored := (List.range 64).filter (fun n =>
    winValid s n && winBacking s n &&
    (match hbmQuad (winBase s n) with
     | some i => qs.contains i
     | none => false))
  let zeroed := if isCommitted s then s.mem.zeroed
    else s.mem.zeroed ++ unmirrored.map (fun n => (winBase s n, winLen s n))
  let t := { s with mem := settleZeros { s.mem with
      bytes := bytes, retained := s.mem.retained.filter (fun c => !inPart c.block), zeroed := zeroed } }
  let t := copies.reverse.foldl (fun t c => setTag (chargeRestore t c.block) c.block { getTag t c.block with check := c.check }) t
  (mirroredBlocks s qs).foldl (fun t b => giveCheck (chargeRestore t b) b) t

/-- Restores every block that holds a retain copy from the copy of the oldest uncommitted step, and frees the copies
(R307). -/
def restoreRetained (s : State) : State :=
  let bs := (s.mem.retained.map (·.block)).foldl addTo []
  let n := bs.length
  let bytes := s.mem.retained.reverse.foldl (fun m c => putBlock m c.block c.bytes) s.mem.bytes
  let tags := s.mem.retained.reverse.foldl (fun m c =>
    SMap.set {} m c.block { ({} : WriteTag) with check := c.check }) s.mem.tags
  let t := bs.foldl (fun s b => chargeAccess s (4096 * b) 128) s
  bump { t with mem := settleZeros { s.mem with bytes := bytes, tags := tags, retained := [] } } 0x00070178 n

end Sys2Proof.Machine
end

