-- ==== Sys2Proof/Machine/Digest.lean ====
section
/-! DEFINITION. Replica digests on arrival: the comparison of peer digests with the local one (R323). -/

namespace Sys2Proof.Machine

/-- The peer digests that have landed in a tile in the running milestone: the first 32 bytes of each entry, by tag. -/
def landedPeers (x : Tile) : List (Nat × BitVec 256) :=
  (x.arrivals.filter (fun e => e.mark == .peerDigest && e.landed)).map (fun e =>
    (e.tag, BitVec.ofNat 256 (ofLe (spadRead x (64 * e.line) 32))))

/-- Compares the peer digest numbered k with the local digest (R323). -/
def comparePeer (s : State) (k : Nat) (p : Nat × BitVec 256) : State :=
  if s.dig.delivered && !s.dig.peersSeen.contains p.1 then
    let s := { s with dig := { s.dig with peersSeen := s.dig.peersSeen ++ [p.1] } }
    if s.dig.held = some p.2 then s
    else
      let s := bump s 0x00060140 1
      let s := setReg s 0x0006002C (getReg s 0x0006002C ||| 0x80000000 ||| at_ 1 (k % 8))
      let s := setAbandon s 3
      report s 0x07 ([getReg s 0x0006002C, BitVec.ofNat 32 s.dig.step, BitVec.ofNat 32 (s.dig.step / 2 ^ 32)] ++
        (List.range 8).map (fun w => getReg s (0x00060030 + 4 * w)))
  else s

/-- Compares every peer digest that can be compared: those that landed in this milestone, and those of the step's earlier ones. -/
def comparePeers (s : State) (t : TileRef) : State :=
  let tags := peerTags s t
  (s.dig.peers ++ landedPeers (getTile s t)).foldl (fun s p => comparePeer s (tags.idxOf p.1) p) s

/-- The peer digests of the milestone that ends are kept, as their entries held them, until the local entry lands (R323). -/
def keepPeers (s : State) : State :=
  { s with dig := { s.dig with peers := s.dig.peers ++ chipTiles.flatMap (fun t => landedPeers (getTile s t)) } }

/-- Delivers the digest into the local digest entry of a tile (R323): 32 bytes into the first line, zero in the rest, and
the entry LANDED; each is a scratchpad line written (R359). -/
def deliverTo (s : State) (t : TileRef) (dg : BitVec 256) : State :=
  let x := getTile s t
  match x.arrivals.find? (fun e => e.mark == .localDigest && !e.landed) with
  | none => s
  | some e =>
    let bytes := leBytes 32 dg.toNat ++ List.replicate (64 * e.count - 32) 0
    let x := clearTags (spadWrite x (64 * e.line) bytes) ((List.range e.count).map (fun i => e.line + i))
    let x := { x with
      arrivals := x.arrivals.map (fun a => if a = e then { a with landed := true } else a)
      groups := x.groups.map (fun p => if p.2.wait = .recv e.tag then (p.1, { p.2 with wait := .none }) else p) }
    let s := charge (setTile s t x) t.d.val 7 e.count
    if t.shadow then s
    else comparePeers { s with dig := { s.dig with delivered := true } } t

/-- Delivers the held digest wherever a local digest entry is EXPECTED (R323). -/
def deliverDigest (s : State) : State :=
  match s.dig.held with
  | none => s
  | some dg =>
    if s.dig.busy then s
    else
      chipTiles.foldl (fun s t =>
        if (getTile s t).arrivals.any (fun e => e.mark == .localDigest && !e.landed) then
          let s := deliverTo s t dg
          if (sampleOf (getDist s t.d.val) t.l.val).isSome then deliverTo s { t with shadow := true } dg else s
        else s) s

end Sys2Proof.Machine
end

