-- ==== Sys2Proof/Machine/Wire.lean ====
section
/-! DEFINITION. Accumulators and operand tiles as bytes: format codes (R163), operand elements (R173), the accumulator
image (R171) and the EXS wire form (R87, R88). -/

namespace Sys2Proof.Machine

/-! ### Formats and elements -/

/-- The element format of a format code (R163). -/
def fmtOf (c : Nat) : Fmt :=
  if c = 0 ∨ c = 8 then .fp4
  else if c = 1 ∨ c = 9 then .e2m3
  else if c = 2 ∨ c = 10 then .e3m2
  else if c = 3 ∨ c = 11 then .e4m3
  else if c = 4 ∨ c = 12 then .e5m2
  else if c = 5 then .int8
  else if c = 6 then .bf16
  else if c = 7 then .fp16
  else if c = 13 then .fp32
  else .int32

/-- Whether a format code is an MX code (R163). -/
def isMx (c : Nat) : Bool := decide (8 ≤ c) && decide (c ≤ 12)

/-- Scale byte b of row r of an operand tile. -/
def scaleOf (t : OpTile) (r b : Nat) : Nat := (SMap.get 0 t.scales (2 * r + b)).toNat

/-- elem(t, f, r, k) of R173. -/
def elem (t : OpTile) (c r k : Nat) : Cls × Dyadic :=
  let b := (SMap.get 0 t.slots (64 * r + k)).toNat
  if isMx c then decodeMx (fmtOf c) b (scaleOf t r (k / 32)) else decode (fmtOf c) b

/-- The bytes of an operand image (R169): 64 rows of 8w bytes, and 128 scale bytes for an MX code. -/
def tileBytes (c : Nat) : Nat := 64 * (8 * fmtWidth (fmtOf c)) + (if isMx c then 128 else 0)

/-- A sparse table of the values `f k`, k below n, in canonical form. -/
def tabulate {α : Type} [DecidableEq α] (d : α) (n : Nat) (f : Nat → α) : List (Nat × α) :=
  (List.range n).filterMap (fun k => if f k = d then none else some (k, f k))

/-- The operand tile that TLD reads from an image (R169). -/
def tileOf (c : Nat) (l : List Byte) : OpTile :=
  let w := fmtWidth (fmtOf c)
  let rb := 8 * w
  { slots := tabulate 0 4096 (fun i => BitVec.ofNat 16 (num l (i / 64 * rb) rb / 2 ^ (w * (i % 64)) % 2 ^ w))
    scales := if isMx c then tabulate 0 128 (fun i => (l[64 * rb + i]?).getD 0) else [] }

/-! ### Accumulators -/

/-- Element (i, j) of an accumulator. -/
def accElem (a : Acc) (i j : Nat) : Exs := SMap.get {} a.elems (64 * i + j)

/-- The accumulator widened to EXS-576, when it is not yet (R80, R173). -/
def widen (a : Acc) : Acc :=
  if a.wide then a else { a with wide := true, elems := a.elems.map (fun p => (p.1, exsWiden p.2)) }

/-- A sum modulo P61. -/
def sumP (l : List Nat) : Nat := l.foldl (fun a b => (a + b) % p61) 0

/-- The residue of an element; a non-finite element contributes 0 (R187). -/
def exsRes (wide : Bool) (x : Exs) : Nat := if x.cls = .finite then res61 (exsValue wide x) else 0

/-- The residue of an operand element; a non-finite element contributes 0 (R187). -/
def elemRes (v : Cls × Dyadic) : Nat := if v.1 = .finite then res61 v.2 else 0

/-- The code of a class (R87). -/
def clsCode : Cls → Nat
  | .finite => 0 | .pinf => 1 | .ninf => 2 | .nan => 3

/-- The class of a code (R87). -/
def clsOf (c : Nat) : Cls := if c = 0 then .finite else if c = 1 then .pinf else if c = 2 then .ninf else .nan

/-- The bytes of an element of an image (R171). -/
def imageElem (wide : Bool) (x : Exs) : List Byte :=
  let n := if wide then 72 else 12
  leBytes n x.x ++ [BitVec.ofNat 8 (clsCode x.cls)] ++ List.replicate (if wide then 7 else 3) 0

/-- The bytes of an element, ES (R171). -/
def elemSize (wide : Bool) : Nat := if wide then 80 else 16

/-- The bytes of an image (R171). -/
def imageSize (wide : Bool) : Nat := 64 + 4096 * elemSize wide

/-- The accumulator image that XST writes (R171). -/
def imageBytes (a : Acc) : List Byte :=
  leBytes 4 a.terms ++ [BitVec.ofNat 8 (flag a.wide)] ++ List.replicate 59 0 ++
  (List.range 4096).flatMap (fun k => imageElem a.wide (SMap.get {} a.elems k))

/-- Sets the check register to what the elements give: their row and column residues and non-finite flags (R171). -/
def withChecks (a : Acc) : Acc :=
  let bad := fun i j => (accElem a i j).cls != .finite
  { a with
    e := tabulate 0 64 (fun i => sumP ((List.range 64).map (fun j => exsRes a.wide (accElem a i j))))
    f := tabulate 0 64 (fun j => sumP ((List.range 64).map (fun i => exsRes a.wide (accElem a i j))))
    rnf := ((List.range 64).filter (fun i => (List.range 64).any (bad i))).foldl
      (fun (w : DWord) i => w ||| ((1 : DWord) <<< i)) 0
    cnf := ((List.range 64).filter (fun j => (List.range 64).any (fun i => bad i j))).foldl
      (fun (w : DWord) j => w ||| ((1 : DWord) <<< j)) 0 }

/-- The accumulator that an image gives (R171). -/
def imageAcc (wide : Bool) (l : List Byte) : Acc :=
  let es := elemSize wide
  let n := if wide then 72 else 12
  withChecks {
    wide := wide
    terms := num l 0 4
    elems := tabulate {} 4096 (fun k =>
      let c := clsOf (num l (64 + k * es + n) 1 % 4)
      { cls := c, x := if c = .finite then num l (64 + k * es) n else 0 }) }

/-! ### The wire form (R87, R88) -/

/-- Words of a magnitude: 2 for EXS-96, 9 for EXS-576. -/
def wireWords (wide : Bool) : Nat := if wide then 9 else 2

/-- The magnitude |signed(X)|. -/
def exsMag (wide : Bool) (x : Exs) : Nat := (signedNat (exsW wide) x.x).natAbs

/-- Word k of a magnitude. -/
def magWord (m k : Nat) : Nat := m / 2 ^ (64 * k) % 2 ^ 64

/-- The words of a magnitude that are sent. -/
def sentWords (wide : Bool) (x : Exs) : List Nat :=
  if x.cls = .finite then (List.range (wireWords wide)).filter (fun k => magWord (exsMag wide x) k != 0) else []

/-- The canonical descriptor of an element (R88). -/
def descriptor (wide : Bool) (x : Exs) : Nat :=
  clsCode x.cls * 2 ^ 14 +
  (if x.cls = .finite ∧ signedNat (exsW wide) x.x < 0 then 2 ^ 13 else 0) +
  ((sentWords wide x).map (fun k => 2 ^ k)).foldl (· + ·) 0

/-- One group of up to four elements. -/
def wireGroup (wide : Bool) (xs : List Exs) : List Byte :=
  (List.range 4).flatMap (fun k => leBytes 2 (match xs[k]? with | some x => descriptor wide x | none => 0)) ++
  xs.flatMap (fun x => (sentWords wide x).flatMap (fun k => leBytes 8 (magWord (exsMag wide x) k)))

/-- The groups of a list of elements; `n` bounds their number. -/
def wireGroups (wide : Bool) : Nat → List Exs → List Byte
  | 0, _ => []
  | n + 1, xs => if xs.isEmpty then [] else wireGroup wide (xs.take 4) ++ wireGroups wide n (xs.drop 4)

/-- A wire block (R87). -/
def wireBlock (wide : Bool) (terms : Nat) (xs : List Exs) : List Byte :=
  leBytes 4 terms ++ leBytes 2 xs.length ++ [BitVec.ofNat 8 (flag wide), 1] ++ wireGroups wide xs.length xs

/-- What reading a block gives: the block, a breach of R88, or more bytes than there are. -/
inductive WireRead where
  | block (terms : Nat) (wide : Bool) (xs : List Exs) (used : Nat)
  | bad (used : Nat)
  | short
deriving DecidableEq, Repr

/-- Whether a descriptor keeps R88. -/
def descOk (wide : Bool) (d : Nat) : Bool :=
  let cls := d / 2 ^ 14
  let sign := d / 2 ^ 13 % 2
  let mask := d % 2 ^ 9
  decide (d / 2 ^ 9 % 2 ^ 4 = 0) && (wide || decide (mask < 4)) && !(decide (sign = 1) && decide (mask = 0)) &&
  (decide (cls = 0) || (decide (mask = 0) && decide (sign = 0)))

/-- The sent word indexes of a descriptor. -/
def maskWords (d : Nat) : List Nat := (List.range 9).filter (fun k => decide (d / 2 ^ k % 2 = 1))

/-- Rebuilds an element from its descriptor and its words; none where R88 refuses it. -/
def rebuild (wide : Bool) (d : Nat) (ws : List Nat) : Option Exs :=
  let cls := clsOf (d / 2 ^ 14)
  let m : Nat := ((maskWords d).zip ws).foldl (fun (a : Nat) p => a + p.2 * 2 ^ (64 * p.1)) 0
  let neg := decide (d / 2 ^ 13 % 2 = 1)
  let h : Nat := 2 ^ (exsW wide - 1)
  if ws.any (fun w => w == 0) then none
  else if cls ≠ .finite then some { cls := cls, x := 0 }
  else if (neg && decide (h < m)) || (!neg && decide (h ≤ m)) then none
  else some { cls := .finite, x := modW wide (if neg then -(m : Int) else m) }

/-- The elements of one group from its four descriptors. -/
def readElems (wide : Bool) (l : List Byte) : Nat → List Nat → Option (List Exs)
  | _, [] => some []
  | pos, d :: r =>
    let ks := maskWords d
    let ws := (List.range ks.length).map (fun i => num l (pos + 8 * i) 8)
    match rebuild wide d ws, readElems wide l (pos + 8 * ks.length) r with
    | some x, some xs => some (x :: xs)
    | _, _ => none

/-- Reads groups from position `pos`, `count` elements left; `n` bounds the number of groups. Of a block that breaks R88 and is too long as
well, the one that comes first in the order of the block is met (R88, R185; log 131, DESIGN CHOICE). -/
def readGroups (wide : Bool) (l : List Byte) : Nat → Nat → Nat → List Exs → Nat → WireRead
  | 0, pos, _, acc, terms => .block terms wide acc pos
  | n + 1, pos, count, acc, terms =>
    if count = 0 then .block terms wide acc pos
    else if l.length < pos + 8 then .short
    else
      let ds := (List.range 4).map (fun k => num l (pos + 2 * k) 2)
      let mine := ds.take count
      let words := (mine.map (fun d => (maskWords d).length)).foldl (· + ·) 0
      if !(mine.all (descOk wide)) || (ds.drop count).any (fun d => d != 0) then .bad (pos + 8)
      else if l.length < pos + 8 + 8 * words then .short
      else
        match readElems wide l (pos + 8) mine with
        | none => .bad (pos + 8 + 8 * words)
        | some xs => readGroups wide l n (pos + 8 + 8 * words) (count - 4) (acc ++ xs) terms

/-- Reads a wire block that must hold `want` elements from the bytes an instruction may read (R88, R185). -/
def readBlock (want : Nat) (l : List Byte) : WireRead :=
  if l.length < 8 then .short
  else
    let count := num l 4 2
    let kind := num l 6 1
    if num l 7 1 ≠ 1 ∨ count = 0 ∨ 4096 < count ∨ 1 < kind ∨ count ≠ want then .bad 8
    else readGroups (kind == 1) l (count + 1) 8 count [] (num l 0 4)

end Sys2Proof.Machine
end

