-- ==== Sys2Proof/Machine/Spans.lean ====
section
/-! DEFINITION. The scratchpad lines that send entries and engine instructions touch, and the interlock of LD, ST and SEND.SLOT with the
engines (R155, R165, R166, R185). -/

namespace Sys2Proof.Machine

/-! ### Send entries (R155, R156) -/

/-- A send table entry of the current milestone. -/
def sendEntry (x : Tile) (sid : Nat) : Option SendEntry := x.sends.find? (fun e => decide (e.sid = sid))

/-- Replaces the state of a send table entry. -/
def setSend (x : Tile) (sid : Nat) (st : SendState) : Tile :=
  { x with sends := x.sends.map (fun e => if e.sid = sid then { e with state := st } else e) }

/-- `count` lines from `first`. -/
def lineSpan (first count : Nat) : List Nat := (List.range count).map (fun i => first + i)

/-! ### Spans -/

/-- A span of lines: the first and how many. -/
abbrev Lines := Nat × Nat

/-- The lines that `n` bytes from a line-aligned address cover. -/
def linesAt (ea n : Nat) : Lines := (ea / 64, ceilDiv n 64)

/-- The lines of a span. -/
def spanLines : Option Lines → List Nat
  | some p => lineSpan p.1 p.2
  | none => []

/-- Whether a line lies in a span. -/
def inLines (line : Nat) : Option Lines → Bool
  | some p => decide (p.1 ≤ line) && decide (line < p.1 + p.2)
  | none => false

/-- Whether two spans share a line. -/
def overlap : Option Lines → Option Lines → Bool
  | some a, some b => decide (a.1 < b.1 + b.2) && decide (b.1 < a.1 + a.2)
  | _, _ => false

/-- The arrival entry that ADD or FCOMB waits for (R185). -/
def entryOf (x : Tile) (tag : Nat) : Option Arrival := x.arrivals.find? (fun e => decide (e.tag = tag))

/-- The lines from LINE to the end of the entry with the tag, or to the end of the declared pages (R185). -/
def addLimit (x : Tile) (tag line : Nat) : Nat :=
  match entryOf x tag with
  | some e => e.line + e.count - line
  | none => spadEnd x / 64 - line

/-- The most lines a block of `n` elements needs (R183). -/
def blockLines (wide : Bool) (n : Nat) : Nat := ceilDiv (8 + ceilDiv n 4 * (8 + 32 * wireWords wide)) 64

/-- The block that ADD may read: the bytes from LINE to its limit (R185). -/
def addBlock (x : Tile) (f : XredFields) : WireRead :=
  let want := 64 * (f.rn.toNat + 1)
  let n := min (addLimit x f.idx.toNat f.line.toNat) (blockLines true want)
  readBlock want (spadRead x (64 * f.line.toNat) (64 * n))

/-- How many lines ADD reads of its block. -/
def addCount (x : Tile) (f : XredFields) : Nat :=
  match addBlock x f with
  | .block _ _ _ used => ceilDiv used 64
  | .bad used => ceilDiv used 64
  | .short => addLimit x f.idx.toNat f.line.toNat

/-- Whether the arrival an instruction waits for is there: LANDED, or no entry (R185). -/
def landedFor (x : Tile) : EngOp → Bool
  | .add f => (entryOf x f.idx.toNat).all (fun e => e.landed)
  | .fcomb f _ => (entryOf x f.tag.toNat).all (fun e => e.landed)
  | _ => true

/-- The span of lines that an instruction reads; `wide` is whether the image of an XLD is EXS-576 (R166). An ADD whose arrival has not
landed may read all that its limit allows. -/
def readSpan (x : Tile) (wide : Bool) : EngOp → Option Lines
  | .tld f ea => some (linesAt ea (tileBytes f.fmt.toNat))
  | .xld _ ea => some (linesAt ea (imageSize wide))
  | .add f =>
    some (f.line.toNat, if landedFor x (.add f) then addCount x f
      else min (addLimit x f.idx.toNat f.line.toNat) (blockLines true (64 * (f.rn.toNat + 1))))
  | .fcomb f _ => some (f.line.toNat, 4)
  | _ => none

/-- The span of lines that an instruction writes; `wide` is whether the image of an XST is EXS-576 (R166). -/
def writeSpan (x : Tile) (wide : Bool) : EngOp → Option Lines
  | .xst _ ea => some (linesAt ea (imageSize wide))
  | .rnd f ea _ _ => some (linesAt ea (tileBytes f.fmt.toNat))
  | .pack f => some (f.line.toNat, match sendEntry x f.idx.toNat with | some e => e.lines | none => 0)
  | _ => none

/-! ### Wide images (R166) -/

/-- An accumulator. -/
def getAcc (x : Tile) (r : Nat) : Acc := SMap.get {} x.x r

/-- Whether the image of an XLD or XST is EXS-576 as things stand (R166, R171). -/
def imageWide (x : Tile) : EngOp → Bool
  | .xst r _ => (getAcc x r).wide
  | .xld _ ea => (SMap.get 0 x.spad (ea / 64 * 64 + 4)).getLsbD 0
  | _ => false

/-- Whether `a`, still to end, may make the image of the later-issued `b` an EXS-576 one. -/
def mayWiden (x : Tile) (a : EngOp) : EngOp → Bool
  | .xst r _ =>
    match a with
    | .mma f kind => kind && decide (f.x.toNat = r)
    | .xclr q kind => kind && decide (q = r)
    | .xld q _ => decide (q = r)
    | .add f => decide (f.x.toNat = r)
    | _ => false
  | .xld _ ea => overlap (writeSpan x true a) (some (ea / 64, 1))
  | _ => false

/-- The instructions issued before the one numbered `id` that have not ended. -/
def earlier (x : Tile) (id : Nat) : List QueuedOp := x.queue.filter (fun q => decide (q.id < id))

/-- Whether the span of a queued instruction is that of an EXS-576 image: it is one, or what is still to end before it may make it one
(log 93, DEDUCED). -/
def mostWide (x : Tile) (q : QueuedOp) : Bool :=
  imageWide x q.op || (!q.started && (earlier x q.id).any (fun a => mayWiden x a.op q.op))

/-- What a queued instruction reads. -/
def reads (x : Tile) (q : QueuedOp) : Option Lines := readSpan x (mostWide x q) q.op
/-- What a queued instruction writes. -/
def writes (x : Tile) (q : QueuedOp) : Option Lines := writeSpan x (mostWide x q) q.op

/-- Whether a queued engine instruction is still to finish with a line that an LD, ST or SEND.SLOT touches (R165). -/
def engineHolds (x : Tile) (wr : Bool) (line : Nat) : Bool :=
  x.queue.any (fun q => inLines line (writes x q) || (wr && inLines line (reads x q)))

/-! ### Signatures (R319) -/

/-- Folds what a group's outputs hold up to the first block that is still to come. -/
def foldReady : List Output → DWord → DWord × List Output
  | .bytes l :: r, v => foldReady r (crc64From v l)
  | l, v => (v, l)

/-- A group with one more output, in program order. -/
def addOutput (y : Group) (o : Output) : Group :=
  let z := foldReady (y.outputs ++ [o]) y.sig
  { y with sig := z.1, outputs := z.2 }

/-- A group whose PACK numbered `op` has ended: its block, or no bytes when none is sent, takes its place. -/
def fillOutput (y : Group) (op : Nat) (l : List Byte) : Group :=
  let z := foldReady (y.outputs.map (fun o => if o = .block op then .bytes l else o)) y.sig
  { y with sig := z.1, outputs := z.2 }

end Sys2Proof.Machine
end

