-- ==== Sys2Proof/Machine/Tolls.lean ====
section
/-! DEFINITION. Tollgates that complete inside a milestone: GROUP, TILE and DISTRICT scope (R151 to R153), in a tile, its
district and its shadow (R318). -/

namespace Sys2Proof.Machine

/-- Whether a group holds a request entry. -/
def holdsReq (x : Tile) (g : Nat) : Bool := x.reqs.any (fun r => decide (r.group = g))

/-- Whether a group counts towards a tollgate of the scope: it waits in a TOLL of this scope or wider, or has executed
MS.END or STOP (R152). -/
def atScope (scope : Nat) (y : Group) : Bool :=
  match y.wait with
  | .toll c => decide (scope ≤ c)
  | .msEnd => true
  | .stop => true
  | _ => false

/-- Whether every group of a tile counts, and none holds a request entry. -/
def tileAt (scope : Nat) (x : Tile) : Bool :=
  x.groups.all (fun p => atScope scope p.2) && x.reqs.isEmpty

/-- Whether some group of a tile waits in a TOLL of exactly the scope. -/
def someAt (scope : Nat) (x : Tile) : Bool := x.groups.any (fun p => decide (p.2.wait = .toll scope))

/-- Lets every group that waits in a TOLL of exactly the scope continue (R152). -/
def releaseScope (scope : Nat) (x : Tile) : Tile :=
  { x with groups := x.groups.map (fun p =>
      if p.2.wait = .toll scope then (p.1, { p.2 with wait := .none, tolls := p.2.tolls + 1 }) else p) }

/-- GROUP scope: a group that holds no request entry continues (R152). -/
def settleGroups (x : Tile) : Tile :=
  { x with groups := x.groups.map (fun p =>
      if p.2.wait = .toll 0 ∧ holdsReq x p.1 = false then
        (p.1, { p.2 with wait := .none, tolls := p.2.tolls + 1 }) else p) }

/-- TILE scope of one tile (R152, R153). -/
def settleTile (x : Tile) : Tile :=
  if someAt 1 x && tileAt 1 x then newGeneration (releaseScope 1 x) else x

/-- A shadow's tollgates: each completes once the primary's matching one has and every shadow group has reached it
(R318). -/
def settleShadow (p x : Tile) : Tile :=
  let ok := fun (scope : Nat) =>
    someAt scope x && x.groups.all (fun q => atScope scope q.2) &&
    x.groups.all (fun q => decide (q.2.wait ≠ .toll scope) || decide (q.2.tolls < (getGroup p q.1).tolls))
  let x := if ok 0 then releaseScope 0 x else x
  let x := if ok 1 then newGeneration (releaseScope 1 x) else x
  if ok 2 then newGeneration (releaseScope 2 x) else x

/-- The tiles of a district that run a program. -/
def liveTiles (s : State) (d : Fin 144) : List TileRef := (districtTiles d).filter (fun t => (getTile s t).prog.isSome)

/-- Completes every GROUP, TILE and DISTRICT tollgate of a district that can complete (R152). -/
def settleTolls (s : State) (d : Fin 144) : State :=
  let ts := liveTiles s d
  let s := ts.foldl (fun s t => setTile s t (settleTile (settleGroups (getTile s t)))) s
  let s :=
    if ts.any (fun t => someAt 2 (getTile s t)) && ts.all (fun t => tileAt 2 (getTile s t)) then
      let s := ts.foldl (fun s t => setTile s t (newGeneration (releaseScope 2 (getTile s t)))) s
      let x := getDist s d.val
      setDist s d.val { x with gen := x.gen + 1 }
    else s
  ts.foldl (fun s t =>
    let sh := { t with shadow := true }
    if (getTile s sh).prog.isSome then setTile s sh (settleShadow (getTile s t) (getTile s sh)) else s) s

end Sys2Proof.Machine
end

