-- ==== Sys2Proof/WellFormed.lean ====
section
/-! DEFINITION. Which commands are well formed: the field values that the load-time decoding of R127 admits for a tile
instruction, and the lengths that the spec fixes for what an event carries. -/

namespace Sys2Proof.WellFormed

/-- IMM[31:6] is zero unless the second operand is the immediate (R129). -/
def immOk (i : Bool) (imm : BitVec 32) : Bool := i || decide (imm.toNat < 64)

/-- SALU (R137). -/
def salu (f : SFields) : Bool :=
  let fn := f.fn.toNat
  immOk f.i f.imm &&
  (if fn = 0x18 then f.i && f.a == 0
   else if fn = 0x1C ∨ fn = 0x1D ∨ fn = 0x1E then !f.i && f.a == 0 && f.imm == 0
   else [0x00, 0x01, 0x02, 0x03, 0x04, 0x08, 0x09, 0x0A, 0x0C, 0x0D, 0x0E, 0x10, 0x11, 0x12, 0x13].contains fn)

/-- A predicate that may be written, p1 to p7 (R131). -/
def predDest (d : Nat) : Bool := decide (1 ≤ d) && decide (d ≤ 7)

/-- SCMP (R138). -/
def scmp (f : SFields) : Bool := immOk f.i f.imm && decide (f.fn.toNat ≤ 5) && predDest f.d.toNat

/-- PRED (R139). -/
def pred (f : SFields) : Bool :=
  predDest f.d.toNat &&
  (if f.fn.toNat = 4 then f.i && f.a == 0
   else decide (f.fn.toNat ≤ 3) && !f.i && decide (f.a.toNat ≤ 7) && decide (f.imm.toNat ≤ 7))

/-- A data register of the form: v0 to v31 in the vector form (R140). -/
def dataReg (f : MFields) : Bool := f.fn != 8 || decide (f.d.toNat ≤ 31)

/-- LD (R140). -/
def ld (f : MFields) : Bool :=
  (decide (f.fn.toNat ≤ 6) || f.fn == 8) && f.space != 3 && (f.space != 2 || f.fn == 2 || f.fn == 3) && dataReg f

/-- ST (R140). -/
def st (f : MFields) : Bool :=
  (decide (f.fn.toNat ≤ 3) || f.fn == 8) && (f.space == 0 || f.space == 1) && dataReg f

/-- CNT.SNAP (R160). -/
def cntSnap (imm : BitVec 32) : Bool :=
  decide (imm.toNat ≤ 3) || (decide (0x10 ≤ imm.toNat) && decide (imm.toNat ≤ 0x19))

/-- Operand B of format V (R176). -/
def operandB (f : VFields) : Bool := if f.sb then f.b == 0 else f.sr == 0

/-- VF (R177). -/
def vf (f : VFields) : Bool :=
  operandB f && decide (f.fn.toNat ≤ 6) && (f.fn == 3 || f.c == 0) && (f.fn != 6 || (f.b == 0 && !f.sb))

/-- VI (R177). -/
def vi (f : VFields) : Bool :=
  operandB f && f.c == 0 && (decide (f.fn.toNat ≤ 0x0A) || (f.fn == 0x0F && f.a == 0))

/-- VCMP (R179). -/
def vcmp (f : VFields) : Bool :=
  operandB f && f.c == 0 && predDest f.d.toNat && [0, 1, 2, 8, 9, 10].contains f.fn.toNat

/-- The kinds a pair of format codes admits (R172): none, or whether KIND 0 is admitted. -/
def pairKind (fa fb : Nat) : Option Bool :=
  if fa ≤ 4 ∧ fb ≤ 4 then some true
  else if fa = 5 ∧ fb = 5 then some true
  else if (fa = 6 ∨ fa = 7) ∧ (fb = 6 ∨ fb = 7) then some false
  else if (8 ≤ fa ∧ fa ≤ 12) ∧ (8 ≤ fb ∧ fb ≤ 12) then some false
  else none

/-- MMA (R172). -/
def mma (f : PairFields) (kind : Bool) : Bool :=
  match pairKind f.fa.toNat f.fb.toNat with
  | some k0 => k0 || kind
  | none => false

/-- CHK.ROW and CHK.COL (R187). -/
def chkPair (f : PairFields) : Bool := (pairKind f.fa.toNat f.fb.toNat).isSome

/-- XRED PACK and ADD (R182). -/
def xred (f : XredFields) : Bool := decide (f.r0.toNat + f.rn.toNat ≤ 63)

/-- The command is well formed. -/
def instr : Instr → Bool
  | .salu _ _ _ f => salu f
  | .scmp _ _ _ f => scmp f
  | .pred _ _ f => pred f
  | .ld _ _ _ f => ld f
  | .st _ _ _ f _ => st f
  | .loop _ _ i body imm => immOk i imm && decide (1 ≤ body.toNat) && decide (body.toNat ≤ 32767)
  | .toll _ _ scope => decide (scope.toNat ≤ 4)
  | .rngSeed _ _ i imm => if i then decide (imm.toNat < 256) else decide (imm.toNat < 64)
  | .cntSnap _ _ _ imm => cntSnap imm
  | .vf _ _ _ f => vf f
  | .vi _ _ _ f => vi f
  | .vcvt _ _ _ fn _ _ => decide (fn.toNat ≤ 5)
  | .vcmp _ _ _ f => vcmp f
  | .vsumCanon _ _ fn _ _ => decide (fn.toNat ≤ 1)
  | .tld _ _ f => decide (f.fmt.toNat ≤ 0xC)
  | .mma _ _ f kind => mma f kind
  | .rndExs _ _ f => f.mode != 3 && decide (f.fmt.toNat ≤ 0xE)
  | .xredPack _ _ f => xred f
  | .xredAdd _ _ f => xred f
  | .chkRow _ _ f => chkPair f
  | .chkCol _ _ f => chkPair f
  | .chkCmp _ _ _ rows cols => rows || cols
  | .flitReceive _ _ f => decide (f.length = 256)
  | .hopUnitReceive h u =>
    match h with
    | .linkTx _ => decide (u.data.length ≤ 240)
    | .linkIn _ => decide (u.data.length ≤ 240)
    | _ => decide (u.data.length = 64)
  | _ => true

/-- The vector registers an instruction names, which must lie below the program's VREGS (R131). -/
def vregs : Instr → List Nat
  | .ld _ _ _ f => if f.fn = 8 then [f.d.toNat] else []
  | .st _ _ _ f _ => if f.fn = 8 then [f.d.toNat] else []
  | .vf _ _ _ f => [f.d.toNat, f.a.toNat, f.b.toNat, f.c.toNat]
  | .vi _ _ _ f => [f.d.toNat, f.a.toNat, f.b.toNat]
  | .vcvt _ _ _ _ d a => [d.toNat, a.toNat]
  | .vcmp _ _ _ f => [f.a.toNat, f.b.toNat]
  | .vsumCanon _ _ _ d a => [d.toNat, a.toNat]
  | .vexp _ _ _ d a => [d.toNat, a.toNat]
  | .vlog _ _ _ d a => [d.toNat, a.toNat]
  | .vrsq _ _ _ d a => [d.toNat, a.toNat]
  | .xredFcomb _ _ f => [f.d.toNat, f.a.toNat]
  | _ => []

end Sys2Proof.WellFormed
end

