-- ==== Sys2Proof/Machine/LoadStore.lean ====
section
/-! DEFINITION. LD and ST in the scratchpad, in device memory and in the descriptor window (R140 to R146), the memory
request table (R112), the shadow's loads and signature (R318, R319), and the return of a load and a store's
acknowledgement (R294). -/

namespace Sys2Proof.Machine

/-! ### Accesses -/

/-- The width of the scalar forms (R140). -/
def accWidth (fn : Nat) : Nat := 2 ^ (fn % 4)

/-- One access of an instruction: the thread or lane, and its address. -/
abbrev Access := Nat × Nat

/-- The accesses of an LD or ST: the acting threads of the scalar form, or the acting lanes of the vector form (R141). -/
def accesses (y : Group) (gd : Guard) (f : MFields) : List Access :=
  let G := guardOf y gd
  if f.fn = 8 then
    let ea := baseAddr y f.a.toNat 0 f.imm / 4 * 4
    (actLanes G).map (fun i => (i, ea + 4 * i))
  else
    let w := if f.space = 2 then 4 else accWidth f.fn.toNat
    (actThreads G).map (fun k => (k, baseAddr y f.a.toNat k f.imm / w * w))

/-- Bytes per access. -/
def accBytes (f : MFields) : Nat := if f.fn = 8 then 4 else accWidth f.fn.toNat

/-- The value a scalar LD writes (R142): zero-extended, or sign-extended in the S forms. -/
def extend (fn : Nat) (l : List Byte) : DWord :=
  if 4 ≤ fn then BitVec.ofInt 64 (signedNat (8 * l.length) (ofLe l)) else BitVec.ofNat 64 (ofLe l)

/-- What an LD writes for one access (R142). -/
def putOf (f : MFields) (i : Nat) (l : List Byte) : RegPut :=
  if f.fn = 8 then .v f.d.toNat i (BitVec.ofNat 32 (ofLe l)) else .s f.d.toNat i (extend f.fn.toNat l)

/-- Writes what a load brings. -/
def applyPuts (y : Group) (l : List RegPut) : Group :=
  l.foldl (fun y p =>
    match p with
    | .s r k v => setS y r k v
    | .v r i v => setV y r i v) y

/-- The bytes that ST writes for one access (R142). -/
def storeBytes (y : Group) (f : MFields) (i : Nat) : List Byte :=
  if f.fn = 8 then leBytes 4 (vReg y f.d.toNat i).toNat else leBytes (accBytes f) (sReg y f.d.toNat i).toNat

/-- The scalar and vector registers an LD or ST names. -/
def memSRegs (f : MFields) : List Nat := f.a.toNat :: (if f.fn = 8 then [] else [f.d.toNat])
/-- The vector register an LD or ST names. -/
def memVRegs (f : MFields) : List Nat := if f.fn = 8 then [f.d.toNat] else []

/-- Raises the violations of an instruction's accesses in order; the group continues only when there are none (R136). -/
def endAccesses (s : State) (t : TileRef) (g : Nat) (vs : List (Nat × Nat × List Word)) : State :=
  if vs.isEmpty then advanceGroup s t g
  else vs.foldl (fun s v => tileViolation s t v.1 g v.2.1 v.2.2) s

/-! ### Scratchpad (R143) -/

/-- One scratchpad read: what it returns, none where it does not happen, and the violation it raises. -/
def spadGet (x : Tile) (g a n : Nat) : Option (List Byte) × Option (Nat × Nat) :=
  match firstCheck x g false none (linesOf a n) with
  | none => (some (spadRead x a n), none)
  | some v => (if v.1 = 1 then some (List.replicate n 0) else none, some v)

/-- One scratchpad write (R106, R143): the violation it raises, or the tile with the bytes written and the lines tagged. -/
def spadPut (x : Tile) (g a : Nat) (l : List Byte) : Tile × Option (Nat × Nat) :=
  let ls := linesOf a l.length
  match firstCheck x g true none ls with
  | none => (tagLines (spadWrite x a l) g ls, none)
  | some v => (x, some v)

/-- The violations of a list of answers, as tile violations. -/
def violsOf (l : List (Option (Nat × Nat))) : List (Nat × Nat × List Word) :=
  l.filterMap (fun v => v.map (fun p => (p.1, p.2, [])))

/-- The lines of the accesses that no check stops. -/
def servedLines (x : Tile) (g : Nat) (wr : Bool) (n : Nat) (acc : List Access) : List Nat :=
  acc.flatMap (fun p => if (firstCheck x g wr none (linesOf p.2 n)).isNone then linesOf p.2 n else [])

/-- LD from the scratchpad. -/
def ldSpad (s : State) (t : TileRef) (g : Nat) (f : MFields) (acc : List Access) : State :=
  let x := getTile s t
  let n := accBytes f
  let ls := acc.flatMap (fun p => linesOf p.2 n)
  if ls.any (engineHolds x false) then noteNeed s t g (.lines false ls)
  else if !(missingPages x ls).isEmpty then awaitPages s t g (missingPages x ls)
  else
    let rs := acc.map (fun p => (p.1, spadGet x g p.2 n))
    let puts := rs.filterMap (fun r => r.2.1.map (putOf f r.1))
    let s := useLines (countIssue s t g .memory) t bankLdSt false (servedLines x g false n acc)
    let s := putGroup s t g (applyPuts (getGroup (getTile s t) g) puts)
    endAccesses s t g (violsOf (rs.map (fun r => r.2.2)))

/-- ST to the scratchpad: the thread or lane with the highest index is written last (R102). -/
def stSpad (s : State) (t : TileRef) (g : Nat) (f : MFields) (acc : List Access) : State :=
  let x := getTile s t
  let y := getGroup x g
  let ls := acc.flatMap (fun p => linesOf p.2 (accBytes f))
  if ls.any (engineHolds x true) then noteNeed s t g (.lines true ls)
  else if !(missingPages x ls).isEmpty then awaitPages s t g (missingPages x ls)
  else
    let s := useLines (countIssue s t g .memory) t bankLdSt true (servedLines x g true (accBytes f) acc)
    let r := acc.foldl (fun (z : Tile × List (Option (Nat × Nat))) p =>
      let w := spadPut z.1 g p.2 (storeBytes y f p.1)
      (w.1, z.2 ++ [w.2])) (getTile s t, [])
    endAccesses (setTile s t r.1) t g (violsOf r.2)

/-! ### Descriptor window (R118, R145) -/

/-- A byte of the descriptor window, from the copy of the current milestone. -/
def descByte (s : State) (a : Nat) : Byte :=
  if a % 32 < 28 then BitVec.ofNat 8 ((SMap.get 0 s.sch.descCopy (a / 4)).toNat / 2 ^ (8 * (a % 4))) else 0

/-- One read of the descriptor window. The bytes of an access that runs past its end read zero (log 94, DESIGN CHOICE). -/
def descGet (s : State) (a n : Nat) : List Byte × Option (Nat × Nat) :=
  if 2 ^ 15 ≤ a then (List.replicate n 0, some (1, 0x1FFFF))
  else ((List.range n).map (fun i => if a + i < 2 ^ 15 then descByte s (a + i) else 0), none)

/-! ### The shadow's load queue and signature (R318, R319) -/

/-- What a load brought, by thread or lane. -/
def putVals (l : List RegPut) : List (Nat × DWord) :=
  l.map (fun p =>
    match p with
    | .s _ k v => (k, v)
    | .v _ i v => (i, v.setWidth 64))

/-- The shadow that runs beside a primary. -/
def shadowOf (s : State) (t : TileRef) : Option TileRef :=
  if t.shadow then none
  else if (sampleOf (getDist s t.d.val) t.l.val).isSome then some { t with shadow := true } else none

/-- Whether the shadow's load queue has room for what the primary's loads under way and one more bring (R318). -/
def queueRoom (s : State) (t : TileRef) : Bool :=
  match shadowOf s t with
  | some u => decide ((getTile s u).loadQ.length + ((getTile s t).reqs.filter (fun r => !r.store)).length < 4096)
  | none => true

/-- Hands what a load of the primary received to the shadow's queue (R318). -/
def feedShadow (s : State) (t : TileRef) (g ia count : Nat) (l : List RegPut) : State :=
  match shadowOf s t with
  | some u =>
    let x := getTile s u
    setTile s u { x with loadQ := x.loadQ ++ [{ group := g, ia := ia, count := count, data := putVals l }] }
  | none => s

/-- What the shadow's load writes from a queue entry: the threads or lanes of which the primary's load has data. -/
def fromQueue (f : MFields) (acc : List Access) (data : List (Nat × DWord)) : List RegPut :=
  acc.filterMap (fun p => (lookup data p.1).map (fun v =>
    if f.fn = 8 then .v f.d.toNat p.1 (v.setWidth 32) else .s f.d.toNat p.1 v))

/-- The window checks of a shadow's accesses: they run as on the primary, though the shadow never reaches device memory (R318). -/
def shadowViols (s : State) (f : MFields) (wr : Bool) (acc : List Access) : List (Nat × Nat × List Word) :=
  acc.filterMap (fun p =>
    if f.space = 1 then
      (if (window s p.2 (accBytes f) (if wr then 1 else 0)).isNone then some (1, 0x1FFFE, addrWords p.2) else none)
    else if 2 ^ 15 ≤ p.2 then some (1, 0x1FFFF, [])
    else none)

/-- The load queue's entry for the next load of a group: the same group, instruction and count (R318). -/
def loadFor (x : Tile) (g : Nat) (y : Group) : Option LoadRec :=
  x.loadQ.find? (fun e => decide (e.group = g) && decide (e.ia = y.ia) && decide (e.count = y.loads))

/-- The primary's groups no longer wait for room in the shadow's load queue (R318). -/
def roomAgain (s : State) (t : TileRef) : State :=
  let p := { t with shadow := false }
  let x := getTile s p
  setTile s p { x with groups := x.groups.map (fun q => if q.2.needs = .room then (q.1, { q.2 with needs := .none }) else q) }

/-- An LD of the shadow from device memory or the descriptor window: ready once the primary's matching data is there. -/
def ldShadow (s : State) (t : TileRef) (g : Nat) (f : MFields) (acc : List Access) : State :=
  let x := getTile s t
  let y := getGroup x g
  match loadFor x g y with
  | none => noteNeed s t g .data
  | some e =>
    let s := countIssue s t g .memory
    let x := getTile s t
    let s := roomAgain (setTile s t { x with loadQ := x.loadQ.erase e }) t
    let y := getGroup (getTile s t) g
    let s := putGroup s t g (applyPuts { y with loads := y.loads + 1 } (fromQueue f acc e.data))
    endAccesses s t g (shadowViols s f false acc)

/-- Whether a group's outputs are folded into a signature: on a shadow and on its primary (R319). -/
def isSampled (s : State) (t : TileRef) : Bool := t.shadow || (shadowOf s t).isSome

/-- Folds an output into a group's running crc64 (R319). -/
def foldOutput (s : State) (t : TileRef) (g : Nat) (l : List Byte) : State :=
  if isSampled s t then
    putGroup s t g (addOutput (getGroup (getTile s t) g) (.bytes l))
  else s

/-- LD from the descriptor window. -/
def ldDesc (s : State) (t : TileRef) (g : Nat) (f : MFields) (acc : List Access) : State :=
  if !queueRoom s t then noteNeed s t g .room
  else
    let rs := acc.map (fun p => (p.1, descGet s p.2 (accBytes f)))
    let puts := rs.map (fun r => putOf f r.1 r.2.1)
    let s := countIssue s t g .memory
    let y := getGroup (getTile s t) g
    let s := feedShadow s t g y.ia y.loads puts
    let s := putGroup s t g (applyPuts { y with loads := y.loads + 1 } puts)
    endAccesses s t g (violsOf (rs.map (fun r => r.2.2)))

/-! ### Device memory (R112, R144, R292, R298) -/

/-- A free entry of the request table for a group that holds fewer than 16 (R112). -/
def freeReq (x : Tile) (g : Nat) : Option Nat :=
  if 16 ≤ (x.reqs.filter (fun r => decide (r.group = g))).length then none
  else (List.range 128).find? (fun i => !x.reqs.any (fun r => decide (r.id = i)))

/-- An address that no line has: what a load returns for an access that did not happen. -/
def noAddress : Nat := 2 ^ 64

/-- What the accesses of a device-memory instruction come to, one after another. -/
structure DevResult where
  s : State
  got : List (Nat × Nat × List Byte) := []
  viols : List (Nat × Nat × List Word) := []
  made : List Nat := []

/-- One access of a device-memory instruction: what it returns, by thread or lane with its address, and the violation it raises; a read
out of bounds returns zero. `data` is what a store writes. -/
def devAccess (t : TileRef) (g n : Nat) (data : Option (Nat → List Byte)) (z : DevResult) (p : Access) : DevResult :=
  match tileAccess z.s t g p.2 n data.isSome with
  | .inl v =>
    { z with
      got := if v.1 = 1 then z.got ++ [(p.1, noAddress, List.replicate n 0)] else z.got
      viols := z.viols ++ [(v.1, v.2, addrWords p.2)] }
  | .inr s =>
    match data with
    | some f => { z with s := foldOutput (tileStore s t g p.2 (f p.1)) t g (leBytes 8 p.2 ++ f p.1), made := z.made ++ [p.2] }
    | none => { z with s := noteRead s p.2 n, got := z.got ++ [(p.1, p.2, memRead s p.2 n)], made := z.made ++ [p.2] }

/-- The accesses of a device-memory instruction in order. -/
def devAccesses (s : State) (t : TileRef) (g n : Nat) (data : Option (Nat → List Byte)) (acc : List Access) : DevResult :=
  acc.foldl (devAccess t g n data) { s := s }

/-- LD from device memory: it holds a request entry until its data returns, and its destination waits (R112, R134, R144). -/
def ldDev (s : State) (t : TileRef) (g : Nat) (f : MFields) (acc : List Access) : State :=
  if !queueRoom s t then noteNeed s t g .room
  else
    match freeReq (getTile s t) g with
    | none => noteNeed s t g .entry
    | some id =>
      let s := charge (countIssue s t g .memory) t.d.val 9 1
      let r := devAccesses s t g (accBytes f) none acc
      let first := r.made.flatMap (fun a => firstReads s a (accBytes f))
      let s := chargeLines r.s (r.made.map (· / 64)) (if pathMode s = 1 then first else [])
      let y := getGroup (getTile s t) g
      let x := getTile s t
      let e : MemReq := { id := id, group := g, store := false, ia := y.ia, vec := decide (f.fn = 8), dest := f.d.toNat, count := y.loads,
                          first := first, puts := r.got.map (fun p => (p.2.1, putOf f p.1 p.2.2)) }
      let s := setTile s t { x with reqs := x.reqs ++ [e] }
      let y := { y with loads := y.loads + 1 }
      let s := putGroup s t g (if f.fn = 8 then { y with pendV := addTo y.pendV f.d.toNat }
        else { y with pendS := addTo y.pendS f.d.toNat })
      endAccesses s t g r.viols

/-- ST of a shadow to device memory: its outputs are folded, its checks made, and nothing is stored (R318, R319). -/
def stShadow (s : State) (t : TileRef) (g : Nat) (f : MFields) (acc : List Access) : State :=
  let y := getGroup (getTile s t) g
  let s := countIssue s t g .memory
  let good := acc.filter (fun p => (window s p.2 (accBytes f) 1).isSome)
  let s := good.foldl (fun s p => foldOutput s t g (leBytes 8 p.2 ++ storeBytes y f p.1)) s
  endAccesses s t g (shadowViols s f true acc)

/-- ST to device memory: it holds a request entry until it is acknowledged (R112, R144). `dm` is what the retain copies that it makes
first and its own writes meet (R301 to R305). -/
def stDev (s : State) (t : TileRef) (g : Nat) (f : MFields) (acc : List Access) (dm : Damage) : State :=
  let y := getGroup (getTile s t) g
  match freeReq (getTile s t) g with
  | none => noteNeed s t g .entry
  | some id =>
    let s := charge (countIssue s t g .memory) t.d.val 9 1
    let r := devAccesses s t g (accBytes f) (some (storeBytes y f)) acc
    let u := chargeLines r.s (r.made.map (· / 64)) []
    let x := getTile u t
    let e : MemReq := { id := id, group := g, store := true }
    let t' := endAccesses (setTile u t { x with reqs := x.reqs ++ [e] }) t g r.viols
    let own := fun (a : Nat) => (r.made.map (· / 64 * 64)).contains a
    let copied := (r.made.map (· / 4096)).filter (fun b => decide ((getTag s b).retainStep ≠ some s.sch.stepFirst))
    let t' := meet t' 1 true (fun a => copied.contains (a / 4096)) (judged s 1 true dm)
    meet t' 0 false own (dm.filter (fun p => p.2 == .parityFail))

/-- LD (R140 to R146). -/
def execLd (t : TileRef) (g : GroupId) (gd : Guard) (f : MFields) (s : State) : Host.Outcome State Fault Refusal :=
  decoded (WellFormed.ld f && vregsOk s t (memVRegs f))
    (let y := getGroup (getTile s t) g.val
     let acc := accesses y gd f
     if canIssue s t g.val .memory && regsFree y (memSRegs f) (memVRegs f) then
       if acc.isEmpty then advanceGroup (countIssue s t g.val .memory) t g.val
       else if f.space = 0 then ldSpad s t g.val f acc
       else if t.shadow then ldShadow s t g.val f acc
       else if f.space = 1 then ldDev s t g.val f acc
       else ldDesc s t g.val f acc
     else s)

/-- ST (R140 to R146); `dm` is what its accesses to device memory meet. -/
def execSt (t : TileRef) (g : GroupId) (gd : Guard) (f : MFields) (dm : Damage) (s : State) : Host.Outcome State Fault Refusal :=
  decoded (WellFormed.st f && vregsOk s t (memVRegs f))
    (let y := getGroup (getTile s t) g.val
     let acc := accesses y gd f
     if canIssue s t g.val .memory && regsFree y (memSRegs f) (memVRegs f) then
       if acc.isEmpty then advanceGroup (countIssue s t g.val .memory) t g.val
       else if f.space = 0 then stSpad s t g.val f acc
       else if t.shadow then stShadow s t g.val f acc
       else stDev s t g.val f acc dm
     else s)

/-! ### Returns -/

/-- What a load writes: the values whose line met an error or a path failure are free (log 14). -/
def returnedPuts (n : Nat) (dm : Damage) (l : List (Nat × RegPut)) : List RegPut :=
  ((List.range l.length).zip l).map (fun p =>
    if sound (outcomeAt dm p.2.1) then p.2.2
    else
      match p.2.2 with
      | .s r k _ => .s r k (Config.damagedData n p.1)
      | .v r i _ => .v r i ((Config.damagedData n p.1).setWidth 32))

/-- Whether a load reads the whole of a line's block: its tile's first read of the block in the milestone, in check-value mode (R302). -/
def readsBlock (s : State) (r : MemReq) (a : Nat) : Bool := decide (pathMode s = 1) && r.first.contains (a / 4096)

/-- What the lines of a load and those of the blocks that it reads whole really meet: the check value of such a block is verified (R299,
R302). -/
def loadDamage (s : State) (r : MemReq) (dm : Damage) : Damage :=
  (dm.filter (fun p => (r.puts.map (fun q => q.1 / 64 * 64)).contains p.1 || readsBlock s r p.1)).map (fun p =>
    (p.1, admitted s p.1 0 (readsBlock s r p.1) p.2))

/-- The blocks that a load read whole, in check-value mode, have a check value from then on (R302). -/
def readWhole (s : State) (r : MemReq) : State := if pathMode s = 1 then r.first.foldl giveCheck s else s

/-- LD_DATA_RETURN (R112, R294, R299, R301, R304): the data reaches the registers, the request entry frees, and tollgates
that waited for it complete. -/
def execLdDataReturn (t : TileRef) (req : Fin 128) (dm : Damage) (s : State) : Host.Outcome State Fault Refusal :=
  let x := getTile s t
  match x.reqs.find? (fun r => decide (r.id = req.val) && !r.store && decide (s.dev ≠ .fault)) with
  | none => .next s
  | some r =>
    let dm := loadDamage s r dm
    let puts := returnedPuts s.fresh dm r.puts
    let y := getGroup x r.group
    let s := setTile (takeFresh s) t { x with reqs := x.reqs.erase r }
    let z := applyPuts y puts
    let z := if r.vec then { z with pendV := z.pendV.filter (fun i => decide (i ≠ r.dest)) }
      else { z with pendS := z.pendS.filter (fun i => decide (i ≠ r.dest)) }
    let s := putGroup s t r.group z
    let s := feedShadow s t r.group r.ia r.count puts
    .next (settleTolls (meet (readWhole s r) 0 true (fun _ => true) dm) t.d)

/-- ST_ACKNOWLEDGEMENT (R112, R153, R294): the request entry frees, and tollgates that waited for it complete. -/
def execStAck (t : TileRef) (req : Fin 128) (s : State) : Host.Outcome State Fault Refusal :=
  let x := getTile s t
  match x.reqs.find? (fun r => decide (r.id = req.val) && r.store && decide (s.dev ≠ .fault)) with
  | none => .next s
  | some r => .next (settleTolls (setTile s t { x with reqs := x.reqs.erase r }) t.d)

end Sys2Proof.Machine
end

