-- ==== Sys2Proof/Machine/Transfer.lean ====
section
/-! DEFINITION. Scheduled transfer at a tile: SEND.SLOT and RECV.WAIT (R155, R156, R158). -/

namespace Sys2Proof.Machine

/-- Whether the departure cycle of an entry is over (R157): no departure cycle binds a shadow (R318). -/
def departed (s : State) (t : TileRef) (e : SendEntry) : Bool := !t.shadow && decide (e.depart < districtCyc s t.d.val)

/-- The entry when SEND.SLOT or PACK of group g may use it (R156 item 1, R157); the entry of a PACK counts as issued when its encoding
ends (R183). -/
def usableSend (s : State) (t : TileRef) (g sid : Nat) : Option SendEntry :=
  match sendEntry (getTile s t) sid with
  | some e =>
    if e.group = g ∧ departed s t e = false then
      match e.state with
      | .idle => some e
      | .encoding _ => some e
      | _ => none
    else none
  | none => none

/-- The road of an entry, 0 when there is no such entry. -/
def sendRoad (x : Tile) (sid : Nat) : Nat :=
  match sendEntry x sid with
  | some e => e.road
  | none => 0

/-- An entry that SEND.SLOT issues: PENDING with its source lines locked (R156). A shadow's entry is not performed and holds no line
(R318). Its entry number and lines are folded into the group's signature (R319). -/
def issueSend (s : State) (t : TileRef) (g : Nat) (e : SendEntry) (line : Nat) : State :=
  let s := foldOutput s t g (leBytes 2 e.sid ++ spadRead (getTile s t) (64 * line) (64 * e.lines))
  let x := getTile s t
  if t.shadow then setTile s t (setSend x e.sid .departed)
  else setTile s t { setSend x e.sid (.pending line line e.lines false) with
    locks := x.locks ++ [{ first := line, count := e.lines, who := .send e.sid }] }

/-- SEND.SLOT (R156): the entry becomes PENDING and its source lines become locked. -/
def execSendSlot (t : TileRef) (g : GroupId) (sid : BitVec 9) (line : BitVec 17) (s : State) :
    Host.Outcome State Fault Refusal :=
  .next (
    if canIssue s t g.val .transfer then
      let x := getTile s t
      match usableSend s t g.val sid.toNat with
      | none => sendViolation (countIssue s t g.val .transfer) t 0x10 sid.toNat (sendRoad x sid.toNat)
      | some e =>
        let ls := lineSpan line.toNat e.lines
        if ls.any (engineHolds x false) then noteNeed s t g.val (.lines false ls)
        else if !(missingPages x ls).isEmpty then awaitPages s t g.val (missingPages x ls)
        else
          let s := countIssue s t g.val .transfer
          match firstCheck x g.val false none ls with
          | some v => tileViolation s t v.1 g.val v.2 []
          | none => advanceGroup (issueSend s t g.val e line.toNat) t g.val
    else s)

/-- RECV.WAIT (R158): the group waits while the milestone's entry with the tag is EXPECTED. -/
def execRecvWait (t : TileRef) (g : GroupId) (tag : BitVec 9) (s : State) : Host.Outcome State Fault Refusal :=
  .next (
    if canIssue s t g.val .transfer then
      let x := getTile s t
      let y := advance (getGroup x g.val)
      let waits := x.arrivals.any (fun e => decide (e.tag = tag.toNat) && !e.landed)
      putGroup (countIssue s t g.val .transfer) t g.val (if waits then { y with wait := .recv tag.toNat } else y)
    else s)

end Sys2Proof.Machine
end

