-- ==== Sys2Proof/Machine/Tables.lean ====
section
/-! DEFINITION. The committed itinerary in the machine: the tables of a frame in the tiles and the hops (R198 item 3, R203, R209, R222), the code stores (R130), the groups of the tiles (R99,
R113) and what a step's first position sets (R133, R296, R318). -/

namespace Sys2Proof.Machine

/-! ### Tiles -/

/-- The tile program of a logical tile in an itinerary, on logical chip `l`. -/
def progOf (c : ItinContent) (l : Nat) (t : TileRef) : Option TileProg :=
  c.tiles.find? (fun p => decide (p.lchip = l) && decide (p.d = t.d) && decide (p.l = t.l))

/-- The resident limit (R99). -/
def residentLimit (p : TileProg) : Nat := min 64 (1024 / p.vregs)

/-- The entry address of a group for a step record (R133). The entries are kept per step record, so every repeat of a record begins at
the same addresses, and a group for which none is listed begins at the program's first word (log 98, DESIGN CHOICE). -/
def entryAddr (p : TileProg) (record g : Nat) : Nat :=
  let l := if p.entries.length = 1 then (p.entries[0]?).getD [] else (p.entries[record]?).getD []
  (l[g]?).getD p.codeStart

/-- The frames of a tile right after COMMIT: the pinned pages (R104). -/
def pinnedFrames (p : TileProg) : List PageFrame :=
  p.pinned.map (fun i => { page := i, pinned := true, dirty := false, lastUse := 0 })

/-- A tile as COMMIT leaves it: its groups exist, those below the resident limit in the slots of their numbers (R99, R113). The round-robin
pointer of R101 starts at 0, for which the spec gives no value (log 136, DESIGN CHOICE). -/
def freshTile (p : TileProg) : Tile :=
  { prog := some p
    groups := (List.range p.groups).map (fun g =>
      (g, { slot := g % 64, resident := decide (g < residentLimit p), wait := .stop }))
    frames := pinnedFrames p }

/-- The tiles of the chip that run a program. -/
def progTiles (s : State) : List TileRef := chipTiles.filter (fun t => (getTile s t).prog.isSome)

/-- The tiles of the chip that run a program, and their shadows (R318). -/
def runTiles (s : State) : List TileRef :=
  (progTiles s).flatMap (fun t =>
    if (sampleOf (getDist s t.d.val) t.l.val).isSome then [t, { t with shadow := true }] else [t])

/-- A group at the first position of a step (R133). -/
def startGroup (y : Group) (ia : Nat) : Group := { ia := ia, slot := y.slot, resident := y.resident }

/-- A tile at the first position of a step (R133, R296): every page reads zero with clear tags. A tile of a partition that was reset
issues nothing before the boundary that rewinds (R310). -/
def startTile (x : Tile) (record : Nat) (rewinds : Bool) : Tile :=
  match x.prog with
  | none => x
  | some p =>
    if x.forced && !rewinds then x
    else
      { x with
        groups := x.groups.map (fun q => (q.1, startGroup q.2 (entryAddr p record q.1)))
        spad := [], tags := [], tUse := [], xUse := [], t := [], x := [], locks := [], queue := [], reqs := []
        loadQ := [], slate := [], banks := [], forced := false }

/-- The send table of a tile in a frame (R155). -/
def sendsOf (f : FrameDef) (l : Nat) (t : TileRef) : List SendEntry :=
  (f.sends.filter (fun e => decide (e.lchip = l) && decide (e.d = t.d) && decide (e.l = t.l))).map (fun e =>
    { sid := e.sid, group := e.group, lines := e.lines, depart := e.depart, road := e.road })

/-- The arrival list of a tile in a frame: its entries become EXPECTED (R110, R111). -/
def arrivalsOf (f : FrameDef) (l : Nat) (t : TileRef) : List Arrival :=
  (f.arrivals.filter (fun e => decide (e.lchip = l) && decide (e.d = t.d) && decide (e.l = t.l))).map (fun e =>
    { tag := e.tag, line := e.line, count := e.count, mark := e.mark })

/-- Puts a frame's tables into every tile (R198 item 3). -/
def installTiles (s : State) (f : FrameDef) : State :=
  (runTiles s).foldl (fun s t =>
    let x := getTile s t
    setTile s t { x with sends := sendsOf f s.sch.lchip t, arrivals := arrivalsOf f s.sch.lchip t, viols := [] }) s

/-! ### Hops (R203, R209, R222) -/

/-- The hop after (l, h) on a road, when it lies on the same chip. -/
def nextHop (l : Nat) (h : HopDef) : List (Nat × HopDef) → List HopDef
  | a :: b :: r =>
    if a.1 = l ∧ a.2 = h then (if b.1 = l then [b.2] else []) else nextHop l h (b :: r)
  | _ => []

/-- The outputs of a road at a hop: a fork's branches, or the next hop (R209). -/
def outputsOf (r : RoadDef) (l : Nat) (h : HopDef) : List HopDef :=
  match r.forks.find? (fun f => decide (f.1 = l) && decide (f.2.1 = h)) with
  | some f => f.2.2
  | none => nextHop l h r.hops

/-- The tiles and arrival tags at which a road ends in a hop: those of the district of a local switch (R110, R210). -/
def endsAt (r : RoadDef) (l : Nat) : HopDef → List (TileRef × Nat)
  | .localSwitch d => (r.ends.filter (fun e => decide (e.1 = l) && decide (e.2.1.d = d))).map (fun e => e.2)
  | _ => []

/-- Whether the output of one hop of a chip leads to another: streets join neighbouring districts of a die, a bridge joins a die and the
hub die, and the hub die carries the links; no other path joins two dies (R15, R210). A bridge is reached from every district of its die
and reaches every one (log 109, DEDUCED). -/
def joined : HopDef → HopDef → Bool
  | .street d p, .street e _ => decide (streetNeighbour d.val p.val = some e.val)
  | .street d p, .localSwitch e => decide (streetNeighbour d.val p.val = some e.val)
  | .street d _, .bridge q down => !down && decide (quadOf d.val = q.val)
  | .localSwitch d, .street e _ => decide (d = e)
  | .localSwitch d, .bridge q down => !down && decide (quadOf d.val = q.val)
  | .bridge q true, .street e _ => decide (quadOf e.val = q.val)
  | .bridge q true, .localSwitch e => decide (quadOf e.val = q.val)
  | .bridge _ false, .bridge _ down => down
  | .bridge _ false, .linkTx _ _ => true
  | .linkIn _ _, .bridge _ down => down
  | .linkIn _ _, .linkTx _ _ => true
  | _, _ => false

/-- Whether a hop is a link transmitter, whose units go on to another chip. -/
def isTx : HopDef → Bool
  | .linkTx _ _ => true
  | _ => false

/-- A slot table entry of a hop of this chip, with what the road does there: its units go to those of the hops listed next to which a path
leads (R15). -/
def slotEntry (s : State) (c : ItinContent) (e : SlotDef) : SlotEntry :=
  match c.roads.find? (fun r => decide (r.road = e.road)) with
  | some r =>
    let outs := outputsOf r s.sch.lchip e.hop
    { slot := e.slot, road := e.road, count := e.count, outs := (outs.filter (joined e.hop)).filterMap (resolveHop s),
      isLast := outs.isEmpty && !isTx e.hop, ends := endsAt r s.sch.lchip e.hop }
  | none => { slot := e.slot, road := e.road, count := e.count, outs := [], isLast := false, ends := [] }

/-- Adds an entry to a hop's slot table. -/
def addSlot (s : State) (h : HopId) (e : SlotEntry) : State :=
  let x := getHop s h
  setHop s h { x with table := x.table ++ [e] }

/-- A hop that begins a milestone: its table empties, and its slots count from 0 (R203, R205). -/
def clearHop (x : Hop) : Hop := { x with table := [], since := 0, slot := 0, used := 0 }

/-- The units of the milestone that were discarded before it began count as sent (R197, R255). -/
def settleGone (j : Nat) (x : Hop) : Hop :=
  { x with table := ((x.gone.filter (fun u => decide (u.ms = msByte j))).foldl loseTurn (x.table, x.table)).1, gone := [] }

/-- Puts a frame's slot tables into every hop (R198 item 3), as COMMIT or the restart boundary resolved them (R275). The entries of a hop are
taken in the order in which the frame lists them (log 140, DESIGN CHOICE). -/
def installHops (s : State) (f : FrameDef) : State :=
  match committedSlot s with
  | none => s
  | some x =>
    let s := { s with hops := s.hops.map (fun p => (p.1, clearHop p.2)) }
    let s := (f.slots.filter (fun e => decide (e.lchip = s.sch.lchip))).foldl (fun s e =>
      match resolveHop s e.hop with
      | some h => addSlot s h (slotEntry s x.content e)
      | none => s) s
    { s with hops := s.hops.map (fun p => (p.1, settleGone s.sch.jobMs p.2)) }

/-! ### Code stores (R130) -/

/-- The key of a code word: district and address. -/
def codeKey (d : Nat) (a : Nat) : Nat := 32768 * d + a

/-- The lines of a code store (R130). -/
def codeLines : Nat := 4096

/-- Loads the code stores of the districts that a test admits from the committed itinerary, which lies in LPDDR5X (R290, R359). -/
def loadCode (s : State) (f : Nat → Bool) : State :=
  match committedSlot s with
  | none => s
  | some x =>
    let ws := x.content.code.filter (fun w => decide (w.lchip = s.sch.lchip) && f w.d.val)
    let ds := (List.finRange 144).filter (fun d => f d.val)
    { chargeHub s 13 (codeLines * ds.length) with
      code := ws.foldl (fun m w => SMap.set 0 m (codeKey w.d.val w.addr) w.word) s.code }

/-! ### COMMIT and END (R99, R104, R113, R222) -/

/-- The tiles of the committed itinerary come into being, and the code stores are loaded. -/
def installJob (s : State) : State :=
  match committedSlot s with
  | none => s
  | some x =>
    let s := chipTiles.foldl (fun s t =>
      match progOf x.content s.sch.lchip t with
      | some p => setTile s t (freshTile p)
      | none => s) { s with tiles := [] }
    loadCode s (fun _ => true)

/-! ### Samples (R317, R318) -/

/-- Sets up the shadow of a sampled logical tile: the same program, no state of its own yet. The shadow of a tile that issues nothing before
the boundary that rewinds issues nothing before it either (R310, R318). -/
def makeShadow (s : State) (t : TileRef) : State :=
  let sh := { t with shadow := true }
  match (getTile s t).prog with
  | some p => setTile s sh { freshTile p with forced := (getTile s t).forced }
  | none => s

/-- Removes the shadows of a district. -/
def dropShadows (s : State) (d : Fin 144) : State :=
  (districtTiles d).foldl (fun s t => setTile s { t with shadow := true } {}) s

/-- What a district samples in the attempt numbered `c`, before it is known whether it can (R317). -/
def wantedSample (s : State) (c d : Nat) : Option (Fin 8) :=
  let r := bits (getReg s 0x00060000) 27 24
  let m := 2 ^ (r - 3)
  if bit (getReg s 0x00060000) 31 ∧ (c + d) % m = 0 then some ⟨c / m % 8, Nat.mod_lt _ (by decide)⟩ else none

/-- The samples a district takes in attempt `c` (R317): its own, and the one that a duplicate mismatch of the attempt before
repeats; `moved` is whether a roadworks move falls at this boundary. -/
def sampleDistrict (s : State) (c : Nat) (moved : Bool) (d : Fin 144) : State :=
  let x := getDist s d.val
  let free := bits x.spare 3 0
  let can := decide (free ≠ 0xF) && !bit x.spare 4 && !moved
  let s := dropShadows s d
  let own := match wantedSample s c d.val with
    | some l => [l]
    | none => []
  let rep : List (Fin 8) := (x.again.filter (fun p => decide (p.2.1 = free))).foldl (fun l p =>
    if h : p.1 < 8 then (if own.contains ⟨p.1, h⟩ || l.contains ⟨p.1, h⟩ then l else l ++ [⟨p.1, h⟩]) else l) []
  let s := if can then s else bump s 0x00060120 (own.length + rep.length)
  let take : List Sample := if can then
      own.map (fun l => { l := l, primary := mapPos x.map l.val, shadow := free }) ++
      rep.map (fun l => { l := l, primary := mapPos x.map l.val, shadow := free })
    else []
  let s := bump (setDist s d.val { x with
    sample := take, again := x.again.filter (fun p => decide (p.2.2 ≠ s.sch.stepFirst)) }) 0x00060110 take.length
  take.foldl (fun s y => makeShadow s { d := d, l := y.l }) s

/-- Every district's samples for the attempt that begins. -/
def sampleAll (s : State) (moved : Fin 144 → Bool) : State :=
  let s := { s with sch := { s.sch with attempts := s.sch.attempts + 1 } }
  (List.finRange 144).foldl (fun s d => sampleDistrict s s.sch.attempts (moved d) d) s

end Sys2Proof.Machine
end

