-- ==== Sys2Proof/Machine/HopCore.lean ====
section
/-! DEFINITION. Units at a hop (R203 to R209): whose turn it is, the checks of a unit as it takes its turn, the verge, the
units a link ingress holds ahead of their milestone, slots and lateness. -/

namespace Sys2Proof.Machine

/-! ### Turns (R205, R207) -/

/-- The units that wait ahead of an arrival at a hop. -/
def aheadOf (s : State) (h : HopId) : List RoadUnit :=
  (getHop s h).verge ++
  (match h with
   | .linkTx n => (getLink s n.val).waiting
   | _ => [])

/-- The entry that an arriving unit takes: units take their turns in the order of their arrival, so that one that comes before the unit
of an earlier entry takes that entry's turn, and is a SLOT_COLLISION (log 111, DEDUCED). -/
def entryFor (s : State) (h : HopId) : Option SlotEntry := turnEntry (afterUnits (getHop s h).table (aheadOf s h))

/-- Whether a RETRACE decision makes the hop discard the unit without a violation (R207). -/
def dropped (s : State) (u : RoadUnit) : Bool := s.sch.dropMs.any (fun j => decide (msByte j = u.ms))

/-- What a unit violates as it takes its turn under entry `e` (R207): the code and the slot. Where several checks fail, MS comes first, then
the table and ROAD, then HOPS (log 120, DESIGN CHOICE). With no entry, and for the wrong milestone, the slot is 0, for which the spec
names none (log 88, DESIGN CHOICE). -/
def unitFault (s : State) (e : Option SlotEntry) (u : RoadUnit) : Option (Nat × Nat) :=
  if u.ms ≠ msByte s.sch.jobMs then some (0x15, 0)
  else
    match e with
    | none => some (0x10, 0)
    | some e =>
      if e.road ≠ u.road.toNat then some (0x10, e.slot)
      else if u.hops = 0 ∧ e.isLast = false then some (0x12, e.slot)
      else none

/-! ### The ingress buffer (R208, R246) -/

/-- A unit leaves the ingress buffer of its link: its credits are freed (R246). -/
def leaveIngress (s : State) (h : HopId) (u : RoadUnit) : State :=
  match h with
  | .linkIn n =>
    let l := getLink s n.val
    if l.inSch.contains u then setLink s n.val (freeCredit { l with inSch := l.inSch.erase u } 0) else s
  | _ => s

/-- A unit that is discarded. -/
def discardUnit (s : State) (h : HopId) (u : RoadUnit) : State := leaveIngress s h u

/-- A hop's slot that goes with the entry a unit takes. -/
def slotFor (s : State) (h : HopId) : Nat :=
  match entryFor s h with
  | some e => e.slot
  | none => 0

/-! ### Slots and lateness (R203, R205, R242) -/

/-- The factor of a link's flit time; a link that is not ACTIVE has none, and its slots pass at full width and rate. -/
def tauFactor (l : Link) : Nat := if l.state = .active then narrowing l else 1

/-- The slot that a hop is in: district cycles of the district that a street hop or local switch leaves, of the die of a bridge, and
flit times of the link (R203). Of the ns of a milestone those count that were not frozen, as cycles do (log 33). -/
def slotNow (s : State) : HopId → Nat
  | .street d _ => districtCyc s d.val
  | .localSwitch d => districtCyc s d.val
  | .bridge q _ => SMap.get 0 s.clk.cycle q.val
  | .linkTx n => s.clk.linkNs * 100 / (128 * tauFactor (getLink s n.val))
  | .linkIn n => s.clk.linkNs * 100 / (128 * tauFactor (getLink s n.val))

/-- The slot in which a unit of an entry is scheduled: one unit a slot, 44 on a bridge (R203). -/
def scheduledSlot (h : HopId) (e : SlotEntry) : Nat :=
  match h with
  | .bridge _ _ => e.slot + e.sent / 44
  | _ => e.slot + e.sent

/-- The units that a hop sends in one slot (R203, R210). -/
def slotCap : HopId → Nat
  | .bridge _ _ => 44
  | _ => 1

/-- Whether the hop has room in the slot it is in: a late hop, too, sends no more in a slot than others (R203, R205, R210). -/
def slotFree (s : State) (h : HopId) : Bool :=
  let x := getHop s h
  decide (x.slot ≠ slotNow s h) || decide (x.used < slotCap h)

/-- Whether an entry of a table claims a slot (R203, R205). -/
def claimed (h : HopId) (tbl : List SlotEntry) (k : Nat) : Bool :=
  tbl.any (fun e => decide (e.slot ≤ k) && decide (k < e.slot + ceilDiv e.count (slotCap h)))

/-- The lateness of a hop as it stands: each free slot that passes while the hop has data ready takes one off (R205). -/
def latenessOf (s : State) (h : HopId) : Nat :=
  let x := getHop s h
  if x.verge.isEmpty then x.lateness
  else x.lateness -
    ((List.range (slotNow s h - x.since)).filter (fun i => !claimed h x.table (x.since + i))).length

/-- Whether a hop is late: its last unit trailed its slot, or the next one does already (R205). -/
def isLate (s : State) (h : HopId) : Bool :=
  let x := getHop s h
  decide (0 < latenessOf s h) ||
  (match x.verge, turnEntry x.table with
   | _ :: _, some e => decide (scheduledSlot h e < slotNow s h)
   | _, _ => false)

/-- Whether units beyond a full verge may wait in the replay buffer of a link: its hop is late (R206), or the link is narrow, so that
they come ahead of their turn (R261). -/
def mayWait (s : State) (h : HopId) (n : LinkId) : Bool := isLate s h || isNarrow (getLink s n.val)

/-! ### The verge (R206) -/

/-- The hop with one more unit in its verge; slots pass with data ready from the first on. -/
def joinVerge (s : State) (h : HopId) (u : RoadUnit) : Hop :=
  let x := getHop s h
  { x with verge := x.verge ++ [u], since := if x.verge.isEmpty then slotNow s h else x.since }

/-- Puts a unit into the verge, or past a full one into the replay buffer of a late or narrow link (R206, R261). -/
def enterVerge (s : State) (h : HopId) (u : RoadUnit) : State :=
  let x := getHop s h
  if x.verge.length < 16 then setHop s h (joinVerge s h u)
  else
    let lost := discardUnit (hopViolation s h 0x14 (slotFor s h) u.road.toNat) h u
    match h with
    | .linkTx n =>
      let l := getLink s n.val
      if mayWait s h n && decide (l.unacked.length + l.waiting.length + l.schQ.length < 8192) then
        setLink s n.val { l with waiting := l.waiting ++ [u] }
      else lost
    | .linkIn n => if mayWait s h n then setHop s h { x with verge := x.verge ++ [u] } else lost
    | _ => lost

/-- A unit takes its place at a hop; its checks come with its turn (R206, R207). -/
def admitUnit (s : State) (h : HopId) (u : RoadUnit) : State := if dropped s u then discardUnit s h u else enterVerge s h u

/-- A link ingress takes up units of the running milestone that came early, as its verge has room (R208); `n` bounds their
number. -/
def takeEarly : Nat → State → HopId → State
  | 0, s, _ => s
  | n + 1, s, h =>
    let x := getHop s h
    match x.early with
    | [] => s
    | u :: r =>
      if aheadOfTime s u = true ∨ 16 ≤ x.verge.length then s
      else takeEarly n (admitUnit (setHop s h { x with early := r }) h u) h

/-- Every link ingress takes up its early units. -/
def takeAllEarly (s : State) : State :=
  (List.finRange 24).foldl (fun s n => takeEarly (getHop s (.linkIn n)).early.length s (.linkIn n)) s

/-! ### Lines and flits (R204) -/

/-- The lines of the transfer that a road carries in the running frame: those of its send entry (R155, R204). -/
def roadLines (s : State) (road : Nat) : Nat :=
  match (frameNow s).sends.find? (fun e => decide (e.road = road)) with
  | some e => e.lines
  | none => 0

/-- What waits at a link hop of the transfer that a unit belongs to. -/
def packOf (x : Hop) (u : RoadUnit) : Pack :=
  (x.packs.find? (fun p => p.road == u.road && p.ms == u.ms)).getD { road := u.road, ms := u.ms }

/-- The hop with `p` in place of what waited of its transfer, or with nothing of it. -/
def putPack (x : Hop) (p : Pack) (more : Bool) : Hop :=
  let r := x.packs.filter (fun y => !(y.road == p.road && y.ms == p.ms))
  { x with packs := if more then r ++ [p] else r }

/-- Marks the last of a list of units. -/
def markLast (last : Bool) : List RoadUnit → List RoadUnit
  | [] => []
  | [u] => [{ u with last := last }]
  | u :: r => u :: markLast last r

/-- A line comes to a link transmitter: its bytes follow those before it, and a flit is whole with 240 bytes, or with the last line of
the transfer, whose flit is filled with zeros (R204; log 60). -/
def packLine (x : Hop) (total : Nat) (u : RoadUnit) : Hop × List RoadUnit :=
  let p := packOf x u
  let bytes := p.bytes ++ slice u.data 0 64
  let ends := u.last || decide (total ≤ p.lines + 1)
  let flit := fun (b : List Byte) => ({ u with last := false, data := slice b 0 240 } : RoadUnit)
  let whole := decide (240 ≤ bytes.length)
  let rest := if whole then bytes.drop 240 else bytes
  let out := (if whole then [flit bytes] else []) ++ (if ends && !rest.isEmpty then [flit rest] else [])
  (putPack x { p with bytes := rest, lines := p.lines + 1 } (!ends), markLast u.last out)

/-- The lines that a wire block fills, by what its COUNT and its descriptors announce (R87, R183). -/
def announcedLines (l : List Byte) : Option Nat :=
  match readBlock (num l 4 2) l with
  | .block _ _ _ used => some (ceilDiv used 64)
  | _ => none

/-- The lines of a transfer: no more than its send entry has, and of one that the mark END ends short, which is a wire block, those that the
block fills (R183, R204; log 60). -/
def transferLines (total : Nat) (last : Bool) (l : List Byte) : Nat :=
  if last then min total ((announcedLines l).getD total) else total

/-- A flit leaves a link ingress toward the dies: the lines of the transfer that its bytes make whole (R183, R184, R204; log 60). -/
def unpackFlit (x : Hop) (total : Nat) (u : RoadUnit) : Hop × List RoadUnit :=
  let p := packOf x u
  let new := slice u.data 0 240
  let bytes := p.bytes ++ new
  let seen := p.seen ++ new
  let n := transferLines total u.last seen
  let k := min (bytes.length / 64) (n - p.lines)
  let ends := u.last || decide (n ≤ p.lines + k)
  let out := (List.range k).map (fun i => ({ u with last := false, data := slice bytes (64 * i) 64 } : RoadUnit))
  (putPack x { p with bytes := bytes.drop (64 * k), lines := p.lines + k, seen := seen } (!ends), markLast u.last out)

/-- A unit reaches a hop from another on the chip: a line that reaches a link transmitter is packed first. -/
def takeUnit (s : State) (h src : HopId) (u : RoadUnit) : State :=
  match h, src with
  | .linkTx _, .linkIn _ => admitUnit s h u
  | .linkTx _, _ =>
    if dropped s u then s
    else
      let r := packLine (getHop s h) (roadLines s u.road.toNat) u
      r.2.foldl (fun s v => admitUnit s h v) (setHop s h r.1)
  | _, _ => admitUnit s h u

/-! ### Crossing FIFOs (R344, R348) -/

/-- Whether the crossing FIFO at the receiving end of a street hop is stopped. -/
def hopStopped (s : State) : HopId → Bool
  | .street d p =>
    match streetNeighbour d.val p.val with
    | some n => (getDist s n).stopped.contains (facing p.val)
    | none => false
  | _ => false

/-- The units on their way from a hop. -/
def inFlight (s : State) (h : HopId) : List Flight := s.flights.filter (fun f => f.src == h)

/-- Whether a hop is a street. -/
def isStreet : HopId → Bool
  | .street _ _ => true
  | _ => false

/-- The cycles that the die of a street has had, by which its crossing FIFOs are written and read. -/
def streetTurn (s : State) : HopId → Nat
  | .street d _ => SMap.get 0 s.clk.turn (quadOf d.val)
  | _ => 0

/-- The occupancy of the crossing FIFO of a street: four entries, more or less by its divergence (R344). -/
def fifoEntries (s : State) : HopId → Nat
  | .street d p =>
    match streetNeighbour d.val p.val with
    | some n => (4 + SMap.get 0 (getDist s n).delta (facing p.val)).toNat
    | none => 4
  | _ => 0

/-- Whether the entry of a crossing FIFO can be read: the FIFO is not stopped, it reads one entry in every cycle, and an entry comes to its
front as many cycles after it was written as the FIFO has entries (R344, R348). -/
def readable (s : State) (g : Flight) : Bool :=
  !isStreet g.src || g.isRead ||
  (!hopStopped s g.src && decide ((getHop s g.src).readAt ≤ streetTurn s g.src) &&
   decide (g.wrote + fifoEntries s g.src ≤ streetTurn s g.src))

/-- Whether a unit is the next from its source for a destination: units keep their order to each destination, and the entries of a crossing
FIFO are read in the order in which they were written. -/
def isNext (l : List Flight) (dest : Dest) (g : Flight) : Bool :=
  l.find? (fun k => k.src == g.src && (k.dests.contains dest || (isStreet g.src && !k.isRead))) == some g

/-- The first unit on its way to a destination that a test admits. -/
def nextFlight (s : State) (dest : Dest) (f : RoadUnit → Bool) : Option Flight :=
  s.flights.find? (fun g => g.dests.contains dest && f g.u && isNext s.flights dest g && readable s g)

/-- The flights with `g` in place of the first that equals `f`. -/
def putFlight (l : List Flight) (f g : Flight) : List Flight := l.set (l.findIdx (fun x => x == f)) g

/-- A unit has arrived at one of its destinations; the entry of a crossing FIFO is read with the first of them. -/
def landFlight (s : State) (f : Flight) (dest : Dest) : State :=
  let left := f.dests.erase dest
  let s := { s with flights := if left.isEmpty then s.flights.erase f else putFlight s.flights f { f with dests := left, isRead := true } }
  if isStreet f.src && !f.isRead then setHop s f.src { getHop s f.src with readAt := streetTurn s f.src + 1 } else s

/-- Whether a unit is on a street of a die. -/
def onStreet (q : Nat) (f : Flight) : Bool :=
  match f.src with
  | .street d _ => decide (quadOf d.val = q)
  | _ => false

/-- Whether a unit goes to a tile. -/
def toTile : Dest → Bool
  | .tile _ _ => true
  | .hop _ => false

/-- A unit that a crossing FIFO holds leaves it for each of its hops; on its way to a tile it stays on its way. -/
def deliverFlight (s : State) (f : Flight) : State :=
  let left := f.dests.filter toTile
  f.dests.foldl (fun s d =>
    match d with
    | .hop h => takeUnit s h f.src f.u
    | .tile _ _ => s)
    { s with flights := if left.isEmpty then s.flights.erase f else putFlight s.flights f { f with dests := left, isRead := true } }

/-- Delivers what the crossing FIFOs of a die hold, in order, each to its hops (R348 step 1). -/
def deliverStreets (s : State) (q : Nat) : State := (s.flights.filter (onStreet q)).foldl deliverFlight s

end Sys2Proof.Machine
end

