-- ==== Sys2Proof/Machine/Clock.lean ====
section
/-! DEFINITION. The clock commands (R343 to R349, R355): stretches, crossing alerts, realignment and the loss of a clock. -/

namespace Sys2Proof.Machine

/-- Whether the clocks of a quadrant die run: no reset is asserted, its root PLL is locked, and the device is not in FAULT. -/
def clocksRun (s : State) (q : Nat) : Bool :=
  s.porstN && s.wrstN && s.dev != .fault && s.clk.locks.getLsbD q

/-- Raises MAXDIV of a die to a divergence (R357). -/
def noteDivergence (s : State) (q : Nat) (v : Int) : State :=
  let a := clkBase q + 4
  let r := getReg s a
  setReg s a (putMask r (at_ (max (bits r 2 0) (min 7 v.natAbs)) 0) 7)

/-- The divergence of a district's crossing FIFO moves by one entry, or not, as the phases have it; stretches leave it within 2
(R344, R347). -/
def moveDelta (s : State) (d port : Nat) (by_ : Int) : State :=
  let x := getDist s d
  if (streetNeighbour d port).isNone || x.stopped.contains port || !Config.crossingMoves s.fresh d port then s
  else
    let v := max (-2) (min 2 (SMap.get 0 x.delta port + by_))
    noteDivergence (setDist s d { x with delta := SMap.set 0 x.delta port v }) (quadOf d) v

/-- A period of district d is stretched: it reads its own crossing FIFOs and writes its neighbours' later. -/
def stretchFifos (s : State) (d : Nat) : State :=
  takeFresh ((List.range 4).foldl (fun s port =>
    let s := moveDelta s d port 1
    match streetNeighbour d port with
    | some n => moveDelta s n (facing port) (-1)
    | none => s) s)

/-- A district takes one event, of 150% when `deep`, else of 125%: its next period is stretched (R346, R347); `cnt` is the offset of the
counter. -/
def takeEvent (s : State) (d cnt : Nat) (deep : Bool) : State :=
  let x := getDist s d
  let m : BitVec 8 := 1 <<< x.event.toNat
  let s := setDist s d { x with
    event := x.event + 1, stretched := x.stretched + 1, lag := x.lag + (if deep then 2 else 1),
    deep := if deep then x.deep ||| m else x.deep &&& ~~~m }
  stretchFifos (bump s (dstBase d + cnt) 1) d

/-- Margin k of a word of four. -/
def marginOf (w : Word) (k : Nat) : Nat := bits w (8 * k + 7) (8 * k)

/-- The least of the four margins (R345). -/
def leastMargin (w : Word) : Nat := (List.range 4).foldl (fun m k => min m (marginOf w k)) 255

/-- The lower of two margins, monitor by monitor. -/
def minMargins (a b : Word) : Word :=
  (List.range 4).foldl (fun (w : Word) k => w ||| at_ (min (marginOf a k) (marginOf b k)) (8 * k)) 0

/-- OWN_STRETCH (R345, R346, R358): the monitors of a district report, and a margin below STRETCH_PS stretches by 25%, one below CRIT_PS
by 50%. -/
def execOwnStretch (d : Fin 144) (margins : Word) (s : State) : Host.Outcome State Fault Refusal :=
  .next (
    if clocksRun s (quadOf d.val) then
      let x := getDist s d.val
      let s := setReg s (dstBase d.val + 0xF104) margins
      let s := setDist s d.val { x with minNow := minMargins x.minNow margins }
      let cfg := getReg s 0x00030008
      if leastMargin margins < bits cfg 15 8 then takeEvent s d.val 0xF118 (decide (leastMargin margins < bits cfg 7 0)) else s
    else s)

/-- Whether event count `a` is ahead of `b`, modulo 8 (R347). -/
def eventAhead (a b : BitVec 3) : Bool := decide (0 < (a - b).toInt)

/-- SYMPATHETIC_STRETCH (R347): the district takes an event of the neighbour at a port whose count is ahead, by the amount of that
event. -/
def execSympatheticStretch (d : Fin 144) (port : Fin 4) (s : State) : Host.Outcome State Fault Refusal :=
  .next (
    match streetNeighbour d.val port.val with
    | some n =>
      let e := (getDist s d.val).event
      if clocksRun s (quadOf d.val) && eventAhead (getDist s n).event e then
        takeEvent s d.val 0xF120 ((getDist s n).deep.getLsbD e.toNat)
      else s
    | none => s)

/-- CROSSING_ALERT (R348, R357): the crossing FIFO on a port of the receiving district reaches +3 or -3. -/
def execCrossingAlert (d : Fin 144) (port : Fin 4) (plus : Bool) (s : State) : Host.Outcome State Fault Refusal :=
  .next (
    let q := quadOf d.val
    if clocksRun s q && (streetNeighbour d.val port.val).isSome && !(getDist s d.val).stopped.contains port.val then
      let x := getDist s d.val
      let s := setDist s d.val { x with
        delta := SMap.set 0 x.delta port.val (if plus then 3 else -3), stopped := x.stopped ++ [port.val] }
      let s := noteDivergence s q 3
      let a := clkBase q + 4
      let s := setReg s a (putMask (getReg s a) (0x80000000 ||| at_ d.val 8 ||| at_ port.val 6) 0x8000FFC0)
      raiseCause (report s 0x12 [getReg s a, BitVec.ofNat 32 q]) 3
    else s)

/-- Whether a crossing FIFO of the die is stopped. -/
def dieStopped (s : State) (q : Nat) : Bool := (dieDistricts q).any (fun d => !(getDist s d).stopped.isEmpty)

/-- REALIGNMENT (R215, R348): of a die with a stopped crossing FIFO, once it is frozen and CROSSING has its turn: its FIFOs deliver what
they hold, and start afresh. -/
def execRealignment (q : Fin 4) (s : State) : Host.Outcome State Fault Refusal :=
  .next (
    if clocksRun s q.val && frozen s && dieStopped s q.val && inTurn s 3 then realignDie (deliverStreets s q.val) q.val else s)

/-- The bit of `locks` of a PLL; none for an input clock. -/
def lockBit : ClockSource → Option Nat
  | .refclk => none
  | .timeclk => none
  | .hubPll => some 4
  | .timePll => some 5
  | .hbmPll q => some (6 + q.val)
  | .lpddrPll => some 10
  | .bundlePll b => some (11 + b.val)
  | .hostPll => some 17
  | .mgtPll => some 18
  | .rootPll q => some q.val

/-- Whether the MAC of a port loses its clock with a source (R340, R355). -/
def stopsPort (p : PortId) : ClockSource → Bool
  | .timeclk => true
  | .hostPll => decide (p = .host)
  | .mgtPll => decide (p = .mgt)
  | _ => false

/-- CLOCK_LOSS (R355): its bit of CLK_STATUS clears and the device enters FAULT; the report has no port to leave by when the
management port has lost its clock. A device that WRST_N holds in reset enters no FAULT, since FAULT_N is high-impedance then and FAULT_N is
low while STATE reads FAULT (R461, R466; log 144, DEDUCED). -/
def execClockLoss (c : ClockSource) (s : State) : Host.Outcome State Fault Refusal :=
  .next (
    if s.porstN then
      let k := s.clk
      let k := match c with
        | .refclk => { k with refOk := false }
        | .timeclk => { k with timeOk := false }
        | _ => k
      let k := match lockBit c with
        | some b => { k with locks := k.locks &&& ~~~((1 : BitVec 19) <<< b) }
        | none => k
      let s := { s with clk := k }
      let s := { s with ports := { s.ports with
        hostUp := s.ports.hostUp && !stopsPort .host c, mgtUp := s.ports.mgtUp && !stopsPort .mgt c } }
      if s.wrstN then enterFault s 2 else s
    else s)

end Sys2Proof.Machine
end

