-- ==== Sys2Proof/Machine/Flags.lean ====
section
/-! DEFINITION. The predicates an instruction computes: the comparisons of SCMP and VCMP (R138, R179), the logic of PRED
(R139), the test of BR (R147), and the bits of a predicate that a guarded compare leaves unchanged. -/

namespace Sys2Proof.Machine

/-- Sets bit k of p[r] to `f k` for each listed k and leaves every other bit unchanged (R138, R179). -/
def writePred (x : Group) (r : Nat) (ks : List Nat) (f : Nat → Bool) : Group :=
  setP x r (ks.foldl (fun (w : DWord) k =>
    if f k then w ||| ((1 : DWord) <<< k) else w &&& ~~~((1 : DWord) <<< k)) (pReg x r))

/-- The condition of SCMP (R138). -/
def scmpCond (fn : Nat) (a b : DWord) : Bool :=
  if fn = 0 then a == b
  else if fn = 1 then a != b
  else if fn = 2 then a.slt b
  else if fn = 3 then a.sle b
  else if fn = 4 then a.ult b
  else a.ule b

/-- The value of PRED (R139). -/
def predVal (fn : Nat) (a b : DWord) (imm : BitVec 32) : DWord :=
  if fn = 0 then a &&& b
  else if fn = 1 then a ||| b
  else if fn = 2 then a ^^^ b
  else if fn = 3 then a &&& ~~~b
  else imm ++ imm

/-- a < b as binary32, false when either is NaN (R179). -/
def lt32 (a b : Word) : Bool :=
  let x := dec32 a
  let y := dec32 b
  if x.1 = .nan ∨ y.1 = .nan then false
  else if x.1 = .finite ∧ y.1 = .finite then decide ((addDyadic x.2 ⟨-y.2.n, y.2.e⟩).n < 0)
  else x.1 != y.1 && (x.1 == .ninf || y.1 == .pinf)

/-- a = b as binary32, with -0 = +0 and NaN unequal to everything (R179). -/
def eq32 (a b : Word) : Bool := !isNan32 a && !isNan32 b && (a == b || (isZero32 a && isZero32 b))

/-- The condition of VCMP (R179). -/
def vcmpCond (fn : Nat) (a b : Word) : Bool :=
  if fn = 0 then eq32 a b
  else if fn = 1 then lt32 a b
  else if fn = 2 then lt32 a b || eq32 a b
  else if fn = 8 then a == b
  else if fn = 9 then a.slt b
  else a.ult b

/-- Whether BR is taken (R147). -/
def brTaken (all wide : Bool) (G : DWord) : Bool :=
  let m : DWord := if wide then 0xFFFFFFFFFFFFFFFF else 0x00000000FFFFFFFF
  if all then G &&& m == m else G &&& m != 0

end Sys2Proof.Machine
end

