-- ==== Sys2Proof/Machine/Control.lean ====
section
/-! DEFINITION. Control instructions, tollgates, seeds and counter reads (R147 to R152, R159, R160). -/

namespace Sys2Proof.Machine

/-- BR (R147): when taken, the group continues at its own address plus OFFSET, with no loop completed (R148). -/
def execBr (t : TileRef) (g : GroupId) (gd : Guard) (all wide : Bool) (offset : BitVec 24) (s : State) :
    Host.Outcome State Fault Refusal :=
  .next (
    if canIssue s t g.val .scalar then
      let y := getGroup (getTile s t) g.val
      let s := countIssue s t g.val .scalar
      if brTaken all wide (guardOf y gd) then putGroup s t g.val { y with ia := ((y.ia : Int) + offset.toInt).toNat, waited := 0, needs := .none }
      else putGroup s t g.val (advance y)
    else s)

/-- LOOP (R148): a count of zero skips the body as if its last word had just completed its final pass. -/
def loopGroup (y : Group) (count body : Nat) : Group :=
  if count = 0 then
    let n := completeWord y.loops (y.ia + body)
    { y with ia := n.1, loops := n.2, waited := 0, needs := .none }
  else { y with ia := y.ia + 1, waited := 0, needs := .none, loops := { first := y.ia + 1, last := y.ia + body, left := count } :: y.loops }

/-- LOOP (R148). -/
def execLoop (t : TileRef) (g : GroupId) (i : Bool) (body : BitVec 16) (imm : BitVec 32) (s : State) :
    Host.Outcome State Fault Refusal :=
  decoded (WellFormed.instr (.loop t g i body imm))
    (let y := getGroup (getTile s t) g.val
     let r := imm.toNat % 64
     if canIssue s t g.val .scalar && regsFree y (if i then [] else [r]) [] then
       putGroup (countIssue s t g.val .scalar) t g.val
         (loopGroup y (if i then imm.toNat else (sReg y r 0).toNat) body.toNat)
     else s)

/-- NOP (R150): no effect but the group's progress. -/
def execNop (t : TileRef) (g : GroupId) (s : State) : Host.Outcome State Fault Refusal :=
  .next (issueGroup s t g.val .scalar [] [] (fun y => y))

/-- The group waits, and tollgates that its wait completes are settled. -/
def waitGroup (s : State) (t : TileRef) (g : Nat) (w : Wait) : State :=
  if canIssue s t g .scalar then
    settleTolls (putGroup (countIssue s t g .scalar) t g { advance (getGroup (getTile s t) g) with wait := w, tollAt := s.sch.jobMs }) t.d
  else s

/-- MS.END (R150): no instruction to issue until the next boundary. -/
def execMsEnd (t : TileRef) (g : GroupId) (s : State) : Host.Outcome State Fault Refusal :=
  .next (waitGroup s t g.val .msEnd)

/-- STOP (R150): no instruction to issue until the next step. -/
def execStop (t : TileRef) (g : GroupId) (s : State) : Host.Outcome State Fault Refusal :=
  .next (waitGroup s t g.val .stop)

/-- TOLL (R151, R152): the group waits; a GROUP, TILE or DISTRICT tollgate that can complete does so at once. -/
def execToll (t : TileRef) (g : GroupId) (scope : BitVec 3) (s : State) : Host.Outcome State Fault Refusal :=
  decoded (decide (scope.toNat ≤ 4)) (waitGroup s t g.val (.toll scope.toNat))

/-- RNG.SEED (R159). -/
def execRngSeed (t : TileRef) (g : GroupId) (i : Bool) (imm : BitVec 32) (s : State) :
    Host.Outcome State Fault Refusal :=
  let r := imm.toNat % 64
  decoded (WellFormed.instr (.rngSeed t g i imm))
    (issueGroup s t g.val .scalar (if i then [] else [r]) [] (fun y =>
      { y with seedSlot := if i then imm.setWidth 8 else (sReg y r 0).setWidth 8 }))

/-- A counter as CNT.SNAP reads it (R160). -/
def snapCounter (c : Counter) : DWord := BitVec.ofNat 64 (c.n + flag c.ovf * 2 ^ 63)

/-- The value of a CNT.SNAP source (R160). -/
def snapVal (s : State) (t : TileRef) (src : Nat) : DWord :=
  if src = 0 then BitVec.ofNat 64 s.sch.milestone
  else if src = 1 then BitVec.ofNat 64 s.sch.position
  else if src = 2 then BitVec.ofNat 64 (districtCyc s t.d.val)
  else if src = 3 then (localTime s).setWidth 64
  else snapCounter (getCnt s (tileBase t.d.val (posOf s t) + 0x10 + 8 * (src - 0x10)))

/-- CNT.SNAP (R160): every thread's s[D] takes the value of the source as it stands before the instruction issues: ISSUE_CNT does not
count it yet (log 92, DESIGN CHOICE). -/
def execCntSnap (t : TileRef) (g : GroupId) (d : BitVec 6) (imm : BitVec 32) (s : State) :
    Host.Outcome State Fault Refusal :=
  decoded (WellFormed.cntSnap imm)
    (issueGroup s t g.val .scalar [d.toNat] [] (fun y =>
      writeThreads y d.toNat (List.range 32) (fun _ => snapVal s t imm.toNat)))

end Sys2Proof.Machine
end

