-- ==== Sys2Proof/Machine/Departures.lean ====
section
/-! DEFINITION. Departures and arrivals at a tile (R106, R110, R111, R157, R183, R184, R206, R211, R310, R318, R323). -/

namespace Sys2Proof.Machine

/-! ### Departures (R157, R206) -/

/-- The hops a road leaves in the committed content, on this chip and beyond (R222). -/
def roadHops (s : State) (road : Nat) : List (Nat × HopDef) :=
  match committedSlot s with
  | some x =>
    match x.content.roads.find? (fun r => decide (r.road = road)) with
    | some r => r.hops
    | none => []
  | none => []

/-- Whether a hop takes the lines of a tile of district d: its streets, its local switch, or the bridge of its die (R15, R210). -/
def leavesTile (d : Fin 144) (h : HopDef) : Bool := decide (h = .localSwitch d) || joined (.localSwitch d) h

/-- The first hop of a road: the one it lists first (R203); a road that lists none, or that first lists a hop that the tile's district does
not reach, leaves by the local switch of the district (log 88, DESIGN CHOICE). -/
def firstHop (s : State) (t : TileRef) (road : Nat) : HopId :=
  match roadHops s road with
  | (l, h) :: _ => if l = s.sch.lchip ∧ leavesTile t.d h = true then (resolveHop s h).getD (.localSwitch t.d) else .localSwitch t.d
  | [] => .localSwitch t.d

/-- The room of a verge (R206). -/
def vergeRoom (h : Hop) : Nat := 16 - h.verge.length

/-- The lines of a departure that leave now, as units of the road: as many as the first hop's verge has room for; HOPS
starts at the road's hops less one, so that it is 0 at the last hop. -/
def departUnits (s : State) (x : Tile) (zero : Bool) (road line n lines : Nat) (last : Bool) : List RoadUnit :=
  (List.range n).map (fun i =>
    { road := BitVec.ofNat 16 road, ms := BitVec.ofNat 8 s.sch.jobMs,
      hops := BitVec.ofNat 8 ((roadHops s road).length - 1), last := last && decide (i + 1 = lines),
      data := if zero then List.replicate 64 0 else spadRead x (64 * (line + i)) 64 })

/-- Hands lines of a PENDING entry to the verge of the first hop of the road (R206); with the last line the lock ends (R157). -/
def depart (s : State) (t : TileRef) (e : SendEntry) (zero : Bool) (first line lines : Nat) (last : Bool) : State :=
  let x := getTile s t
  let hop := firstHop s t e.road
  let n := min lines (vergeRoom (getHop s hop))
  let us := departUnits s x zero e.road line n lines last
  let s := if zero then s else useLines s t bankDeparture false (lineSpan line n)
  let s := us.foldl (fun s u => admitUnit s hop u) s
  if n = lines then
    let x := setSend (getTile s t) e.sid .departed
    setTile s t { x with locks := x.locks.filter (fun p => decide (p.who ≠ .send e.sid)) }
  else setTile s t (setSend (getTile s t) e.sid (.pending first (line + n) (lines - n) last))

/-- Whether the departure cycle of an entry has come, in the cycles of its district (R155, R191). -/
def departsNow (s : State) (t : TileRef) (e : SendEntry) : Bool := decide (e.depart ≤ districtCyc s t.d.val)

/-- DEPARTURE (R157): from its departure cycle on, the source lines of a PENDING entry are read into the first hop's verge as it has
room; the tiles of a partition that was reset send lines of zero (R310). A frozen chip's departures wait (R211), and a shadow has none
(R318). -/
def execDeparture (t : TileRef) (sid : BitVec 9) (s : State) : Host.Outcome State Fault Refusal :=
  .next (
    if t.shadow || !atWork s || frozen s || s.sch.forced then s
    else
      let x := getTile s t
      match sendEntry x sid.toNat with
      | none => s
      | some e =>
        if !departsNow s t e then s
        else
          match e.state with
          | .pending first line lines last => depart s t e x.forced first line lines last
          | .idle => if x.forced then depart s t e true 0 0 e.lines false else s
          | .encoding _ => if x.forced then depart s t e true 0 0 e.lines false else s
          | _ => s)

/-- SLOT_MISSED (R157, R183): the entry was not issued by the end of its departure cycle. A shadow has no departure cycle
(R318); after a RETRACE decision or in a partition that was reset none is raised (R216, R310). -/
def execSlotMissed (t : TileRef) (sid : BitVec 9) (s : State) : Host.Outcome State Fault Refusal :=
  .next (
    let x := getTile s t
    if t.shadow || x.forced || s.sch.forced || !atWork s then s
    else
      match sendEntry x sid.toNat with
      | none => s
      | some e =>
        let miss := sendViolation (setTile s t (setSend x sid.toNat .missed)) t 0x11 sid.toNat e.road
        if !departsNow s t e then s
        else
          match e.state with
          | .idle => miss
          | .encoding _ => miss
          | _ => s)

/-! ### Arrivals (R106, R110, R111, R184, R323) -/

/-- A line written into a tile's entry (R106, R111, R184): its tags clear, and the entry becomes LANDED with its last
line, or with the line that ends a wire block. -/
def landLine (x : Tile) (e : Arrival) (idx : Nat) (data : List Byte) (last : Bool) : Tile :=
  let line := e.line + idx
  let x := clearTags (spadWrite x (64 * line) (slice data 0 64)) [line]
  let got := addTo e.got idx
  let landed := decide (got.length = e.count) || (last && e.mark == .wire)
  { x with
    arrivals := x.arrivals.map (fun a => if a.tag = e.tag then { a with got := got, landed := a.landed || landed } else a)
    groups := x.groups.map (fun p =>
      if landed ∧ p.2.wait = .recv e.tag then (p.1, { p.2 with wait := .none }) else p) }

/-- A line in the entry with a tag, if the tile has one. -/
def landTag (s : State) (t : TileRef) (tag : Nat) (u : RoadUnit) : State :=
  match (getTile s t).arrivals.find? (fun e => decide (e.tag = tag)) with
  | some e =>
    let line := e.line + e.got.length
    useLines (setTile s t (landLine (getTile s t) e e.got.length u.data u.last)) t bankArrival true [line]
  | none => s

/-- Lands a line that reaches a tile: in its entry and in its shadow's, as the next line of the entry (log 89, DEDUCED); a line with no
entry, or beyond its entry, raises SLOT_COLLISION at the hop that delivers it (R110, R207). -/
def landUnit (s : State) (t : TileRef) (tag : Nat) (src : HopId) (u : RoadUnit) : State :=
  match (getTile s t).arrivals.find? (fun e => decide (e.tag = tag)) with
  | none => hopViolation s src 0x10 0 u.road.toNat
  | some e =>
    if e.count ≤ e.got.length then hopViolation s src 0x10 0 u.road.toNat
    else
      let s := landTag s t tag u
      let s := match shadowOf s t with
        | some v => landTag s v tag u
        | none => s
      comparePeers s t

/-- LINE_ARRIVAL (R110, R111, R318, R323): the next line on its way to the tag arrives; the shadow receives every line too; a
partition that was reset, or a milestone abandoned by a RETRACE decision, discards it (R207, R310). -/
def execLineArrival (t : TileRef) (tag : BitVec 9) (s : State) : Host.Outcome State Fault Refusal :=
  .next (
    let t : TileRef := { t with shadow := false }
    match nextFlight s (.tile t tag.toNat) (fun _ => decide (s.dev ≠ .fault)) with
    | none => s
    | some f =>
      let s := landFlight s f (.tile t tag.toNat)
      if (getTile s t).forced || s.sch.forced || dropped s f.u then s else landUnit s t tag.toNat f.src f.u)

end Sys2Proof.Machine
end

