-- ==== Sys2Proof/Machine/Engine.lean ====
section
/-! DEFINITION. The three engines of a tile (R165 to R188): what each engine instruction reads and writes, its checks at
issue, the interlock, its checks when it starts, and its effect when it ends. -/

namespace Sys2Proof.Machine

/-! ### What an engine instruction touches -/

/-- The tile-state uses of an engine instruction (R107). XLD replaces an accumulator as a clear does and XST reads it
(DEDUCED, log 15). -/
def usesOf : EngOp → List Use
  | .tld f _ => [.tWrite f.t.toNat]
  | .xclr x _ => [.xClear x]
  | .xld x _ => [.xClear x]
  | .xst x _ => [.xRead x]
  | .mma f _ => [.tRead f.ta.toNat, .tRead f.tb.toNat, .xAccum f.x.toNat]
  | .rnd f _ _ _ => [.xRead f.x.toNat]
  | .pack f => [.xRead f.x.toNat]
  | .add f => [.xAccum f.x.toNat]
  | .fcomb _ _ => []
  | .chkRow f => [.tRead f.ta.toNat, .tRead f.tb.toNat, .xAccum f.x.toNat]
  | .chkCol f => [.tRead f.ta.toNat, .tRead f.tb.toNat, .xAccum f.x.toNat]
  | .chkCmp x _ _ => [.xRead x]

/-- The registers of tile state of R165: operand tiles, accumulators and check registers. -/
inductive Part where
  | t (r : Nat) | x (r : Nat) | chk (r : Nat)
deriving DecidableEq, Repr

/-- What an engine instruction reads (R165). -/
def partsRead : EngOp → List Part
  | .tld _ _ => []
  | .xclr _ _ => []
  | .xld _ _ => []
  | .xst x _ => [.x x]
  | .mma f _ => [.t f.ta.toNat, .t f.tb.toNat, .x f.x.toNat]
  | .rnd f _ _ _ => [.x f.x.toNat]
  | .pack f => [.x f.x.toNat]
  | .add f => [.x f.x.toNat, .chk f.x.toNat]
  | .fcomb _ _ => []
  | .chkRow f => [.t f.ta.toNat, .t f.tb.toNat, .chk f.x.toNat]
  | .chkCol f => [.t f.ta.toNat, .t f.tb.toNat, .chk f.x.toNat]
  | .chkCmp x _ _ => [.x x, .chk x]

/-- What an engine instruction writes (R165). -/
def partsWritten : EngOp → List Part
  | .tld f _ => [.t f.t.toNat]
  | .xclr x _ => [.x x, .chk x]
  | .xld x _ => [.x x, .chk x]
  | .xst _ _ => []
  | .mma f _ => [.x f.x.toNat]
  | .rnd _ _ _ _ => []
  | .pack _ => []
  | .add f => [.x f.x.toNat, .chk f.x.toNat]
  | .fcomb _ _ => []
  | .chkRow f => [.chk f.x.toNat]
  | .chkCol f => [.chk f.x.toNat]
  | .chkCmp _ _ _ => []

/-- Whether the instruction takes its checks, tags and locks when it starts, not at issue (R166, R185). -/
def lateChecks : EngOp → Bool
  | .add _ => true
  | .fcomb _ _ => true
  | _ => false

/-! ### Issue -/

/-- The entries of an engine's queue, counting the one that runs (R165, R182). -/
def queueCap : EngineId → Nat
  | .array => 2
  | .operand => 4
  | .xred => 4

/-- The queue of an engine. -/
def queueOf (x : Tile) (e : EngineId) : List QueuedOp := x.queue.filter (fun q => decide (q.engine = e))

/-- Adds the lock of a span that an instruction reads. -/
def addSpan (l : List Span) (id : Nat) : Option Lines → List Span
  | some p => l ++ [{ first := p.1, count := p.2, who := .op id }]
  | none => l

/-- What an engine instruction raises at issue, if anything (R104, R106, R107, R111, R166): of several checks that fail one alone, a conflict on
tile state before its read lines in ascending order and these before its write lines (log 139, DESIGN CHOICE). -/
def issueCheck (x : Tile) (g : Nat) (op : EngOp) : Option (Nat × Nat) :=
  match (usesOf op).find? (useConflict x g) with
  | some u => some (4, useLine u)
  | none =>
    if lateChecks op then none
    else
      match firstCheck x g false none (spanLines (readSpan x false op)) with
      | some v => some v
      | none => firstCheck x g true none (spanLines (writeSpan x false op))

/-- The tile with an engine instruction of group g queued, its uses noted, its write lines tagged and its lines locked
(R106, R107, R166). -/
def enqueue (x : Tile) (g : Nat) (e : EngineId) (op : EngOp) : Tile :=
  let id := x.nextOp
  let x := (usesOf op).foldl (fun x u => noteUse x g u) x
  let x := if lateChecks op then x
    else
      let x := tagLines x g (spanLines (writeSpan x false op))
      { x with locks := addSpan x.locks id (readSpan x false op) }
  { x with nextOp := id + 1, queue := x.queue ++ [{ id := id, engine := e, group := g, op := op }] }

/-- The pages an engine instruction touches that are in no frame. -/
def opMissing (x : Tile) (wide : Bool) (op : EngOp) : List Nat :=
  missingPages x (spanLines (readSpan x wide op) ++ spanLines (writeSpan x wide op))

/-- Whether a queued instruction of the group's own is still to end with a line of two spans, one to be read and one to be written: such
lines count as registers of the group (R166). -/
def spansHeld (x : Tile) (g : Nat) (rd wr : Option Lines) : Bool :=
  x.queue.any (fun q => decide (q.group = g) && (overlap (writes x q) rd || overlap (writes x q) wr || overlap (reads x q) wr))

/-- Whether a queued instruction of the group's own is still to end with a line that the instruction touches. -/
def ownHolds (x : Tile) (g : Nat) (op : EngOp) : Bool := spansHeld x g (readSpan x false op) (writeSpan x false op)

/-- The port of an engine (R101, R162). -/
def portOf : EngineId → Port
  | .array => .matrix
  | .operand => .matrix
  | .xred => .transfer

/-- The issue of an engine instruction: when the group is ready and the queue has a free entry, it is queued and the
group continues; a violation at issue leaves everything unchanged (R136, R165, R166). A group whose own engine instructions still touch
its lines, and an MMA that finds the queue of the matrix unit full, are not ready (R100, R166). -/
def issueEngine (s : State) (t : TileRef) (g : Nat) (e : EngineId) (ss vs : List Nat) (op : EngOp) : State :=
  let x := getTile s t
  if canIssue s t g (portOf e) && regsFree (getGroup x g) ss vs then
    if ownHolds x g op then noteNeed s t g (.own (readSpan x false op) (writeSpan x false op))
    else if queueCap e ≤ (queueOf x e).length then (if e = .array then noteNeed s t g .queue else s)
    else if !(opMissing x false op).isEmpty then awaitPages s t g (opMissing x false op)
    else
      let s := countIssue s t g (portOf e)
      match issueCheck (getTile s t) g op with
      | some v => tileViolation s t v.1 g v.2 []
      | none => advanceGroup (setTile s t (enqueue (getTile s t) g e op)) t g
  else s

/-! ### The interlock (R165) -/

/-- Whether instruction `b`, as things stand, waits for the earlier-issued instruction `a` (R165). -/
def waitsFor (x : Tile) (a : QueuedOp) (b : EngOp) : Bool :=
  (partsWritten a.op).any (fun p => (partsRead b).contains p || (partsWritten b).contains p) ||
  (partsRead a.op).any (fun p => (partsWritten b).contains p && (match p with | .chk _ => false | _ => true)) ||
  overlap (writes x a) (readSpan x (imageWide x b) b) || overlap (writes x a) (writeSpan x (imageWide x b) b) ||
  overlap (reads x a) (writeSpan x (imageWide x b) b)

/-- The instruction that an engine may start now. -/
def startable (x : Tile) (e : EngineId) : Option QueuedOp :=
  match queueOf x e with
  | [] => none
  | q :: _ =>
    if q.started || !landedFor x q.op || (earlier x q.id).any (fun a => waitsFor x a q.op) then none else some q

/-! ### Checks when an instruction starts -/

/-- Replaces an accumulator. -/
def setAcc (x : Tile) (r : Nat) (a : Acc) : Tile := { x with x := SMap.set {} x.x r a }
/-- An operand tile. -/
def getOp (x : Tile) (r : Nat) : OpTile := SMap.get {} x.t r

/-- The lines an XLD or XST has beyond an EXS-96 image, when its image is EXS-576 (R166). -/
def extraLines (x : Tile) : EngOp → List Nat
  | .xst r ea => if imageWide x (.xst r ea) then lineSpan (ea / 64 + 1025) 4096 else []
  | .xld r ea => if imageWide x (.xld r ea) then lineSpan (ea / 64 + 1025) 4096 else []
  | _ => []

/-- Whether an MMA's combined scales stay inside R79 (R173). -/
def scalesOk (x : Tile) (f : PairFields) : Bool :=
  let fa := f.fa.toNat
  if isMx fa then
    let a := getOp x f.ta.toNat
    let b := getOp x f.tb.toNat
    (List.range 64).all (fun i => (List.range 64).all (fun j => (List.range 2).all (fun k =>
      let sa := scaleOf a i k
      let sb := scaleOf b j k
      decide (sa = 0xFF) || decide (sb = 0xFF) ||
      scaleAllowed (fmtOf fa) (fmtOf f.fb.toNat) (((sa : Int) - 127) + ((sb : Int) - 127)))))
  else true

/-- The lines ADD reads of its block. -/
def addLines (x : Tile) (f : XredFields) : List Nat := lineSpan f.line.toNat (addCount x f)

/-- What an instruction raises when it starts, if anything (R79, R81, R88, R136, R166, R171, R173, R185). -/
def startCheck (x : Tile) (q : QueuedOp) : Option (Nat × Nat) :=
  match q.op with
  | .mma f kind =>
    let a := getAcc x f.x.toNat
    if termLimit (kind || a.wide) < a.terms + 64 then some (6, 8 + f.x.toNat)
    else if !scalesOk x f then some (5, 8 + f.x.toNat)
    else none
  | .xst _ _ => firstCheck x q.group true none (extraLines x q.op)
  | .xld r ea =>
    match firstCheck x q.group false none (extraLines x q.op) with
    | some v => some v
    | none =>
      let base := ea / 64 * 64
      let wide := (SMap.get 0 x.spad (base + 4)).getLsbD 0
      if termLimit wide < num (spadRead x base 4) 0 4 then some (6, 8 + r) else none
  | .add f =>
    match firstCheck x q.group false (some f.idx.toNat) (addLines x f) with
    | some v => some v
    | none =>
      match addBlock x f with
      | .bad _ => some (7, f.line.toNat)
      | .short => if (entryOf x f.idx.toNat).isSome then some (7, f.line.toNat) else some (1, spadEnd x / 64)
      | .block terms wide _ _ =>
        let a := getAcc x f.x.toNat
        if termLimit (wide || a.wide) < a.terms + terms then some (6, 8 + f.x.toNat) else none
  | .fcomb f _ => firstCheck x q.group false (some f.tag.toNat) (lineSpan f.line.toNat 4)
  | _ => none

/-- The tags and locks an instruction adds when it starts (R166). -/
def startSpans (x : Tile) (q : QueuedOp) : Tile :=
  match q.op with
  | .xst _ _ => tagLines x q.group (extraLines x q.op)
  | .xld _ ea => if (extraLines x q.op).isEmpty then x else { x with locks := addSpan x.locks q.id (some (ea / 64 + 1025, 4096)) }
  | .add f => { x with locks := addSpan x.locks q.id (some (f.line.toNat, addCount x f)) }
  | .fcomb f _ => { x with locks := addSpan x.locks q.id (some (f.line.toNat, 4)) }
  | _ => x

/-- Replaces an entry of the queue. -/
def setQueued (x : Tile) (q : QueuedOp) : Tile :=
  { x with queue := x.queue.map (fun p => if p.id = q.id then q else p) }

/-- ENGINE_INSTRUCTION_START (R115, R165, R166, R136): the instruction at the head of the engine's queue starts once the
interlock and its arrival let it and its pages are in frames, all of them at once (log 116, DESIGN CHOICE); a violation leaves every
destination unchanged. -/
def execEngineStart (t : TileRef) (e : EngineId) (s : State) : Host.Outcome State Fault Refusal :=
  .next (
    if !atWork s || frozen s then s
    else
      let x := getTile s t
      match startable x e with
      | none => s
      | some q =>
        let missing := opMissing x (imageWide x q.op) q.op
        if !missing.isEmpty then wantPages s t missing
        else
          match startCheck x q with
          | some v =>
            tileViolation (setTile s t (setQueued x { q with started := true, failed := true })) t v.1 q.group v.2 []
          | none =>
            let x := touchLines x false (spanLines (readSpan x (imageWide x q.op) q.op))
            setTile s t (setQueued (startSpans x q) { q with started := true }))

/-! ### Effects -/

/-- The effect of MMA on its accumulator (R173). -/
def mmaAcc (x : Tile) (f : PairFields) (kind : Bool) : Acc :=
  let a := getAcc x f.x.toNat
  let a := if kind then widen a else a
  let ta := getOp x f.ta.toNat
  let tb := getOp x f.tb.toNat
  { a with
    terms := a.terms + 64
    elems := tabulate {} 4096 (fun n =>
      (List.range 64).foldl (fun e k =>
        exsAcc a.wide e (product (elem ta f.fa.toNat (n / 64) k) (elem tb f.fb.toNat (n % 64) k)))
        (SMap.get {} a.elems n)) }

/-- The rounding mode of a MODE field (R174). -/
def rndOf (m : Nat) : Rnd := if m = 0 then .rne else if m = 1 then .rtz else .sr

/-- The image that RND.EXS writes (R175). -/
def rndBytes (a : Acc) (f : RndFields) (origin seed : DWord) : List Byte :=
  let c := f.fmt.toNat
  let fmt := fmtOf c
  let w := fmtWidth fmt
  let mode := rndOf f.mode.toNat
  let rr := fun (r k : Nat) =>
    if mode = .sr then
      srBits seed f.stream (origin.extractLsb' 32 32 + BitVec.ofNat 32 r) (origin.extractLsb' 0 32 + BitVec.ofNat 32 k)
    else 0
  let block := fun (r b : Nat) =>
    roundMxBlock a.wide ((List.range 32).map (fun k => accElem a r (32 * b + k))) fmt mode
      ((List.range 32).map (fun k => rr r (32 * b + k)))
  let row := fun (r : Nat) =>
    if isMx c then (block r 0).2 ++ (block r 1).2
    else (List.range 64).map (fun k => roundExs a.wide (accElem a r k) fmt mode f.sat (rr r k))
  let pack := fun (l : List Nat) => ((List.range l.length).zip l).foldl (fun (z : Nat) p => z + p.2 * 2 ^ (w * p.1)) 0
  (List.range 64).flatMap (fun r => leBytes (8 * w) (pack (row r))) ++
  (if isMx c then (List.range 64).flatMap (fun r => [BitVec.ofNat 8 (block r 0).1, BitVec.ofNat 8 (block r 1).1]) else [])

/-- The effect of ADD on its accumulator and check register (R185). -/
def addAcc (x : Tile) (f : XredFields) : Acc :=
  let a := getAcc x f.x.toNat
  match addBlock x f with
  | .block terms wide xs _ =>
    let r0 := f.r0.toNat
    let a := if wide then widen a else a
    let got := fun (r j : Nat) => (xs[64 * r + j]?).getD {}
    let wid := fun (e : Exs) => if a.wide && !wide then exsWiden e else e
    let rows := f.rn.toNat + 1
    let res := fun (r j : Nat) => exsRes wide (got r j)
    let bad := fun (r j : Nat) => (got r j).cls != .finite
    { a with
      terms := a.terms + terms
      elems := tabulate {} 4096 (fun n =>
        let i := n / 64
        if r0 ≤ i ∧ i < r0 + rows then exsAdd a.wide (SMap.get {} a.elems n) (wid (got (i - r0) (n % 64)))
        else SMap.get {} a.elems n)
      e := tabulate 0 64 (fun i =>
        if r0 ≤ i ∧ i < r0 + rows then
          (SMap.get 0 a.e i + sumP ((List.range 64).map (res (i - r0)))) % p61
        else SMap.get 0 a.e i)
      f := tabulate 0 64 (fun j => (SMap.get 0 a.f j + sumP ((List.range rows).map (fun r => res r j))) % p61)
      rnf := ((List.range rows).filter (fun r => (List.range 64).any (bad r))).foldl
        (fun (w : DWord) r => w ||| ((1 : DWord) <<< (r0 + r))) a.rnf
      cnf := ((List.range 64).filter (fun j => (List.range rows).any (fun r => bad r j))).foldl
        (fun (w : DWord) j => w ||| ((1 : DWord) <<< j)) a.cnf }
  | _ => a

/-- The effect of CHK.ROW on the check register (R187). -/
def chkRowAcc (x : Tile) (f : PairFields) : Acc :=
  let a := getAcc x f.x.toNat
  let ta := getOp x f.ta.toNat
  let tb := getOp x f.tb.toNat
  let ea := fun i k => elem ta f.fa.toNat i k
  let eb := fun j k => elem tb f.fb.toNat j k
  let cb := (List.range 64).map (fun k => sumP ((List.range 64).map (fun j => elemRes (eb j k))))
  let badB := (List.range 64).any (fun j => (List.range 64).any (fun k => (eb j k).1 != .finite))
  { a with
    e := tabulate 0 64 (fun i =>
      (SMap.get 0 a.e i + sumP ((List.range 64).map (fun k => elemRes (ea i k) * (cb[k]?).getD 0))) % p61)
    rnf := if badB then 0xFFFFFFFFFFFFFFFF
      else ((List.range 64).filter (fun i => (List.range 64).any (fun k => (ea i k).1 != .finite))).foldl
        (fun (w : DWord) i => w ||| ((1 : DWord) <<< i)) a.rnf }

/-- The effect of CHK.COL on the check register (R187). -/
def chkColAcc (x : Tile) (f : PairFields) : Acc :=
  let a := getAcc x f.x.toNat
  let ta := getOp x f.ta.toNat
  let tb := getOp x f.tb.toNat
  let ea := fun i k => elem ta f.fa.toNat i k
  let eb := fun j k => elem tb f.fb.toNat j k
  let ca := (List.range 64).map (fun k => sumP ((List.range 64).map (fun i => elemRes (ea i k))))
  let badA := (List.range 64).any (fun i => (List.range 64).any (fun k => (ea i k).1 != .finite))
  { a with
    f := tabulate 0 64 (fun j =>
      (SMap.get 0 a.f j + sumP ((List.range 64).map (fun k => (ca[k]?).getD 0 * elemRes (eb j k)))) % p61)
    cnf := if badA then 0xFFFFFFFFFFFFFFFF
      else ((List.range 64).filter (fun j => (List.range 64).any (fun k => (eb j k).1 != .finite))).foldl
        (fun (w : DWord) j => w ||| ((1 : DWord) <<< j)) a.cnf }

/-- Whether a line of elements is in mismatch with its expected residue (R188). -/
def lineMismatch (wide : Bool) (xs : List Exs) (want : Nat) : Bool :=
  xs.any (fun x => x.cls != .finite) || sumP (xs.map (exsRes wide)) != want

/-- The rows in mismatch, in ascending order (R188). -/
def badRows (a : Acc) : List Nat :=
  (List.range 64).filter (fun i => !a.rnf.getLsbD i &&
    lineMismatch a.wide ((List.range 64).map (accElem a i)) (SMap.get 0 a.e i))

/-- The columns in mismatch, in ascending order (R188). -/
def badCols (a : Acc) : List Nat :=
  (List.range 64).filter (fun j => !a.cnf.getLsbD j &&
    lineMismatch a.wide ((List.range 64).map (fun i => accElem a i j)) (SMap.get 0 a.f j))

/-- Fills CHK_RES_FAIL and CHK_RES_RC when VALID is 0 (R316, R339). -/
def fillResFail (s : State) (d p l acc : Nat) (row col : Option Nat) : State :=
  if bit (getReg s 0x00060010) 31 then s
  else
    let s := setReg s 0x00060010 (0x80000000 ||| at_ d 16 ||| at_ p 12 ||| at_ l 8 ||| at_ acc 6)
    setReg s 0x00060014 (at_ (flag row.isSome) 15 ||| at_ (flag col.isSome) 14 ||| at_ (row.getD 0) 6 ||| at_ (col.getD 0) 0)

/-- Gives a position a strike in the running step (R325). -/
def strike (s : State) (d p : Nat) : State :=
  let x := getDist s d
  setDist s d { x with strikes := x.strikes ++ [(p, s.sch.stepFirst)] }

/-- A residue mismatch (R316). -/
def residueMismatch (s : State) (t : TileRef) (acc : Nat) (row col : Option Nat) : State :=
  let p := posOf s t
  let s := bump s 0x00060100 1
  let s := fillResFail s t.d.val p (if t.shadow then 0xF else t.l.val) acc row col
  let s := setAbandon s 1
  let s := strike s t.d.val p
  report s 0x04 [getReg s 0x00060010, getReg s 0x00060014]

/-- The rows or columns that CHK.CMP skips (R188, R315). -/
def skipped (on : Bool) (fl : DWord) : Nat :=
  if on then ((List.range 64).filter (fun i => fl.getLsbD i)).length else 0

/-- CHK.CMP when it ends (R188, R315, R316). -/
def chkCmpEnd (s : State) (t : TileRef) (r : Nat) (rows cols : Bool) : State :=
  let a := getAcc (getTile s t) r
  let s := bump s 0x00060108 (skipped rows a.rnf + skipped cols a.cnf)
  let br := if rows then badRows a else []
  let bc := if cols then badCols a else []
  if br.isEmpty && bc.isEmpty then s else residueMismatch s t r br.head? bc.head?

/-- PACK when its encoding ends (R183): a block that fits its entry is written to its lines and departs, its last line marked where it
ends short of its entry (R234). A block that needs more lines raises SLOT_COLLISION; where the entry was missed, its departure cycle is
over, or another instruction issued it meanwhile, the block is written and nothing is sent (log 25, DESIGN CHOICE: of two PACKs on one
entry the first to end takes it). The bytes of its last line beyond the block are zero (log 95, DESIGN CHOICE). A shadow's block is not
performed (R318). -/
def packEnd (s : State) (t : TileRef) (g id : Nat) (f : XredFields) : State :=
  let x := getTile s t
  let a := getAcc x f.x.toNat
  let xs := (List.range (64 * (f.rn.toNat + 1))).map (fun n => accElem a (f.r0.toNat + n / 64) (n % 64))
  let block := wireBlock a.wide a.terms xs
  let n := ceilDiv block.length 64
  let bytes := block ++ List.replicate (64 * n - block.length) 0
  let silent := fun (x : Tile) => setGroup x g (fillOutput (getGroup x g) id [])
  let written := spadWrite x (64 * f.line.toNat) bytes
  match sendEntry x f.idx.toNat with
  | none => setTile s t (silent written)
  | some e =>
    match e.state, departed s t e with
    | .encoding _, false =>
      if e.lines < n then sendViolation (setTile s t (silent (setSend x f.idx.toNat .idle))) t 0x10 f.idx.toNat e.road
      else
        let x := setGroup written g (fillOutput (getGroup x g) id (leBytes 2 e.sid ++ bytes))
        if t.shadow then setTile s t (setSend x f.idx.toNat .departed)
        else
          let x := setSend x f.idx.toNat (.pending f.line.toNat f.line.toNat n (decide (n < e.lines)))
          setTile s t { x with locks := x.locks ++ [{ first := f.line.toNat, count := n, who := .send f.idx.toNat }] }
    | _, _ => setTile s t (silent (if e.lines < n then x else written))

/-- FCOMB when it ends (R186). -/
def fcombEnd (x : Tile) (g : Nat) (f : FcombFields) (a : List Word) : Tile :=
  let r := spadRead x (64 * f.line.toNat) 256
  let y := writeLanes (getGroup x g) f.d.toNat (List.range 64) (fun i =>
    let p := (a[i]?).getD 0
    let q := BitVec.ofNat 32 (num r (4 * i) 4)
    if f.hi then fadd32 q p else fadd32 p q)
  setGroup x g y

/-- The effect of an engine instruction that did not fail. -/
def opEffect (s : State) (t : TileRef) (q : QueuedOp) : State :=
  let x := getTile s t
  match q.op with
  | .tld f ea =>
    setTile s t { x with t := SMap.set {} x.t f.t.toNat (tileOf f.fmt.toNat (spadRead x (ea / 64 * 64) (tileBytes f.fmt.toNat))) }
  | .xclr r kind => setTile s t (setAcc x r { wide := kind })
  | .xld r ea =>
    let base := ea / 64 * 64
    let wide := (SMap.get 0 x.spad (base + 4)).getLsbD 0
    setTile s t (setAcc x r (imageAcc wide (spadRead x base (imageSize wide))))
  | .xst r ea => setTile s t (spadWrite x (ea / 64 * 64) (imageBytes (getAcc x r)))
  | .mma f kind => setTile s t (setAcc x f.x.toNat (mmaAcc x f kind))
  | .rnd f ea origin seed => setTile s t (spadWrite x (ea / 64 * 64) (rndBytes (getAcc x f.x.toNat) f origin seed))
  | .pack f => packEnd s t q.group q.id f
  | .add f => setTile s t (setAcc x f.x.toNat (addAcc x f))
  | .fcomb f a => setTile s t (fcombEnd x q.group f a)
  | .chkRow f => setTile s t (setAcc x f.x.toNat (chkRowAcc x f))
  | .chkCol f => setTile s t (setAcc x f.x.toNat (chkColAcc x f))
  | .chkCmp r rows cols => chkCmpEnd s t r rows cols

/-- Takes an instruction off its queue: its locks end, and a register that waited for it is free (R165, R166). -/
def dequeue (x : Tile) (q : QueuedOp) : Tile :=
  let x := { x with
    queue := x.queue.filter (fun p => decide (p.id ≠ q.id))
    locks := x.locks.filter (fun p => decide (p.who ≠ .op q.id)) }
  match q.op with
  | .fcomb f _ =>
    let y := getGroup x q.group
    setGroup x q.group { y with pendV := y.pendV.filter (fun r => decide (r ≠ f.d.toNat)) }
  | _ => x

/-- A failed PACK gives its group no output (R319). -/
def failEnd (s : State) (t : TileRef) (q : QueuedOp) : State :=
  match q.op with
  | .pack _ => putGroup s t q.group (fillOutput (getGroup (getTile s t) q.group) q.id [])
  | _ => s

/-- The instruction that runs on an engine. -/
def runningOp (x : Tile) (e : EngineId) : Option QueuedOp := (queueOf x e).find? (fun q => q.started)

/-- The lines that an instruction has written, as uses of their pages (R115). -/
def touchWritten (x : Tile) (q : QueuedOp) : Tile := touchLines x true (spanLines (writes x q))

/-- ENGINE_INSTRUCTION_END (R165): the running instruction of the engine has its effect, unless a check made when it
started failed (R136), and leaves its queue. -/
def execEngineEnd (t : TileRef) (e : EngineId) (s : State) : Host.Outcome State Fault Refusal :=
  .next (
    if !atWork s then s
    else
      let x := getTile s t
      match runningOp x e with
      | none => s
      | some q =>
        let s := if q.failed then failEnd s t q else opEffect (setTile s t (touchWritten x q)) t q
        setTile s t (dequeue (getTile s t) q))

end Sys2Proof.Machine
end

