-- ==== Sys2Proof/Machine/Waymarks.lean ====
section
/-! DEFINITION. WAY flits: waymarks, relay rounds, START, hold notices and their receipt (R196, R199 to R201, R213, R214,
R274, R391). -/

namespace Sys2Proof.Machine

/-! ### Relay (R194, R195, R199, R201) -/

/-- The chip's own flags of round r of job milestone j. -/
def ownRound (s : State) (j r : Nat) : Option Flags :=
  (s.sch.rounds.find? (fun x => x.link.isNone && x.jobMs == j && x.round == r)).map (·.flags)

/-- The flags of round r of job milestone j of a neighbour: of the first of its links that delivered them (R274). -/
def neighbourRound (s : State) (w : Word) (j r : Nat) : Option Flags :=
  (s.sch.rounds.find? (fun x =>
    (match x.link with
     | some n => inMask s n && (getLink s n).partner == w
     | none => false) && x.jobMs == j && x.round == r)).map (·.flags)

/-- The combination of R201. -/
def combine (a b : Flags) : Flags :=
  { tollAll := a.tollAll && b.tollAll, abandon := a.abandon || b.abandon, causes := a.causes ||| b.causes, hold := false }

/-- The byte of FLAGS (R200). -/
def flagByte (f : Flags) : Byte := BitVec.ofNat 8 (flag f.hold + 2 * flag f.tollAll + 4 * flag f.abandon)

/-- The flags of a flit. -/
def flagsOf (w : WayFlit) : Flags :=
  { tollAll := w.flags.getLsbD 1, abandon := w.flags.getLsbD 2, causes := w.causes.setWidth 6, hold := w.flags.getLsbD 0 }

/-- Adds the flags of a round. -/
def addRound (s : State) (link : Option Nat) (j r : Nat) (f : Flags) : State :=
  { s with sch := { s.sch with rounds := s.sch.rounds ++ [{ link := link, jobMs := j, round := r, flags := f }] } }

/-- The relay of j is complete (R201); one that carries ABANDON waits for its boundary (R195, R228). -/
def completeRelay (s : State) (j : Nat) (f : Flags) : State :=
  { s with sch := { s.sch with
      relayed := s.sch.relayed ++ [(j, f)]
      rewind := if f.abandon then addTo s.sch.rewind j else s.sch.rewind } }

/-- How many rounds of job milestone j the chip has formed. -/
def roundsFormed (s : State) (j : Nat) : Nat :=
  (s.sch.rounds.filter (fun x => x.link.isNone && x.jobMs == j)).length

/-- Forms the next round of j when every neighbour's flags of the round before are there (R201). -/
def formRound (s : State) (j : Nat) : State :=
  let r := roundsFormed s j
  match ownRound s j (r - 1) with
  | none => s
  | some own =>
    if r = 0 ∨ diameter s < r then s
    else
      let ns := (neighbours s).map (fun w => neighbourRound s w j (r - 1))
      if ns.any (·.isNone) then s
      else
        let f := ns.foldl (fun a x => combine a (x.getD own)) { own with hold := false }
        let s := addRound s none j r f
        if r = diameter s then completeRelay s j f
        else
          sendWay s { ownFlit s 2 with
            round := BitVec.ofNat 8 r, jobMs := BitVec.ofNat 48 j, flags := flagByte f, causes := f.causes.setWidth 8 } none

/-- Forms rounds while they can be formed; `n` bounds their number. -/
def formRounds : Nat → State → Nat → State
  | 0, s, _ => s
  | n + 1, s, j => formRounds n (formRound s j) j

/-- The completed relay of j. -/
def relayOf (s : State) (j : Nat) : Option Flags := (s.sch.relayed.find? (fun p => p.1 == j)).map (·.2)

/-- The job milestone that a link of the mask is expected to send a waymark of next (R199, R274). -/
def wayNext (s : State) (n : Nat) : Nat := (lookup s.sch.wayExpect n).getD s.sch.jobFirst

/-- Whether a waymark of j has arrived from a neighbour (R274). -/
def wayFrom (s : State) (w : Word) (j : Nat) : Bool := (linksTo s w).any (fun n => decide (j < wayNext s n))

/-- Conditions 3 and 4 of R197 for the job milestone j. -/
def heardAll (s : State) (j : Nat) : Bool :=
  (neighbours s).all (fun w => wayFrom s w j) && (decide (j = s.sch.jobFirst) || (relayOf s (j - 1)).isSome)

/-- RIPPLE clears in its turn when what was missing has arrived (R212, R215). -/
def settleRipple (s : State) : State := if s.sch.holds.getLsbD 7 && heardAll s s.sch.jobMs then clearInTurn s 7 else s

/-- Sends this chip's waymark of the running job milestone, and begins its relay (R199, R201). -/
def sendWaymark (s : State) (toll : Bool) : State :=
  let f : Flags := { tollAll := toll, abandon := decide (s.sch.causesNow ≠ 0), causes := s.sch.causesNow,
                     hold := decide (s.sch.holds ≠ 0) }
  let s := sendWay s { ownFlit s 1 with flags := flagByte f, causes := f.causes.setWidth 8 } none
  let s := addRound s none s.sch.jobMs 0 f
  let s := if diameter s = 0 then completeRelay s s.sch.jobMs f else formRounds (diameter s) s s.sch.jobMs
  settleRipple s

/-! ### Receiving (R246, R274) -/

/-- The fields of a WAY flit's payload that its KIND has (R200). -/
def readWay (p : List Byte) : WayFlit :=
  let hold := decide (num p 0 1 = 3)
  let release := decide (num p 0 1 = 4)
  { kind := BitVec.ofNat 8 (num p 0 1), round := BitVec.ofNat 8 (num p 1 1), jobMs := BitVec.ofNat 48 (num p 2 6),
    milestone := BitVec.ofNat 48 (num p 8 6), origin := BitVec.ofNat 16 (num p 14 2), sender := BitVec.ofNat 32 (num p 16 4),
    time := BitVec.ofNat 32 (num p 20 4), flags := BitVec.ofNat 8 (num p 24 1), causes := BitVec.ofNat 8 (num p 25 1),
    seq := if hold || release then BitVec.ofNat 32 (num p 28 4) else 0
    freezeFrom := if hold then BitVec.ofNat 48 (num p 32 6) else 0
    resume := if release then BitVec.ofNat 32 (num p 32 4) else 0 }

/-- What the five commands share: the flit is the oldest in the link's ingress buffer and of the command's KIND; its credits are freed
(R246), and outside the mask it is dropped (R274). -/
def receiveWay (s : State) (n : LinkId) (kind : Byte) (w : WayFlit) (f : WayIn → State → State) : State :=
  match (getLink s n.val).inWay with
  | e :: r =>
    if readWay e.bytes = w ∧ w.kind = kind then
      let s := setLink s n.val (freeCredit { getLink s n.val with inWay := r } 1)
      if inMask s n.val then f e s else bump s 0x000B0010 1
    else s
  | [] => s

/-- A waymark as a time measurement (R391): t_r is the local time at which the flit passed its check. -/
def wayMeasure (s : State) (n : Nat) (w : WayFlit) (e : WayIn) : State :=
  if servoSrc s = 3 ∧ bits (getReg s 0x00050020) 12 8 = n ∧ linkActive s n ∧ e.replayed = false then
    let delay := ((getLink s n).delayPs.toNat + 500) / 1000
    noteMeasure s { theta := (w.time + BitVec.ofNat 32 delay - e.stamp).toInt, t := e.stamp, full := none }
  else s

/-- WAYMARK (R199, R274, R391). For MILESTONE_MISMATCH the spec names no road and no slot: both are 0 (log 88, DESIGN CHOICE). -/
def execWaymark (n : LinkId) (w : WayFlit) (s : State) : Host.Outcome State Fault Refusal :=
  .next (receiveWay s n 1 w (fun e s =>
    let s := wayMeasure s n.val w e
    if w.jobMs.toNat ≠ wayNext s n.val then hopViolation s (.linkIn n) 0x15 0 0
    else
      let s := { s with sch := { s.sch with
        wayExpect := (n.val, w.jobMs.toNat + 1) :: s.sch.wayExpect.filter (fun p => decide (p.1 ≠ n.val)) } }
      let s := addRound s (some n.val) w.jobMs.toNat 0 (flagsOf w)
      settleRipple (formRounds (diameter s) s w.jobMs.toNat)))

/-- RELAY (R201, R274). -/
def execRelay (n : LinkId) (w : WayFlit) (s : State) : Host.Outcome State Fault Refusal :=
  .next (receiveWay s n 2 w (fun _ s =>
    let s := addRound s (some n.val) w.jobMs.toNat w.round.toNat (flagsOf w)
    settleRipple (formRounds (diameter s) s w.jobMs.toNat)))

/-- Adds a link with its partner to a list of them. -/
def addEnd (l : List (Nat × Word)) (e : Nat × Word) : List (Nat × Word) := if l.contains e then l else l ++ [e]

/-- START (R196, R274): the neighbour at the other end of the link has started. A copy that the link still owed of a START which another
link of the neighbour delivered first is no new one, a second one of a link is that of a detour to come, and a START whose JOB_MS is not
all ones is none (R200; log 110, DEDUCED). -/
def execStart (n : LinkId) (w : WayFlit) (s : State) : Host.Outcome State Fault Refusal :=
  .next (receiveWay s n 5 w (fun _ s =>
    if w.jobMs ≠ BitVec.allOnes 48 then s
    else
      let e := linkEnd s n.val
      if s.sch.startOwed.contains e then { s with sch := { s.sch with startOwed := s.sch.startOwed.filter (fun x => x != e) } }
      else if s.sch.startFrom.contains e then { s with sch := { s.sch with startAhead := addEnd s.sch.startAhead e } }
      else { s with sch := { s.sch with startFrom := addEnd s.sch.startFrom e } }))

/-! ### Hold notices (R213, R214) -/

/-- The highest SEQ seen from an origin in notices of a kind (0 HOLD, 1 RELEASE), plus one; 0 when none was seen. -/
def seenSeq (s : State) (o k : Nat) : Nat := SMap.get 0 s.sch.seqSeen (2 * o + k)

/-- Whether a notice is acted on and forwarded: the first of its kind with this SEQ from this origin, with no higher SEQ seen;
the chip's own notices, come back to it, are no notices to it (R213). -/
def noticeNew (s : State) (w : WayFlit) (k : Nat) : Bool :=
  let o := w.origin.toNat
  let q := w.seq.toNat + 1
  decide (o ≠ s.sch.lchip) && decide (seenSeq s o k < q) && decide (seenSeq s o (1 - k) ≤ q)

/-- Notes a notice and forwards it with this chip as its sender (R213). -/
def forwardNotice (s : State) (n : LinkId) (w : WayFlit) (k : Nat) : State :=
  let s := { s with sch := { s.sch with
    seqSeen := SMap.set 0 s.sch.seqSeen (2 * w.origin.toNat + k) (w.seq.toNat + 1) } }
  sendWay s { w with milestone := BitVec.ofNat 48 s.sch.milestone, sender := coord s, time := localTime s } (some n.val)

/-- NEIGHBOUR follows the hold set (R212). -/
def settleNeighbour (s : State) : State := settleResume (putCause s 8 (!s.sch.holdSet.isEmpty))

/-- HOLD (R213): the origin joins the hold set, unless its RELEASE of the same SEQ has come already. -/
def execHold (n : LinkId) (w : WayFlit) (s : State) : Host.Outcome State Fault Refusal :=
  .next (receiveWay s n 3 w (fun _ s =>
    if !noticeNew s w 0 then s
    else
      let o := w.origin.toNat
      let released := decide (seenSeq s o 1 = w.seq.toNat + 1)
      let s := forwardNotice s n w 0
      let set := s.sch.holdSet.filter (fun h => decide (h.origin ≠ o))
      let set := if released then set
        else set ++ [{ origin := o, seq := w.seq.toNat, freezeFrom := w.freezeFrom.toNat }]
      settleNeighbour { s with sch := { s.sch with holdSet := set } }))

/-- RELEASE (R213, R214): the origin leaves the hold set; the chip waits for the latest RESUME time, or resumes at once and
counts it when that time has already passed. -/
def execRelease (n : LinkId) (w : WayFlit) (s : State) : Host.Outcome State Fault Refusal :=
  .next (receiveWay s n 4 w (fun _ s =>
    if !noticeNew s w 1 then s
    else
      let o := w.origin.toNat
      let from_ := match s.sch.holdSet.find? (fun h => decide (h.origin = o) && decide (h.seq = w.seq.toNat)) with
        | some h => h.freezeFrom
        | none => s.sch.jobMs + 1
      let s := forwardNotice s n w 1
      let s := { s with sch := { s.sch with
        holdSet := s.sch.holdSet.filter (fun h => !(decide (h.origin = o) && decide (h.seq ≤ w.seq.toNat))) } }
      let s := putCause s 8 (!s.sch.holdSet.isEmpty)
      let s := waitUntil s w.resume from_
      if s.sch.holds = 0 ∧ s.sch.resumeAt = none then bump s 0x000A0068 1 else s))

/-- RESUME (R214): the latest RESUME time has come; with no other cause the chip resumes. -/
def execResume (s : State) : Host.Outcome State Fault Refusal :=
  .next (
    settleResume s)

/-- RIPPLE_TIMEOUT (R212): the chip is done, and past cycle L for longer than SCH_RIPPLE_ALLOW, while a waymark or a relay it
needs is missing. -/
def execRippleTimeout (s : State) : Host.Outcome State Fault Refusal :=
  .next (
    let allow := (getReg s 0x000A0030).toNat
    if isCommitted s && s.sch.running && s.sch.done && !heardAll s s.sch.jobMs &&
       decide (allow < s.sch.sinceDone) && allReached s (milestoneLen s + allow + 1) then raiseCause s 7
    else s)

end Sys2Proof.Machine
end

