-- ==== Sys2Proof/Machine/Finish.lean ====
section
/-! DEFINITION. The end of a milestone on the chip (R111, R167, R199, R306, R319 to R321): when its tiles and hops have
finished, the write-back and the digest hash they wait for, the comparison of sampled tiles, and CHIP_DONE. -/

namespace Sys2Proof.Machine

/-! ### Tiles and hops that have finished -/

/-- Whether a group has reached the end of its milestone work (R150, R152). -/
def groupAtEnd (y : Group) : Bool :=
  match y.wait with
  | .msEnd => true
  | .stop => true
  | .toll c => decide (3 ≤ c)
  | _ => false

/-- Whether a send entry has departed or been missed. -/
def sendOver (e : SendEntry) : Bool :=
  match e.state with
  | .departed => true
  | .missed => true
  | _ => false

/-- Whether a tile has otherwise finished the milestone (R111, R167); a tile of a partition that was reset counts as
finished once its entries have departed (R310). -/
def tileEnded (x : Tile) : Bool :=
  x.sends.all sendOver &&
  (x.forced || (x.groups.all (fun p => groupAtEnd p.2) && x.arrivals.all (fun e => e.landed) && x.queue.isEmpty))

/-- Whether a shadow has finished: it has no departures of its own to wait for (R318), and one that raised a violation is stopped where
it stands, a duplicate mismatch (R320). -/
def shadowEnded (x : Tile) : Bool :=
  x.forced || !x.viols.isEmpty ||
  (x.groups.all (fun p => groupAtEnd p.2) && x.arrivals.all (fun e => e.landed) && x.queue.isEmpty)

/-- Whether every tile of the chip and every shadow has otherwise finished. -/
def tilesEnded (s : State) : Bool :=
  (runTiles s).all (fun t => if t.shadow then shadowEnded (getTile s t) else tileEnded (getTile s t))

/-- Whether every hop has sent every entry of its slot table, on links up to the last flit (R197). -/
def hopsFinished (s : State) : Bool :=
  s.hops.all (fun p => p.2.table.all (fun e => decide (e.count ≤ e.sent))) && s.links.all (fun p => p.2.schQ.isEmpty)

/-! ### Write-back (R306) -/

/-- The HBM-backed retain copies of the running step. -/
def stepCopies (s : State) : List Retain :=
  s.mem.retained.filter (fun c => decide (c.step = s.sch.stepFirst) && c.inHbm)

/-- What the last milestone of a step waits for beside its tiles: the write-back, and the hash of an earlier digest point
(R306, R321). -/
def stepEndReady (s : State) : Bool :=
  !lastOfStep s || ((s.sch.wbDone || (stepCopies s).isEmpty) && !s.dig.busy && !s.mem.writeback)

/-- WRITE_BACK_START (R306, R321): the tiles have otherwise finished a step's last milestone, and no hash runs. -/
def execWriteBackStart (s : State) : Host.Outcome State Fault Refusal :=
  .next (
    if isCommitted s && s.sch.running && !s.sch.done && lastOfStep s && tilesEnded s && !s.dig.busy && !s.mem.writeback &&
       !s.sch.wbDone then
      { s with mem := { s.mem with writeback := true } }
    else s)

/-- Whether the read of a block met nothing that stops its movement (R302, R306). -/
def blockSound (s : State) (dm : Damage) (b : Nat) : Bool :=
  dm.all (fun p => decide (p.1 / 4096 ≠ b) || sound (admitted s p.1 2 true p.2))

/-- WRITE_BACK_DONE (R301, R302, R306): every HBM-backed block with a retain copy of the step reaches the mirror, but for those
whose reads failed. -/
def execWriteBackDone (dm : Damage) (s : State) : Host.Outcome State Fault Refusal :=
  .next (
    if s.mem.writeback then
      let cs := stepCopies s
      let t := (cs.filter (fun c => blockSound s dm c.block)).foldl (fun s c =>
        bump (chargeHub (toMirror (giveCheck (chargeAccess s (4096 * c.block) 64) c.block) c.block) 13 64) 0x00070170 1) s
      let t := { t with mem := { t.mem with writeback := false }, sch := { t.sch with wbDone := true } }
      meet t 2 true (fun a => cs.any (fun c => decide (c.block = a / 4096))) (judged s 2 true dm)
    else s)

/-! ### Replica digest (R321) -/

/-- A byte of the mirror; a byte that nothing has written has no value (R306, R431). -/
def mirrorByte (s : State) (a : Nat) : Byte :=
  match SMap.get none s.mem.mirror a with
  | some b => b
  | none => if inZeroed s.mem a then 0 else Config.undefinedByte s.epoch a

/-- The windows that are hashed: chosen in CHK_DIGEST_WIN, valid, backed by HBM3E and no backing windows (R321, R322). -/
def digestWindows (s : State) : List Nat :=
  let mask := (getReg s 0x00060028).toNat * 2 ^ 32 + (getReg s 0x00060024).toNat
  (List.range 64).filter (fun n =>
    decide (mask / 2 ^ n % 2 = 1) && winValid s n && !winBacking s n && (hbmQuad (winBase s n)).isSome)

/-- The bytes that the hash engine reads (R321). -/
def digestInput (s : State) : List Byte :=
  (digestWindows s).flatMap (fun n => (List.range (winLen s n)).map (fun i => mirrorByte s (winBase s n + i)))

/-- Holds a digest in CHK_DIGEST_VAL0 to 7. -/
def holdDigest (s : State) (d : BitVec 256) : State :=
  let s := (List.range 8).foldl (fun s w => setReg s (0x00060030 + 4 * w) (digestWord d w)) s
  { s with dig := { s.dig with busy := false, held := some d } }

/-- The lines of the mirror that the hash engine reads. -/
def digestLines (s : State) : Nat := (digestWindows s).foldl (fun n w => n + winLen s w / 64) 0

/-- DIGEST_HASH_DONE (R299, R301, R321, R323): a line of the mirror that cannot be corrected puts the device in FAULT, and no digest is
held. -/
def execDigestHashDone (dm : Damage) (s : State) : Host.Outcome State Fault Refusal :=
  .next (
    if s.dig.busy && s.dev != .fault then
      let r := copyMeets (chargeHub s 13 (digestLines s)) (inProtection s) dm
      if r.2 then deliverDigest (bump (holdDigest r.1 (digest256 (digestInput s))) 0x00060138 1) else r.1
    else s)

/-! ### Sampled tiles (R319, R320) -/

/-- The signature of a position over its groups (R319). -/
def signature (x : Tile) : DWord := crc64 (x.groups.flatMap (fun p => leBytes 8 p.2.sig.toNat))

/-- Whether the shadow raised a violation that the primary did not (R320). -/
def strayViolation (p x : Tile) : Bool := x.viols.any (fun v => !p.viols.contains v)

/-- What a first duplicate mismatch of an attempt leaves in its district: the pair is shadowed again in the attempts that
follow up to the next of the same step (R317), and a second attempt of the step with the same pair makes triage due (R329). -/
def noteDup (s : State) (x : District) (y : Sample) : District :=
  let key := (y.primary, y.shadow, s.sch.stepFirst)
  { x with
    sample := x.sample.map (fun z => if z.l = y.l then { z with mismatch := true } else z)
    again := x.again ++ [(y.l.val, y.shadow, s.sch.stepFirst)]
    due := if x.dups.contains key then x.due ++ [(y.primary, y.shadow)] else x.due
    dups := if x.dups.contains key then x.dups else x.dups ++ [key] }

/-- A duplicate mismatch (R320). -/
def dupMismatch (s : State) (d : Fin 144) (y : Sample) : State :=
  let s := bump s 0x00060118 1
  let s := if bit (getReg s 0x00060018) 31 then s
    else setReg s 0x00060018 (0x80000000 ||| at_ d.val 16 ||| at_ y.primary 12 ||| at_ y.shadow 8 ||| at_ y.l.val 4)
  let s := setAbandon s 1
  let x := getDist s d.val
  let s := if y.mismatch then s else setDist s d.val (noteDup s x y)
  report s 0x05 [getReg s 0x00060018]

/-- Compares a sampled tile with its shadow at the end of a milestone (R319, R320). -/
def compareSample (s : State) (d : Fin 144) (y : Sample) : State :=
  let p := getTile s { d := d, l := y.l }
  let x := getTile s { d := d, l := y.l, shadow := true }
  if p.forced then s
  else if signature p ≠ signature x || strayViolation p x then dupMismatch s d y
  else s

/-- Compares every sampled tile of the chip. -/
def compareSamples (s : State) : State :=
  (List.finRange 144).foldl (fun s d => (getDist s d.val).sample.foldl (fun s y => compareSample s d y) s) s

/-! ### CHIP_DONE (R197, R199, R202, R216) -/

/-- Whether the chip is done with the milestone it runs; a RETRACE decision makes it so (R216). -/
def chipReady (s : State) : Bool := s.sch.forced || (tilesEnded s && hopsFinished s && stepEndReady s)

/-- TOLL_ALL (R199): every group of every logical tile waits in a TOLL of job scope or has executed STOP. -/
def tollAll (s : State) : Bool :=
  (progTiles s).all (fun t => (getTile s t).groups.all (fun p =>
    match p.2.wait with
    | .toll c => decide (c = 4)
    | .stop => true
    | _ => false))

/-- CHIP_DONE (R199): sampled tiles are compared, and the waymark goes out with the causes of the milestone. -/
def execChipDone (s : State) : Host.Outcome State Fault Refusal :=
  .next (
    if s.dev = .ready ∧ isCommitted s ∧ s.sch.running ∧ s.sch.done = false ∧ chipReady s then
      let s := if s.sch.forced then s else compareSamples s
      let s := sendWaymark s (tollAll s)
      { s with sch := { s.sch with done := true } }
    else s)

end Sys2Proof.Machine
end

