-- ==== Sys2Proof/Machine/Hops.lean ====
section
/-! DEFINITION. The commands of the hops (R203 to R209, R286): a unit arrives, a unit is sent, and a transmitter starves of
credit. -/

namespace Sys2Proof.Machine

/-- The next unit of the ingress buffer that its hop has not taken up: those it has taken stand first (R208). -/
def nextIngress (s : State) (n : LinkId) : Option RoadUnit :=
  let x := getHop s (.linkIn n)
  (getLink s n.val).inSch[x.verge.length + x.early.length]?

/-- HOP_UNIT_RECEIVE (R206 to R208): a unit on its way to the hop arrives. A link ingress holds a unit that comes ahead of its milestone;
every other unit enters the verge. In FAULT nothing moves (R372). -/
def execHopUnitReceive (h : HopId) (u : RoadUnit) (s : State) : Host.Outcome State Fault Refusal :=
  .next (
    if s.dev = .fault then s
    else match h with
    | .linkIn n =>
      if nextIngress s n ≠ some u then s
      else if aheadOfTime s u = true ∧ dropped s u = false then
        let x := getHop s h
        setHop s h { x with early := x.early ++ [u] }
      else admitUnit s h u
    | _ =>
      match nextFlight s (.hop h) (fun v => v == u) with
      | some f => takeUnit (landFlight s f (.hop h)) h f.src u
      | none => s)

/-! ### Sending (R204, R205, R209) -/

/-- The payload of an SCH flit (R204): the road tag and 240 bytes of line data. -/
def schPayload (u : RoadUnit) : List Byte := [u.hops, u.ms] ++ leBytes 2 u.road.toNat ++ slice u.data 0 240

/-- Whether copies toward a link are discarded: it is down, or in the discard state (R209, R260). -/
def linkDiscards (s : State) (n : Nat) : Bool := decide ((getLink s n).state = .down) || lnkDiscard s n

/-- A transmitter hands a unit to its link; on a link that discards, the flit is discarded and counted (R260). -/
def sendOnLink (s : State) (n : LinkId) (u : RoadUnit) (slot : Nat) : State :=
  if linkDiscards s n.val then bumpLink s n.val 0x80 1
  else
    let l := getLink s n.val
    setLink s n.val { l with schQ := l.schQ ++ [{ payload := schPayload u, last := u.last, slot := slot }] }

/-- Puts a unit on its way to some destinations. -/
def fly (s : State) (src : HopId) (dests : List Dest) (u : RoadUnit) : State :=
  if dests.isEmpty then s
  else { s with flights := s.flights ++ [{ src := src, dests := dests, u := u, wrote := streetTurn s src }] }

/-- Copies a unit to a link transmitter; a fork discards the copy of a branch whose link discards (R209). -/
def sendToLink (s : State) (src : HopId) (fork : Bool) (u : RoadUnit) (o : HopId) : State :=
  match o with
  | .linkTx n => if fork && linkDiscards s n.val then bump s 0x000A0060 1 else fly s src [.hop o] u
  | _ => s

/-- The lines in which a unit leaves a hop toward the dies: itself, or from a link ingress what its flit makes whole (R204). -/
def asLines (s : State) (h : HopId) (u : RoadUnit) : State × List RoadUnit :=
  match h with
  | .linkIn _ =>
    let r := unpackFlit (getHop s h) (roadLines s u.road.toNat) u
    (setHop s h r.1, r.2)
  | _ => (s, [u])

/-- Whether an output takes lines. -/
def takesLines : HopId → Bool
  | .linkTx _ => false
  | _ => true

/-- A unit leaves a hop: onto the fibre, to the next hops of its road, as lines where they take lines, or to the tiles at which the road
ends (R204, R209, R210). -/
def sendUnit (s : State) (h : HopId) (e : SlotEntry) (u : RoadUnit) : State :=
  let v := { u with hops := u.hops - 1 }
  match h with
  | .linkTx n => sendOnLink s n v (scheduledSlot h e)
  | _ =>
    let near := e.outs.filter takesLines
    let r := if near.isEmpty then (s, []) else asLines s h v
    let s := r.2.foldl (fun s w => fly s h (near.map Dest.hop) w) r.1
    let s := e.outs.foldl (fun s o => sendToLink s h (decide (1 < e.outs.length)) v o) s
    e.ends.foldl (fun s t => fly s h [.tile t.1 t.2] u) s

/-- The verge after its first unit has left; a late transmitter's next waiting unit takes the room (R206). -/
def refill (s : State) (h : HopId) : State :=
  match h with
  | .linkTx n =>
    let l := getLink s n.val
    match l.waiting with
    | w :: r =>
      let x := getHop s h
      setHop (setLink s n.val { l with waiting := r }) h { x with verge := x.verge ++ [w] }
    | [] => s
  | .linkIn _ => takeEarly (getHop s h).early.length s h
  | _ => s

/-- Whether the output of a hop is free to take a unit: a crossing FIFO that is not stopped and holds fewer valid entries than its
occupancy (R344, R348), a link whose last SCH flit has left (R205). -/
def outputFree (s : State) (h : HopId) : Bool :=
  match h with
  | .street _ _ => !hopStopped s h && decide (((inFlight s h).filter (fun f => !f.isRead)).length < fifoEntries s h)
  | .linkTx n => (getLink s n.val).schQ.isEmpty
  | _ => true

/-- A line on a street link or through a local switch, as an event of power (R359). -/
def chargeHop (s : State) : HopId → State
  | .street d _ => charge s d.val 8 1
  | .localSwitch d => charge s d.val 8 1
  | _ => s

/-- A unit scheduled for `slot` leaves a hop: it takes room of the slot, and the hop's lateness is what it trails by; a transmitter's is
taken when its flit leaves (R205, R242). -/
def noteSent (s : State) (h : HopId) (slot : Nat) : State :=
  let x := getHop s h
  let now := slotNow s h
  let x := { x with slot := now, used := if x.slot = now then x.used + 1 else 1 }
  match h with
  | .linkTx _ => setHop s h x
  | _ => setHop s h { x with lateness := now - slot, since := now + 1 }

/-- The unit at the head of the verge leaves under entry `e`. -/
def sendHead (s : State) (h : HopId) (e : SlotEntry) (u : RoadUnit) (r : List RoadUnit) : State :=
  let x := getHop s h
  let s := noteSent (setHop s h { x with verge := r, table := useTurn x.table u.last }) h (scheduledSlot h e)
  refill (leaveIngress (sendUnit (chargeHop s h) h e u) h u) h

/-- Whether the turn of an entry has come: its slot, room in the slot that passes, and a free output (R203, R205). -/
def turnNow (s : State) (h : HopId) (e : SlotEntry) : Bool :=
  decide (scheduledSlot h e ≤ slotNow s h) && slotFree s h && outputFree s h

/-- HOP_SEND (R205, R207, R209, R211): the unit at the head of the verge takes its turn once it has come, or at once where no entry is
left; it leaves under the entry, or is discarded with the violation of the check it fails. -/
def execHopSend (h : HopId) (s : State) : Host.Outcome State Fault Refusal :=
  .next (
    let x := getHop s h
    if !atWork s || frozen s then s
    else
      match x.verge with
      | [] => s
      | u :: r =>
        let out := setHop s h { x with verge := r }
        if dropped s u then refill (discardUnit out h u) h
        else
          let e := turnEntry x.table
          if e.all (turnNow s h) then
            match unitFault s e u, e with
            | none, some e => sendHead s h e u r
            | v, _ => refill (discardUnit (hopViolation out h (v.getD (0x10, 0)).1 (v.getD (0x10, 0)).2 u.road.toNat) h u) h
          else s)

/-- The road of a queued SCH payload. -/
def payloadRoad (p : List Byte) : Nat := num p 2 2

/-- CREDIT_STARVED (R208): an SCH flit whose turn has come has had no credit for more than 64 slots, and the chip is not frozen. -/
def execCreditStarved (n : LinkId) (s : State) : Host.Outcome State Fault Refusal :=
  .next (
    let l := getLink s n.val
    match l.schQ with
    | p :: _ =>
      if linkActive s n.val && !creditOk l 0 && decide (64 < l.starved) && isCommitted s && !frozen s then
        hopViolation s (.linkTx n) 0x13 (slotNow s (.linkTx n)) (payloadRoad p.payload)
      else s
    | [] => s)

end Sys2Proof.Machine
end

