-- ==== Sys2Proof/Machine/Frames.lean ====
section
/-! DEFINITION. Command frames byte by byte (R402, R406): the header fields of a frame, what makes a header malformed, and the body of
each operation as its values, with the rules whose breach is answered with BAD_FRAME. -/

namespace Sys2Proof.Machine

/-! ### The header (R402) -/

/-- MAGIC. -/
def reqMagic (r : Req) : Nat := num r.frame 0 2
/-- VERSION. -/
def reqVersion (r : Req) : Byte := (r.frame[2]?).getD 0
/-- OP. -/
def reqOp (r : Req) : Nat := num r.frame 3 1
/-- FLAGS. -/
def reqFlags (r : Req) : Nat := num r.frame 4 2
/-- SESSION. -/
def reqSession (r : Req) : Word := BitVec.ofNat 32 (num r.frame 8 4)
/-- TAG. -/
def reqTag (r : Req) : Word := BitVec.ofNat 32 (num r.frame 12 4)
/-- TARGET. -/
def reqTarget (r : Req) : Word := BitVec.ofNat 32 (num r.frame 20 4)
/-- STATION. -/
def reqStation (r : Req) : BitVec 16 := BitVec.ofNat 16 (num r.frame 24 2)
/-- The body. -/
def reqBody (r : Req) : List Byte := r.frame.drop 32

/-- Whether `n` bytes from `i` are zero. -/
def zeroAt (l : List Byte) (i n : Nat) : Bool := (slice l i n).all (fun b => b == 0)

/-- The STATION that the frame of a source carries: zero from a station, the number of the forwarding chip for an operation that came
over the links (R402, R416). -/
def stationOf : Source → BitVec 16
  | .mgt (.forwarded _ n) => n
  | _ => 0

/-- Whether a command frame keeps the header of R402, MAGIC and VERSION apart: no FLAGS, a LENGTH of 0 to 8,192 that is that of the body,
no STATUS, zero where the layout has zero, and the STATION of its source. -/
def frameOk (r : Req) : Bool :=
  decide (32 ≤ r.frame.length) && zeroAt r.frame 4 2 && decide (num r.frame 6 2 = r.frame.length - 32) &&
  decide (num r.frame 6 2 ≤ 8192) && zeroAt r.frame 16 4 && zeroAt r.frame 26 6 && decide (reqStation r = stationOf r.sender)

/-! ### Bodies (R403, R406, R409 to R414, R418, R423, R426, R444) -/

/-- A 32-bit field of a body. -/
def word32 (b : List Byte) (i : Nat) : Word := BitVec.ofNat 32 (num b i 4)
/-- A 64-bit field of a body. -/
def word64 (b : List Byte) (i : Nat) : DWord := BitVec.ofNat 64 (num b i 8)

/-- The values of a body, where its layout holds. -/
def given {α : Type} (ok : Bool) (v : α) : Option α := if ok then some v else none

/-- A slot number, 0 to 3. -/
def slotField (b : List Byte) (i : Nat) : Option (Fin 4) :=
  let n := num b i 1
  if h : n < 4 then some ⟨n, h⟩ else none

/-- No body: TOLLGATE, RETRACE, IMG_VERIFY, IMG_STORE, ID_KEY. -/
def bodyNone (b : List Byte) : Option Unit := given b.isEmpty ()

/-- HELLO: VER_MIN, VER_MAX. -/
def bodyHello (b : List Byte) : Option (Byte × Byte) := given (decide (b.length = 2)) ((b[0]?).getD 0, (b[1]?).getD 0)

/-- A count of words, 1 to 256. -/
def countOk (n : Nat) : Bool := decide (1 ≤ n) && decide (n ≤ 256)

/-- REG_READ and SHADOW_READ: ADDR, COUNT. -/
def bodyRead (b : List Byte) : Option (Word × Nat) := given (decide (b.length = 6) && countOk (num b 4 2)) (word32 b 0, num b 4 2)

/-- REG_WRITE: COUNT, then pairs of ADDR and DATA. -/
def bodyWrite (b : List Byte) : Option (List (Word × Word)) :=
  let n := num b 0 2
  given (countOk n && zeroAt b 2 2 && decide (b.length = 4 + 8 * n))
    ((List.range n).map (fun i => (word32 b (4 + 8 * i), word32 b (8 + 8 * i))))

/-- LOAD: SLOT, ADDR, LENGTH. -/
def bodyLoad (b : List Byte) : Option (Fin 4 × Nat × Nat) :=
  (slotField b 0).bind (fun i =>
    let n := num b 16 8
    given (decide (b.length = 24) && zeroAt b 1 7 && decide (n ≠ 0) && decide (n % 64 = 0)) (i, num b 8 8, n))

/-- The entries of PATCH. -/
def patchEntry (b : List Byte) (i : Nat) : PatchEntry :=
  { coord := decide (num b i 1 = 1), index := num b (i + 4) 4, value := word64 b (i + 8) }

/-- PATCH: SLOT, COUNT, then entries of KIND, INDEX and VALUE. -/
def bodyPatch (b : List Byte) : Option (Fin 4 × List PatchEntry) :=
  (slotField b 0).bind (fun i =>
    let n := num b 2 2
    let at' := (List.range n).map (fun k => 8 + 16 * k)
    given (zeroAt b 1 1 && zeroAt b 4 4 && decide (b.length = 8 + 16 * n) &&
        at'.all (fun k => decide (num b k 1 ≤ 1) && zeroAt b (k + 1) 3)) (i, at'.map (patchEntry b)))

/-- COMMIT: whether it is the join form, and its fields. -/
def bodyCommit (b : List Byte) : Option (Bool × CommitBody) :=
  (slotField b 0).bind (fun i =>
    let f := num b 1 1
    let join := decide (f % 2 = 1)
    let sched := decide (f / 2 % 2 = 1)
    let m := num b 2 2
    let n := num b 32 4
    given (decide (f < 4) && decide (m ≤ 1024) && decide (b.length = 40 + 4 * m) && (join || zeroAt b 8 16) && zeroAt b 36 4 &&
        (if sched then decide (1 ≤ n) && decide (n ≤ 1048576) else decide (n = 0)))
      (join, { slot := i, schedule := sched, map := (List.range m).map (fun k => word32 b (40 + 4 * k)), start := word32 b 4,
               j := word64 b 8, p := word64 b 16, schedAddr := word64 b 24, schedCount := n }))

/-- ABORT: CODE. -/
def bodyAbort (b : List Byte) : Option Byte :=
  let c := (b[0]?).getD 0
  given (decide (b.length = 1) && decide (1 ≤ c.toNat) && decide (c.toNat ≤ 7)) c

/-- UNLOAD: SLOT. -/
def bodySlot (b : List Byte) : Option (Fin 4) := if b.length = 1 then slotField b 0 else none

/-- SEED: SLOT, VALUE. -/
def bodySeed (b : List Byte) : Option (Byte × DWord) :=
  given (decide (b.length = 16) && zeroAt b 1 7) ((b[0]?).getD 0, word64 b 8)

/-- A rank, 0 to 3. -/
def rankField (b : List Byte) (i : Nat) : Option (Fin 4) := slotField b i

/-- One substitution of DETOUR. -/
def substAt (b : List Byte) (i : Nat) : Option Subst :=
  if num b i 1 = 0 then
    given (zeroAt b (i + 1) 3 && zeroAt b (i + 6) 2 && zeroAt b (i + 12) 4) (.chip (num b (i + 4) 2) (word32 b (i + 8)))
  else if num b i 1 = 1 then
    (rankField b (i + 1)).bind (fun f => (rankField b (i + 2)).bind (fun p =>
      given (zeroAt b (i + 3) 1 && zeroAt b (i + 8) 8) (.rank f p (num b (i + 4) 2) (num b (i + 6) 2))))
  else none

/-- DETOUR: COUNT, J, P, G, T0, then substitutions. -/
def bodyDetour (b : List Byte) : Option DetourBody :=
  let n := num b 0 1
  let l := (List.range n).filterMap (fun k => substAt b (32 + 16 * k))
  given (decide (n ≤ 8) && zeroAt b 1 7 && decide (b.length = 32 + 16 * n) && decide (l.length = n))
    { substs := l, j := word64 b 8, p := word64 b 16, g := word32 b 24, t0 := word32 b 28 }

/-- SURVEY: KIND, CLEAR, TARGET. -/
def bodySurvey (b : List Byte) : Option (Byte × Bool × DWord) :=
  let k := (b[0]?).getD 0
  given (decide (b.length = 16) && decide (1 ≤ k.toNat) && decide (k.toNat ≤ 3) && decide (num b 1 1 ≤ 1) && zeroAt b 2 6)
    (k, decide (num b 1 1 = 1), word64 b 8)

/-- QP_OPEN: INDEX and the queue pair that it opens. The host's first request carries the low 24 bits of REQ_PSN. -/
def bodyQpOpen (b : List Byte) : Option (Fin 16 × Byte × Word × Word × Word × BitVec 128) :=
  let i := num b 0 1
  if h : i < 16 then
    given (decide (b.length = 32) && decide (num b 1 1 ≤ 2) && zeroAt b 2 2)
      (⟨i, h⟩, (b[1]?).getD 0, word32 b 4, word32 b 8, word32 b 12, BitVec.ofNat 128 (num b 16 16))
  else none

/-- QP_CLOSE: INDEX. -/
def bodyQpClose (b : List Byte) : Option (Fin 16) :=
  let i := num b 0 1
  if h : i < 16 then given (decide (b.length = 1)) ⟨i, h⟩ else none

/-- JRN_READ: FIRST, COUNT. -/
def bodyJrnRead (b : List Byte) : Option (Nat × Nat) :=
  let n := num b 8 2
  given (decide (b.length = 10) && decide (1 ≤ n) && decide (n ≤ 127)) (num b 0 8, n)

/-- A length of bytes to read, 1 to 8,192. -/
def lengthOk (n : Nat) : Bool := decide (1 ≤ n) && decide (n ≤ 8192)

/-- SEAL_READ: SEAL, OFFSET, LENGTH. -/
def bodySealRead (b : List Byte) : Option (Nat × Nat × Nat) :=
  let n := num b 12 2
  given (decide (b.length = 14) && lengthOk n) (num b 0 8, num b 8 4, n)

/-- REPORT_READ: SEQ, COUNT. -/
def bodyReportRead (b : List Byte) : Option (Nat × Nat) :=
  let n := num b 4 1
  given (decide (b.length = 5) && decide (1 ≤ n) && decide (n ≤ 64)) (num b 0 4, n)

/-- IMG_BEGIN: TOTAL. -/
def bodyImgBegin (b : List Byte) : Option Nat := given (decide (b.length = 8)) (num b 0 8)

/-- IMG_DATA: OFFSET and the data bytes. -/
def bodyImgData (b : List Byte) : Option (Nat × List Byte) :=
  given (zeroAt b 4 4 && decide (9 ≤ b.length) && decide (b.length ≤ 8192)) (num b 0 4, b.drop 8)

/-- FLASH_READ and ATTEST_READ: OFFSET, LENGTH. -/
def bodySpan (b : List Byte) : Option (Nat × Nat) :=
  let n := num b 4 2
  given (decide (b.length = 6) && lengthOk n) (num b 0 4, n)

/-- ATTEST: NONCE. -/
def bodyAttest (b : List Byte) : Option (BitVec 256) := given (decide (b.length = 32)) (BitVec.ofNat 256 (num b 0 32))

/-! ### The operations (R406) -/

/-- The columns of R406 of an opcode: host port, management port. -/
def opPorts (op : Nat) : Bool × Bool :=
  if [0x01, 0x02, 0x03, 0x13, 0x21, 0x28, 0x29].contains op then (true, true)
  else if [0x10, 0x11, 0x12, 0x14, 0x15, 0x20, 0x22, 0x30, 0x31].contains op then (true, false)
  else if [0x40, 0x41, 0x42].contains op || (decide (0x50 ≤ op) && decide (op ≤ 0x57)) then (false, true)
  else (false, false)

/-- Whether a body keeps the layout of its opcode. -/
def bodyOk (op : Nat) (b : List Byte) : Bool :=
  match op with
  | 0x01 => (bodyHello b).isSome
  | 0x02 => (bodyRead b).isSome
  | 0x03 => (bodyWrite b).isSome
  | 0x10 => (bodyLoad b).isSome
  | 0x11 => (bodyPatch b).isSome
  | 0x12 => (bodyCommit b).isSome
  | 0x13 => (bodyAbort b).isSome
  | 0x14 => (bodySlot b).isSome
  | 0x15 => (bodySeed b).isSome
  | 0x22 => (bodyDetour b).isSome
  | 0x28 => (bodySurvey b).isSome
  | 0x29 => (bodyRead b).isSome
  | 0x30 => (bodyQpOpen b).isSome
  | 0x31 => (bodyQpClose b).isSome
  | 0x40 => (bodyJrnRead b).isSome
  | 0x41 => (bodySealRead b).isSome
  | 0x42 => (bodyReportRead b).isSome
  | 0x50 => (bodyImgBegin b).isSome
  | 0x51 => (bodyImgData b).isSome
  | 0x54 => (bodySpan b).isSome
  | 0x56 => (bodyAttest b).isSome
  | 0x57 => (bodySpan b).isSome
  | _ => b.isEmpty

end Sys2Proof.Machine
end

