-- ==== Sys2Proof/Machine/Completions.lean ====
section
/-! DEFINITION. Command frames and their completions (R397, R402 to R407, R415 to R417, R442): what an operation meets before
it is carried out, the completions kept for repeats, and the way of a frame between chips (R272, R416). -/

namespace Sys2Proof.Machine

/-! ### Statuses (R405) -/

/-- BAD_FRAME. -/
def stBadFrame : Nat := 5
/-- BAD_VERSION. -/
def stBadVersion : Nat := 6
/-- ITIN_MISMATCH. -/
def stItinMismatch : Nat := 8
/-- ROAD_UNRESOLVED. -/
def stRoadUnresolved : Nat := 9
/-- MEM_LAYOUT_BAD. -/
def stMemLayoutBad : Nat := 10
/-- REFUSED. -/
def stRefused : Nat := 11
/-- TARGET_UNREACHABLE. -/
def stTargetUnreachable : Nat := 12
/-- PEER_BOUND. -/
def stPeerBound : Nat := 13
/-- NOT_FOUND. -/
def stNotFound : Nat := 14
/-- DATA_ERROR. -/
def stDataError : Nat := 15
/-- SESSION. -/
def stSession : Nat := 16
/-- TOO_LATE. -/
def stTooLate : Nat := 17

/-! ### Routes between chips (R14, R272) -/

/-- The coordinate word that addresses the receiving chip. -/
def allOnes : Word := 0xFFFFFFFF

/-- The bundle toward a target from one axis on: the first axis, X to Z, on which the coordinates differ, the shorter way
round on a ring and + on a tie. -/
def bundleFrom (sh me dst : Word) : Nat → Nat → Option Nat
  | 0, _ => none
  | n + 1, axis =>
    let a := coordAt me axis
    let b := coordAt dst axis
    if a = b then bundleFrom sh me dst n (axis + 1)
    else
      let len := shapeLen sh axis
      let up := (b + len - a) % len
      let plus := if shapeWraps sh axis then decide (up ≤ len - up) else decide (a < b)
      some (2 * axis + if plus then 0 else 1)

/-- The lowest-numbered ACTIVE link of the bundle toward a target; none where R272 refuses the route or the link runs TZL
1.1 (R252, R416). -/
def routeTo (s : State) (dst : Word) : Option Nat :=
  if !ownValid s || !coordValid (shape s) dst || coordBlock dst ≠ coordBlock (coord s) then none
  else
    match bundleFrom (shape s) (coord s) dst 3 0 with
    | none => none
    | some b =>
      match (List.range 4).find? (fun i => linkActive s (4 * b + i)) with
      | some i => if (getLink s (4 * b + i)).version.toNat < 0x20 then none else some (4 * b + i)
      | none => none

/-! ### Frames (R402, R416) -/

/-- A completion frame: its header and body. It returns the VERSION, SESSION and TAG of its command (log 99). -/
def frameBytes (op flags : Nat) (r : Req) (status station : Nat) (target : Word) (body : List Byte) : List Byte :=
  leBytes 2 0xD96C ++ [reqVersion r, BitVec.ofNat 8 op] ++ leBytes 2 flags ++ leBytes 2 body.length ++
  leBytes 4 (reqSession r).toNat ++ leBytes 4 (reqTag r).toNat ++ leBytes 2 status ++ [0, 0] ++ leBytes 4 target.toNat ++
  leBytes 2 station ++ List.replicate 6 0 ++ body

/-- The payloads of the MGT flits that carry a frame (R416). -/
def fragments (frame : BitVec 16) (bytes : List Byte) : List (List Byte) :=
  let n := ceilDiv bytes.length 240
  (List.range n).map (fun i =>
    leBytes 1 n ++ leBytes 1 i ++ leBytes 2 frame.toNat ++ slice bytes (240 * i) 240)

/-- Queues a frame in MGT flits on link n. -/
def sendFrame (s : State) (n : Nat) (frame : BitVec 16) (bytes : List Byte) : State :=
  let l := getLink s n
  setLink s n { l with mgtQ := l.mgtQ ++ fragments frame bytes }

/-- The number a chip keeps for the station key of an originating station: the one it holds, else the next, or, with all 65,535 in use,
that of the key kept longest, which is dropped (R417; log 11). -/
def stationNo (s : State) (k : StationKey) : State × BitVec 16 :=
  match s.ports.stations.find? (fun p => p.1 == k) with
  | some p => (s, p.2)
  | none =>
    let l := s.ports.stations
    let n := if l.length < 65535 then BitVec.ofNat 16 (l.length + 1) else (l.head?.map (·.2)).getD 1
    ({ s with ports := { s.ports with stations := l.drop (l.length - 65534) ++ [(k, n)] } }, n)

/-! ### Completions (R404, R405) -/

/-- The TARGET of a completion: all ones on the host port, the chip addressed on the management port, and the forwarding chip for an
operation that another chip forwarded (R402, R416; log 99). -/
def answerTarget (r : Req) : Word :=
  match r.sender with
  | .host _ => allOnes
  | .mgt (.forwarded c _) => c
  | _ => reqTarget r

/-- The frame of a completion; one that is sent again has REPEAT set (R402, R404). -/
def answerFrame (r : Req) (k : Kept) (again : Bool) : List Byte :=
  frameBytes k.op.toNat (if again then 3 else 1) r k.status (stationOf r.sender).toNat (answerTarget r) k.body

/-- The link by which the last operation of a station of another chip came (R416). -/
def pathOf (s : State) (c : Word) (n : BitVec 16) : Option Nat :=
  (s.ports.paths.find? (fun p => p.1 == StationKey.forwarded c n)).map (·.2)

/-- Sends a completion to where its command came from; that of an operation which another chip forwarded goes back on the path by which the
operation came (R416). -/
def answer (s : State) (r : Req) (k : Kept) (again : Bool) : State :=
  match r.sender with
  | .mgt (.forwarded c n) =>
    match pathOf s c n with
    | some n =>
      sendFrame { s with ports := { s.ports with nextFrame := s.ports.nextFrame + 1 } } n s.ports.nextFrame (answerFrame r k again)
    | none => s
  | _ => emit s (.completion r.sender (answerFrame r k again))

/-- Whether a source is the host port. -/
def fromHost : Source → Bool
  | .host _ => true
  | _ => false

/-- The source address under which completions are kept, and to which an image session belongs: the address of a station, whatever its UDP
port (R404, R445). -/
def addressOf : Source → Source
  | .mgt (.direct ip _) => .mgt (.direct ip 0)
  | x => x

/-- Keeps a completion: the last 1,024 of the host session, the last 256 of each management source (R404). -/
def keep (s : State) (k : Kept) : State :=
  if fromHost k.from_ then
    { s with ports := { s.ports with keptHost := (s.ports.keptHost ++ [k]).drop (s.ports.keptHost.length + 1 - 1024) } }
  else
    let mine := s.ports.keptMgt.filter (fun x => x.from_ == k.from_) ++ [k]
    { s with ports := { s.ports with
      keptMgt := s.ports.keptMgt.filter (fun x => x.from_ != k.from_) ++ mine.drop (mine.length - 256) } }

/-- Completes an operation: its completion is kept, when it belongs to the session, and sent (R404, R405). -/
def complete (s : State) (r : Req) (op status : Nat) (body : List Byte) : State :=
  let k : Kept := { from_ := addressOf r.sender, tag := reqTag r, op := BitVec.ofNat 8 op, status := status, body := body }
  let mine := match r.sender with
    | .host a => decide (s.ports.bound = some a) && (decide (op = 1) || decide (reqSession r = s.ports.session))
    | _ => true
  answer (if mine then keep s k else s) r k false

/-- The kept completion under a frame's TAG; a HELLO repeats a HELLO only, since it names no session (R404). -/
def keptFor (s : State) (r : Req) (op : Nat) : Option Kept :=
  match r.sender with
  | .host a =>
    if s.ports.bound = some a ∧ (op = 1 ∨ reqSession r = s.ports.session) then
      s.ports.keptHost.find? (fun k => k.tag == reqTag r && (op != 1 || k.op == 1))
    else none
  | _ => s.ports.keptMgt.find? (fun k => k.from_ == addressOf r.sender && k.tag == reqTag r)

/-- Whether the frame repeats a TOLLGATE that has not completed: it is not executed again, and its one completion follows. -/
def awaitsTollgate (s : State) (r : Req) : Bool :=
  s.sch.tollgates.any (fun q => q.sender == r.sender && reqSession q == reqSession r && reqTag q == reqTag r)

/-! ### What an operation meets first (R397, R402, R403, R406, R415, R416, R442) -/

/-- The UDP ports of PTP, whose frames the MAC hands to the time unit and never to an engine (R386). -/
def ptpPort (p : BitVec 16) : Bool := p == 319 || p == 320

/-- Whether an operation that another chip forwarded is the one that a frame from there carries for that chip's station (R416, R417). -/
def isArrived (c : Word) (n : BitVec 16) (b : List Byte) (a : Arrived) : Bool :=
  a.frame == b && a.via == c && BitVec.ofNat 16 (num b 24 2) == n

/-- Whether a frame reaches an engine: its port is up, or it has come over the links (R386, R397, R416, R442). -/
def arrives (s : State) (r : Req) : Bool :=
  s.porstN && s.wrstN &&
  (match r.sender with
   | .host _ => s.ports.hostUp && !ptpPort r.dport
   | .mgt (.direct _ _) => s.ports.mgtUp && !ptpPort r.dport
   | .mgt (.forwarded c n) => s.ports.arrived.any (isArrived c n r.frame)
   | _ => false)

/-- The UDP port on which the engine of a source listens: HOST_CTRL.CMD_PORT, MGT_CTRL.OP_PORT, or its reset value while R443 holds
(R397, R443). -/
def portUdp (s : State) : Source → Option (BitVec 16)
  | .host _ => some (BitVec.ofNat 16 (bits (getReg s 0x00080004) 15 0))
  | .mgt (.direct _ _) => some (BitVec.ofNat 16 (bits (mgtSetting s 0x00090004) 15 0))
  | _ => none

/-- Whether the dispatch of R397 gives a frame to the engine of its port: its UDP port is that of the engine, and its MAGIC is right
(R402). -/
def dispatched (s : State) (r : Req) : Bool :=
  decide (reqMagic r = 0xD96C) &&
  (match portUdp s r.sender with
   | some p => decide (r.dport = p)
   | none => true)

/-- A frame that is discarded and counted (R397). -/
def discardFrame (s : State) (host : Bool) : State := bump s (if host then 0x00080128 else 0x00090110) 1

/-- The engine takes a frame: one that came over the links waits no longer, and its completion goes back by the link it came by (R416). -/
def takeReq (s : State) (r : Req) : State :=
  match r.sender with
  | .mgt (.forwarded c n) =>
    match s.ports.arrived.find? (isArrived c n r.frame) with
    | some a =>
      { s with ports := { s.ports with
          arrived := s.ports.arrived.erase a
          paths := s.ports.paths.filter (fun p => p.1 != .forwarded c n) ++ [(.forwarded c n, a.link)] } }
    | none => s
  | _ => s

/-- Whether the frame addresses this chip (R266, R402). -/
def forMe (s : State) (r : Req) : Bool := reqTarget r == allOnes || sameChip (reqTarget r) (coord s)

/-- Whether the frame is an operation between chips (R416). -/
def forOther (s : State) (r : Req) : Bool := !fromHost r.sender && !forMe s r && coordValid (shape s) (reqTarget r)

/-- The operations that R442 leaves in RECOVERY. -/
def recoveryOp (op : Nat) : Bool := [0x01, 0x02, 0x03, 0x40, 0x41, 0x42].contains op || (decide (0x50 ≤ op) && decide (op < 0x58))

/-- The status that refuses a host command before it is looked at (R402, R403). -/
def hostRefusal (s : State) (r : Req) (op : Nat) (a : BitVec 128) : Option Nat :=
  if reqTarget r ≠ allOnes then some stBadFrame
  else if op = 1 then (if reqVersion r = 0 then none else some stBadFrame)
  else if s.ports.bound ≠ some a ∨ reqSession r ≠ s.ports.session then some stSession
  else if reqVersion r ≠ s.ports.version then some stBadFrame
  else none

/-- The status that refuses a management operation before it is looked at (R402, R415, R442). Nothing is negotiated before step 7 (R450):
a HELLO in BOOT is answered with BAD_STATE (log 107). -/
def mgtRefusal (s : State) (r : Req) (op : Nat) : Option Nat :=
  if reqSession r ≠ 0 ∨ forMe s r = false then some stBadFrame
  else if reqVersion r ≠ (if op = 1 then 0 else 0x10) then some stBadFrame
  else if s.dev = .boot ∧ op = 1 then some stBadState
  else if s.dev = .recovery ∧ recoveryOp op = false then some stBadState
  else none

/-- The status that refuses an operation before it is looked at: a malformed header, an opcode that R406 does not list for the port, or
what the port refuses. -/
def refusal (s : State) (r : Req) (op : Nat) : Option Nat :=
  if frameOk r = false ∨ (if fromHost r.sender then (opPorts op).1 else (opPorts op).2) = false then some stBadFrame
  else
    match r.sender with
    | .host a => hostRefusal s r op a
    | _ => mgtRefusal s r op

/-- Counts a command or an operation accepted: one that is neither a repeat nor refused for its frame, its session or its port (R402,
R403, R429, R430; log 100). -/
def countOp (s : State) (src : Source) : State := bump s (if fromHost src then 0x00080100 else 0x00090100) 1

/-- What carrying out an operation gives: the state, the status and the completion body. -/
abbrev Reply := State × Nat × List Byte

/-- Whether a frame is one of the operation `op` for this chip. A frame with another opcode is another row's command. -/
def isFor (s : State) (r : Req) (op : Nat) : Bool := arrives s r && decide (reqOp r = op) && !forOther s r

/-- An operation as it arrives (R397, R402 to R406): a frame that the dispatch does not give to the engine is discarded; a repeat is
answered from what is kept; a frame that is refused, or whose body breaks the layout that `parse` reads, is answered so; every other
is carried out by `f`, which completes it. -/
def accept {α : Type} (s : State) (r : Req) (op : Nat) (parse : List Byte → Option α) (f : α → State → State) : State :=
  if !isFor s r op then s
  else
    let s := takeReq s r
    if !dispatched s r then discardFrame s (fromHost r.sender)
    else
      match keptFor s r op with
      | some k => answer (bump s 0x00080108 1) r k true
      | none =>
        if awaitsTollgate s r then s
        else
          match refusal s r op, parse (reqBody r) with
          | some c, _ => complete s r op c []
          | none, none => complete s r op stBadFrame []
          | none, some v => f v (countOp s r.sender)

/-- Completes an operation begun in `s` with its reply; a device that the operation has reset sends nothing. -/
def finishOp (s : State) (r : Req) (op : Nat) (a : Reply) : State :=
  if a.1.epoch = s.epoch then complete a.1 r op a.2.1 a.2.2 else a.1

/-- An operation that completes as soon as its immediate effect is done (R405). -/
def serve {α : Type} (s : State) (r : Req) (op : Nat) (parse : List Byte → Option α) (f : α → State → Reply) : State :=
  accept s r op parse (fun v s => finishOp s r op (f v s))

/-- What refuses a command that appends records (R59, R66). -/
def appendRefusal (s : State) : Option Nat :=
  if !s.jrn.kept then some stBadState else if journalFull s then some stJournalFull else none

end Sys2Proof.Machine
end

