-- ==== Sys2Proof/Machine/Survey.lean ====
section
/-! DEFINITION. Surveys of the event counters (R425 to R427). -/

namespace Sys2Proof.Machine

/-- A survey fires (R427): the counters are copied, the moment is recorded, and the counters clear when it asks for it. -/
def fireSurvey (s : State) (clear atEnd : Bool) : State :=
  let s := { s with shadowCnt := s.cnt, cnt := if clear then [] else s.cnt }
  let s := setReg s 0x00090028 (BitVec.ofNat 32 s.sch.milestone)
  let s := setReg s 0x0009002C (BitVec.ofNat 32 (s.sch.milestone / 2 ^ 32))
  let s := setReg s 0x00090030 (BitVec.ofNat 32 s.sch.jobMs)
  let s := setReg s 0x00090034 (BitVec.ofNat 32 (s.sch.jobMs / 2 ^ 32))
  let s := setReg s 0x00090038 (localTime s)
  { s with ports := { s.ports with
      survey := none, surveyDone := true, atEnd := atEnd, cleared := clear, surveySeq := s.ports.surveySeq + 1 } }

/-- At a boundary that begins job milestone j, or ends the job: an armed survey of KIND 1 fires when its target is reached
(R426). -/
def surveyAt (s : State) (j : Nat) (ends : Bool) : State :=
  match s.ports.survey with
  | some (k, clear, target) => if k = 1 ∧ (target.toNat ≤ j ∨ ends = true) then fireSurvey s clear ends else s
  | none => s

end Sys2Proof.Machine
end

