-- ==== Sys2Proof/Machine/HostOps.lean ====
section
/-! DEFINITION. The operations that both ports share and those of the host session (R397, R402, R403, R406, R407, R416, R426 to
R428): HELLO, register accesses, surveys, queue pairs, and frames that are refused, discarded or passed on. -/

namespace Sys2Proof.Machine

/-! ### HELLO (R403) -/

/-- The range of protocol versions of the port of a source: lowest and highest. -/
def versionRange (s : State) (src : Source) : Nat × Nat :=
  let w := readReg s (if fromHost src then 0x0000000C else 0x00000010)
  (bits w 7 0, bits w 15 8)

/-- The highest version within both ranges. -/
def chooseVersion (r : Nat × Nat) (lo hi : Byte) : Option Nat :=
  let v := min r.2 hi.toNat
  if max r.1 lo.toNat ≤ v then some v else none

/-- The completion body of HELLO: the version and the session, 4 bytes each, then five identity words. -/
def helloBody (s : State) (version : Nat) (session : Word) : List Byte :=
  leBytes 4 version ++ leBytes 4 session.toNat ++
  [0x18, 0x1C, 0x0C, 0x10, 0x08].flatMap (fun a => leBytes 4 (readReg s a).toNat)

/-- Binds the host port to an address and starts a new session. -/
def bindHost (s : State) (a : BitVec 128) (version : Nat) : State :=
  let n := Config.sessionNumber s.fresh
  let s := takeFresh (unbindHost s)
  { s with ports := { s.ports with bound := some a, session := n, version := BitVec.ofNat 8 version } }

/-- What HELLO does and answers. -/
def helloOp (r : Req) (lo hi : Byte) (s : State) : Reply :=
  let v := chooseVersion (versionRange s r.sender) lo hi
  match r.sender with
  | .host a =>
    if s.ports.bound.isSome ∧ s.ports.bound ≠ some a then (s, stPeerBound, [])
    else
      match v with
      | some v => let t := bindHost s a v; (t, stOk, helloBody t v t.ports.session)
      | none => (s, stBadVersion, [])
  | _ =>
    match v with
    | some v => (s, stOk, helloBody s v 0)
    | none => (s, stBadVersion, [])

/-- HELLO (R403). -/
def execHello (r : Req) (s : State) : Host.Outcome State Fault Refusal :=
  .next (serve s r 0x01 bodyHello (fun v => helloOp r v.1 v.2))

/-! ### REG_READ and REG_WRITE (R407) -/

/-- Reads `n` words from an address on, adding an entry of 8 bytes each. -/
def readWords (src : Source) : Nat → Word → State → List Byte → State × List Byte
  | 0, _, s, l => (s, l)
  | n + 1, a, s, l =>
    let x := readAccess s src a
    readWords src n (a + 4) x.1 (l ++ leBytes 4 x.2.2.toNat ++ leBytes 2 x.2.1 ++ [0, 0])

/-- REG_READ (R407). -/
def execRegRead (r : Req) (s : State) : Host.Outcome State Fault Refusal :=
  .next (serve s r 0x02 bodyRead (fun v s => let x := readWords r.sender v.2 v.1 s []; (x.1, stOk, x.2)))

/-- Writes pairs in order, adding a status of 2 bytes each; a word that resets the device is the last one carried out. -/
def writeWords (src : Source) : List (Word × Word) → State → List Byte → State × List Byte
  | [], s, l => (s, l)
  | p :: rest, s, l =>
    let x := writeAccess s src p.1 p.2
    let l := l ++ leBytes 2 x.2
    if x.1.epoch = s.epoch then writeWords src rest x.1 l else (x.1, l)

/-- REG_WRITE (R407). -/
def execRegWrite (r : Req) (s : State) : Host.Outcome State Fault Refusal :=
  .next (serve s r 0x03 bodyWrite (fun v s => let x := writeWords r.sender v s []; (x.1, stOk, x.2)))

/-! ### Surveys (R426 to R428) -/

/-- Replaces the armed survey. -/
def setSurvey (s : State) (v : Option (Byte × Bool × DWord)) : State :=
  { s with ports := { s.ports with survey := v, surveyDone := false } }

/-- What SURVEY does and answers. -/
def surveyOp (kind : Byte) (clear : Bool) (target : DWord) (s : State) : Reply :=
  let armed := s.ports.survey.isSome
  if kind = 3 then (if armed then (setSurvey s none, stOk, []) else (s, stBadState, []))
  else if kind = 1 then
    if armed || !isCommitted s then (s, stBadState, [])
    else if target.toNat ≤ s.sch.jobMs then (s, stTooLate, [])
    else (setSurvey s (some (1, clear, target)), stOk, [])
  else if kind = 2 then (if armed then (s, stBadState, []) else (setSurvey s (some (2, clear, target)), stOk, []))
  else (s, stBadFrame, [])

/-- SURVEY (R426). -/
def execSurvey (r : Req) (s : State) : Host.Outcome State Fault Refusal :=
  .next (serve s r 0x28 bodySurvey (fun v => surveyOp v.1 v.2.1 v.2.2))

/-- SURVEY_FIRE (R426, R427): an armed survey of KIND 2 fires once its network time is reached; one of KIND 1 fires within its
boundary. -/
def execSurveyFire (s : State) : Host.Outcome State Fault Refusal :=
  .next (match s.ports.survey with
    | some (k, clear, target) => if k = 2 ∧ reached s (half target false) = true then fireSurvey s clear false else s
    | none => s)

/-- The entry of a shadow copy. -/
def shadowEntry (s : State) (a : Word) : List Byte :=
  match counterAt a.toNat with
  | some (base, hi) =>
    let c := SMap.get {} s.shadowCnt base
    leBytes 4 (if hi then cntHi c else cntLo c).toNat ++ leBytes 2 stOk ++ [0, 0]
  | none => leBytes 4 0 ++ leBytes 2 stNoRegister ++ [0, 0]

/-- SHADOW_READ (R428). -/
def execShadowRead (r : Req) (s : State) : Host.Outcome State Fault Refusal :=
  .next (serve s r 0x29 bodyRead (fun v s =>
    (s, stOk, (List.range v.2).flatMap (fun i => shadowEntry s (v.1 + BitVec.ofNat 32 (4 * i))))))

/-! ### Queue pairs (R399, R403, R406) -/

/-- QP_OPEN (R406): a queue pair that is open is opened afresh (log 38). -/
def execQpOpen (r : Req) (s : State) : Host.Outcome State Fault Refusal :=
  .next (serve s r 0x30 bodyQpOpen (fun v s =>
    let q : QueuePair := { pmtu := v.2.1, hostQpn := v.2.2.1, reqPsn := v.2.2.2.1, respPsn := v.2.2.2.2.1, gid := v.2.2.2.2.2,
                           psn := v.2.2.2.1.setWidth 24 }
    let others := s.ports.qps.filter (fun p => decide (p.1 ≠ v.1.val))
    ({ s with ports := { s.ports with qps := others ++ [(v.1.val, q)] } }, stOk, leBytes 4 (0x100 + v.1.val))))

/-- QP_CLOSE (R406): one that is not open is not found (log 38). -/
def execQpClose (r : Req) (s : State) : Host.Outcome State Fault Refusal :=
  .next (serve s r 0x31 bodyQpClose (fun i s =>
    if (lookup s.ports.qps i.val).isNone then (s, stNotFound, [])
    else ({ s with ports := { s.ports with qps := s.ports.qps.filter (fun p => decide (p.1 ≠ i.val)) } }, stOk, [])))

/-! ### Frames that are refused, discarded or answered by a port (R397, R398, R402, R406, R443) -/

/-- Whether a frame is a command that some row of R406 carries out: its header is well formed, and its port and body are those of its
opcode. -/
def wellFramed (r : Req) : Bool :=
  frameOk r && (if fromHost r.sender then (opPorts (reqOp r)).1 else (opPorts (reqOp r)).2) && bodyOk (reqOp r) (reqBody r)

/-- BAD_FRAME (R402, R406): a frame with a malformed header or body, or an opcode that the port does not have. -/
def execBadFrame (r : Req) (s : State) : Host.Outcome State Fault Refusal :=
  .next (if wellFramed r then s else serve s r (reqOp r) (fun _ => (none : Option Unit)) (fun _ s => (s, stOk, [])))

/-- Whether a port is up. -/
def portUp (s : State) (p : PortId) : Bool :=
  s.porstN && s.wrstN && (match p with
    | .host => s.ports.hostUp
    | .mgt => s.ports.mgtUp)

/-- Whether a port uses the recovery addresses (R443). -/
def onRecovery (s : State) (p : PortId) : Bool := decide (p = .mgt) && mgtRecovery s

/-- The MAC address of a port: the image's, or the recovery address 02:59:53 followed by GEN_UID_LO [23:0] (R398, R443). -/
def portMac (s : State) (p : PortId) : BitVec 48 :=
  if onRecovery s p then BitVec.ofNat 48 (0x025953 * 2 ^ 24 + s.boot.uid.toNat % 2 ^ 24)
  else
    let a := if p = .host then 0x00080008 else 0x00090008
    BitVec.ofNat 48 ((getReg s (a + 4)).toNat * 2 ^ 32 + (getReg s a).toNat)

/-- The IPv4 address of a port, if it has one (R398, R443). -/
def portIpv4 (s : State) (p : PortId) : Option Word :=
  if onRecovery s p then none else some (getReg s (if p = .host then 0x00080010 else 0x00090010))

/-- The link-local address that EUI-64 forms from a MAC address: fe80::/64, the MAC's halves about FFFE, and its universal bit flipped
(R398). -/
def linkLocal (mac : BitVec 48) : BitVec 128 :=
  let m := mac.toNat ^^^ 0x020000000000
  BitVec.ofNat 128 (0xFE80 * 2 ^ 112 + m / 2 ^ 24 * 2 ^ 40 + 0xFFFE * 2 ^ 24 + m % 2 ^ 24)

/-- Whether a port's address is asked for (R397). -/
def asksFor (s : State) (p : PortId) : Asked → Bool
  | .v4 ip => portIpv4 s p == some ip
  | .v6 ip => ip == linkLocal (portMac s p)

/-- Whether a received frame matches a row of R397 for a port; a command frame must have the right MAGIC (R402). -/
def matchesRow (s : State) (p : PortId) : RxFrame → Bool
  | .ptp => true
  | .asks a => asksFor s p a
  | .udp d b =>
    if ptpPort d then true
    else if d = 4791 then decide (p = .host)
    else decide (bits (if p = .host then getReg s 0x00080004 else mgtSetting s 0x00090004) 15 0 = d.toNat) && decide (num b 0 2 = 0xD96C)
  | .other => false

/-- DISCARDED_FRAME (R397, R402). -/
def execDiscardedFrame (p : PortId) (f : RxFrame) (s : State) : Host.Outcome State Fault Refusal :=
  .next (if portUp s p && !matchesRow s p f then discardFrame s (decide (p = .host)) else s)

/-- ARP_REQUEST (R397, R398): answered where it asks for the port's address; else the frame is discarded and counted. -/
def execArpRequest (p : PortId) (a : Asked) (s : State) : Host.Outcome State Fault Refusal :=
  .next (
    if !portUp s p then s
    else if asksFor s p a then emit s (.neighbour p a (portMac s p))
    else discardFrame s (decide (p = .host)))

/-! ### Operations between chips (R416, R417) -/

/-- Forwards a frame of a station toward its target. -/
def forwardFrame (s : State) (r : Req) (k : StationKey) (n : Nat) : State :=
  let x := stationNo s k
  let s := x.1
  let f := s.ports.nextFrame
  let s := { s with ports := { s.ports with nextFrame := f + 1, forwards := s.ports.forwards ++ [(f, r)] } }
  sendFrame s n f (slice r.frame 0 24 ++ leBytes 2 x.2.toNat ++ r.frame.drop 26)

/-- Whether an operation of a station is on its way already: a repeat then waits for the one completion. -/
def onItsWay (s : State) (r : Req) : Bool := s.ports.forwards.any (fun f => addressOf f.2.sender == addressOf r.sender && reqTag f.2 == reqTag r)

/-- OPERATION_BETWEEN_CHIPS (R416): refused with TARGET_UNREACHABLE where R272 gives no route. -/
def execOperationBetweenChips (r : Req) (s : State) : Host.Outcome State Fault Refusal :=
  .next (
    match r.sender with
    | .mgt k =>
      if !arrives s r || !forOther s r then s
      else if !dispatched s r then discardFrame s false
      else if onItsWay s r then s
      else
        match keptFor s r (reqOp r) with
        | some c => answer (bump s 0x00080108 1) r c true
        | none =>
          if frameOk r = false ∨ reqSession r ≠ 0 then complete s r (reqOp r) stBadFrame []
          else
            let s := countOp s r.sender
            match routeTo s (reqTarget r) with
            | some n => forwardFrame s r k n
            | none => complete s r (reqOp r) stTargetUnreachable []
    | _ => s)

/-- FORWARD_TIMEOUT (R416): no completion has come within 1 ms. -/
def execForwardTimeout (frame : BitVec 16) (s : State) : Host.Outcome State Fault Refusal :=
  .next (match s.ports.forwards.find? (fun f => f.1 == frame) with
    | some f =>
      let s := { s with ports := { s.ports with forwards := s.ports.forwards.filter (fun g => g.1 != frame) } }
      complete s f.2 (reqOp f.2) stTargetUnreachable []
    | none => s)

end Sys2Proof.Machine
end

