-- ==== Sys2Proof/Machine/I3c.lean ====
section
/-! DEFINITION. The I3C sideband (R419, R420): private writes and reads, and dynamic address assignment. -/

namespace Sys2Proof.Machine

/-- What the next private read returns; a device that the access has reset keeps nothing. -/
def setAnswer (s : State) (l : List Byte) : State :=
  if s.porstN && s.wrstN then { s with ports := { s.ports with i3cAnswer := some l } } else s

/-- Whether the sideband runs: no reset is asserted, and the hub clock is there, with REFCLK and the hub PLL's lock (R340, R355). -/
def i3cLive (s : State) : Bool := s.porstN && s.wrstN && s.clk.refOk && s.clk.locks.getLsbD 4

/-- I3C_PRIVATE_WRITE (R420): one register write from the source I3C. -/
def execI3cPrivateWrite (addr data : Word) (s : State) : Host.Outcome State Fault Refusal :=
  .next (
    if i3cLive s then
      let x := writeAccess s .i3c addr data
      setAnswer x.1 (leBytes 2 x.2)
    else s)

/-- I3C_PRIVATE_READ_REQUEST (R420): one register read from the source I3C. -/
def execI3cPrivateReadRequest (addr : Word) (s : State) : Host.Outcome State Fault Refusal :=
  .next (
    if i3cLive s then
      let x := readAccess s .i3c addr
      setAnswer x.1 (leBytes 2 x.2.1 ++ leBytes 4 x.2.2.toNat)
    else s)

/-- I3C_OTHER_PRIVATE_WRITE (R420): ignored, with STATUS 0x0005. -/
def execI3cOtherPrivateWrite (s : State) : Host.Outcome State Fault Refusal :=
  .next (if i3cLive s then setAnswer s (leBytes 2 stBadFrame) else s)

/-- I3C_PRIVATE_READ (R420): the status of the last write once, then zero bytes. -/
def execI3cPrivateRead (length : Nat) (s : State) : Host.Outcome State Fault Refusal :=
  .next (
    if i3cLive s then
      emit { s with ports := { s.ports with i3cAnswer := none } } (.i3c (slice (s.ports.i3cAnswer.getD []) 0 length))
    else s)

/-- The provisional ID, most significant byte first. -/
def provisionalId (s : State) : List Byte := (leBytes 2 0x5953).reverse ++ (leBytes 4 (half (uidView s) false).toNat).reverse

/-- ENTDAA (R419): the device sends its provisional ID and takes the address. -/
def execEntdaa (addr : BitVec 7) (s : State) : Host.Outcome State Fault Refusal :=
  .next (if i3cLive s then emit { s with ports := { s.ports with i3cAddr := addr } } (.i3c (provisionalId s)) else s)

end Sys2Proof.Machine
end

