-- ==== Sys2Proof/Machine/DetourCore.lean ====
section
/-! DEFINITION. START and the end of the DETOUR cause (R196, R279, R281). -/

namespace Sys2Proof.Machine

/-- Sends START on every active link (R196, R200). -/
def sendStart (s : State) : State :=
  sendWay s { ownFlit s 5 with jobMs := BitVec.allOnes 48 } none

/-- The DETOUR cause clears, with RELEASE and START, once every link that the new tables use is ACTIVE with the expected
partner, and its turn has come (R215, R279, R281). -/
def settleDetour (s : State) : State :=
  match s.sch.detour with
  | none => s
  | some d =>
    if !d.join && s.sch.holds.getLsbD 10 && detourReady s d && inTurn s 10 then sendStart (clearCause s 10) else s

end Sys2Proof.Machine
end

