-- ==== Sys2Proof/Machine/CodeWord.lean ====
section
/-! DEFINITION. The Weakan instruction that a code word spells (R126 to R129, R137 to R160, R162, R169 to R188), as the device
decodes every word of a tile program when an itinerary is loaded (R127). -/

namespace Sys2Proof.Machine

/-- Bits [hi:lo] of a code word, as a number. -/
def cw (w : DWord) (hi lo : Nat) : Nat := w.toNat / 2 ^ lo % 2 ^ (hi - lo + 1)

/-- Bits [hi:lo] of a code word, as a field of its width. -/
def fld (w : DWord) (lo n : Nat) : BitVec n := w.extractLsb' lo n

/-- Whether bits [hi:lo] are zero. -/
def zeroBits (w : DWord) (hi lo : Nat) : Bool := decide (cw w hi lo = 0)

/-- The guard field. -/
def cwGuard (w : DWord) : Guard := { pg := fld w 53 3, pn := w.getLsbD 52 }

/-- Format S. -/
def cwS (w : DWord) : SFields := { fn := fld w 46 6, d := fld w 40 6, a := fld w 34 6, i := w.getLsbD 33, imm := fld w 0 32 }

/-- Format M. -/
def cwM (w : DWord) : MFields := { fn := fld w 48 4, space := fld w 46 2, d := fld w 40 6, a := fld w 34 6, imm := fld w 0 32 }

/-- Format V. -/
def cwV (w : DWord) : VFields :=
  { fn := fld w 46 6, d := fld w 41 5, a := fld w 36 5, b := fld w 31 5, c := fld w 26 5, sb := w.getLsbD 25, sr := fld w 0 6 }

/-- The fields of MMA, CHK.ROW and CHK.COL. -/
def cwPair (w : DWord) : PairFields :=
  { x := fld w 50 2, ta := fld w 47 3, tb := fld w 44 3, fa := fld w 40 4, fb := fld w 36 4 }

/-- The fields of XRED PACK and ADD. -/
def cwXred (w : DWord) : XredFields :=
  { x := fld w 46 2, r0 := fld w 40 6, rn := fld w 34 6, idx := fld w 25 9, line := fld w 0 17 }

/-- The instruction when the condition holds. -/
def onlyIf (c : Bool) (i : Instr) : Option Instr := if c then some i else none

/-- Opcodes 0x01 to 0x1D (R128). -/
def scalarWord (t : TileRef) (g : GroupId) (w : DWord) : Option Instr :=
  let op := cw w 63 56
  let f := cwS w
  let noGuard := zeroBits w 55 52
  let plain := zeroBits w 32 32
  if op = 0x01 then onlyIf plain (.salu t g (cwGuard w) f)
  else if op = 0x02 then onlyIf plain (.scmp t g (cwGuard w) f)
  else if op = 0x04 then onlyIf (noGuard && plain) (.pred t g f)
  else if op = 0x08 then onlyIf (zeroBits w 33 32) (.ld t g (cwGuard w) (cwM w))
  else if op = 0x09 then onlyIf (zeroBits w 33 32) (.st t g (cwGuard w) (cwM w) [])
  else if op = 0x10 then onlyIf (zeroBits w 49 24) (.br t g (cwGuard w) (w.getLsbD 51) (w.getLsbD 50) (fld w 0 24))
  else if op = 0x11 then onlyIf (noGuard && zeroBits w 50 48) (.loop t g (w.getLsbD 51) (fld w 32 16) (fld w 0 32))
  else if op = 0x12 then
    if noGuard && zeroBits w 45 0 then
      (if f.fn = 0 then some (.nop t g) else if f.fn = 1 then some (.msEnd t g) else if f.fn = 2 then some (.stop t g) else none)
    else none
  else if op = 0x13 then onlyIf (noGuard && zeroBits w 51 51 && zeroBits w 47 0) (.toll t g (fld w 48 3))
  else if op = 0x18 then
    onlyIf (noGuard && zeroBits w 51 49 && zeroBits w 39 17) (.sendSlot t g (fld w 40 9) (fld w 0 17))
  else if op = 0x19 then onlyIf (noGuard && zeroBits w 51 9) (.recvWait t g (fld w 0 9))
  else if op = 0x1C then onlyIf (noGuard && plain && zeroBits w 51 34) (.rngSeed t g f.i f.imm)
  else if op = 0x1D then onlyIf (noGuard && plain && f.fn == 0 && f.a == 0 && f.i) (.cntSnap t g f.d f.imm)
  else none

/-- Opcodes 0x20 to 0x3F (R162, R176 to R181). -/
def vectorWord (t : TileRef) (g : GroupId) (w : DWord) : Option Instr :=
  let op := cw w 63 56
  let f := cwV w
  let bare := zeroBits w 35 0
  let gd := cwGuard w
  if op = 0x20 then onlyIf (zeroBits w 24 6) (.vf t g gd f)
  else if op = 0x21 then onlyIf (zeroBits w 24 6) (.vi t g gd f)
  else if op = 0x22 then onlyIf bare (.vcvt t g gd f.fn f.d f.a)
  else if op = 0x23 then onlyIf (zeroBits w 24 6) (.vcmp t g gd f)
  else if op = 0x28 then onlyIf (zeroBits w 55 52 && bare) (.vsumCanon t g f.fn f.d f.a)
  else if op = 0x30 then
    if bare then
      (if f.fn = 0 then some (.vexp t g gd f.d f.a) else if f.fn = 1 then some (.vlog t g gd f.d f.a)
       else if f.fn = 2 then some (.vrsq t g gd f.d f.a) else none)
    else none
  else none

/-- XRED (R182). -/
def xredWord (t : TileRef) (g : GroupId) (w : DWord) : Option Instr :=
  let fn := cw w 51 48
  if fn = 0 then onlyIf (zeroBits w 24 17) (.xredPack t g (cwXred w))
  else if fn = 1 then onlyIf (zeroBits w 24 17) (.xredAdd t g (cwXred w))
  else if fn = 2 then onlyIf (zeroBits w 47 46 && zeroBits w 33 0) (.xredFsum t g (fld w 40 6) (fld w 34 6))
  else if fn = 3 then
    onlyIf (zeroBits w 47 46 && zeroBits w 40 40 && zeroBits w 24 17)
      (.xredFcomb t g { d := fld w 41 5, a := fld w 35 5, hi := w.getLsbD 34, tag := fld w 25 9, line := fld w 0 17 })
  else none

/-- Opcodes 0x40 to 0x5F (R162, R169 to R188); none of them is guarded. -/
def matrixWord (t : TileRef) (g : GroupId) (w : DWord) : Option Instr :=
  let op := cw w 63 56
  if !zeroBits w 55 52 then none
  else if op = 0x40 then
    onlyIf (zeroBits w 38 32) (.tld t g { t := fld w 49 3, fmt := fld w 45 4, a := fld w 39 6, imm := fld w 0 32 })
  else if op = 0x41 then onlyIf (zeroBits w 48 0) (.xclr t g (fld w 50 2) (w.getLsbD 49))
  else if op = 0x42 then onlyIf (zeroBits w 43 32) (.xld t g { x := fld w 50 2, a := fld w 44 6, imm := fld w 0 32 })
  else if op = 0x43 then onlyIf (zeroBits w 43 32) (.xst t g { x := fld w 50 2, a := fld w 44 6, imm := fld w 0 32 })
  else if op = 0x44 then onlyIf (zeroBits w 34 0) (.mma t g (cwPair w) (w.getLsbD 35))
  else if op = 0x48 then
    onlyIf (zeroBits w 14 0) (.rndExs t g
      { x := fld w 50 2, mode := fld w 48 2, sat := w.getLsbD 47, fmt := fld w 43 4, a := fld w 37 6, c := fld w 31 6,
        stream := fld w 15 16 })
  else if op = 0x4C then xredWord t g w
  else if op = 0x50 then onlyIf (zeroBits w 35 0) (.chkRow t g (cwPair w))
  else if op = 0x51 then onlyIf (zeroBits w 35 0) (.chkCol t g (cwPair w))
  else if op = 0x52 then onlyIf (zeroBits w 47 0) (.chkCmp t g (fld w 50 2) (w.getLsbD 49) (w.getLsbD 48))
  else none

/-- The instruction of a group that a code word spells; none where R127 refuses the word. -/
def wordInstr (t : TileRef) (g : GroupId) (w : DWord) : Option Instr :=
  let i := if cw w 63 56 < 0x20 then scalarWord t g w else if cw w 63 56 < 0x40 then vectorWord t g w else matrixWord t g w
  match i with
  | some i => onlyIf (WellFormed.instr i) i
  | none => none

end Sys2Proof.Machine
end

