-- ==== Sys2Proof/Machine/LoadCheck.lean ====
section
/-! DEFINITION. The checks of a loaded itinerary that R225 marks "Load" (R99, R104, R110, R127, R130, R131, R149, R155, R221 to
R225, R408): the first rule that fails, with the byte offset of the failure where the spec lays the bytes out (log 9). -/

namespace Sys2Proof.Machine

/-- A failed check: the rule, and the byte offset where one is known. -/
abbrev Failure := Nat × Option Nat

/-- A check that fails at a known byte. -/
def failAt (ok : Bool) (rule offset : Nat) : Option Failure := if ok then none else some (rule, some offset)

/-- A check of records whose layout the spec leaves open. -/
def failIn (ok : Bool) (rule : Nat) : Option Failure := if ok then none else some (rule, none)

/-- The first failure of a list of checks. -/
def firstFail (l : List (Option Failure)) : Option Failure := (l.filterMap id).head?

/-! ### Header and directory (R221, R222) -/

/-- The rules of the header. -/
def headerFail (x : Slot) : Option Failure :=
  let h := header x
  let flags := BitVec.ofNat 32 (h 5 1)
  firstFail
    [failAt (decide (h 0 4 = 0x5954494E)) 221 0,
     failAt (within 0x10 0x12 (h 4 1)) 221 4,
     failAt (decide (bits flags 7 3 = 0) && within 1 2 (bits flags 2 1)) 221 5,
     failAt (decide (h 6 2 = 1)) 221 6,
     failAt (within 12 18 (h 8 1)) 221 8,
     failAt (decide (h 9 1 ≠ 0) || decide (h 10 2 = 1)) 221 9,
     failAt (within 1 1024 (h 10 2)) 221 10,
     failAt (within 30 500 (h 12 2)) 221 12,
     failAt (within 1 16 (h 14 2)) 221 14,
     failAt (decide (h 16 8 = totalPositions x.content.steps)) 221 16,
     failAt (within 1 65535 (h 24 4) && decide (h 24 4 = x.content.steps.length)) 221 24,
     failAt ((List.range 36).all (fun i => decide (h (28 + i) 1 = 0))) 221 28]
where
  within (lo hi v : Nat) : Bool := decide (lo ≤ v) && decide (v ≤ hi)

/-- A directory entry: its TYPE, OFFSET, LENGTH and COUNT. -/
structure DirEntry where
  type : Nat
  offset : Nat
  length : Nat
  count : Nat
deriving DecidableEq, Repr

/-- Entry i of the directory. -/
def dirEntry (x : Slot) (i : Nat) : DirEntry :=
  let a := 64 + 16 * i
  { type := header x a 4, offset := header x (a + 4) 4, length := header x (a + 8) 4, count := header x (a + 12) 4 }

/-- The number of directory entries. -/
def sections (x : Slot) : Nat := header x 14 2

/-- Whether two sections overlap. -/
def dirOverlap (a b : DirEntry) : Bool := decide (a.offset < b.offset + b.length) && decide (b.offset < a.offset + a.length)

/-- The rules of one directory entry, with the entries before it. -/
def entryFail (x : Slot) (i : Nat) : Option Failure :=
  let e := dirEntry x i
  let before := (List.range i).map (dirEntry x)
  let a := 64 + 16 * i
  firstFail
    [failAt (decide (1 ≤ e.type) && decide (e.type ≤ 10) && (decide (e.type ≠ 10) || decide (header x 4 1 ≠ 0x10)) &&
        before.all (fun b => decide (b.type ≠ e.type))) 222 a,
     failAt (decide (e.offset % 64 = 0) && decide (64 + 16 * sections x ≤ e.offset) &&
        decide (e.offset + e.length ≤ x.length) && before.all (fun b => !dirOverlap b e)) 222 (a + 4)]

/-- The rules of the directory. -/
def directoryFail (x : Slot) : Option Failure :=
  let es := (List.range (sections x)).map (dirEntry x)
  firstFail ((List.range (sections x)).map (entryFail x) ++
    [failAt ((List.range 5).all (fun t => es.any (fun e => decide (e.type = t + 1)))) 222 64,
     failAt (es.all (fun e => decide (e.type ≠ 1) || decide (e.count = x.content.steps.length))) 221 24])

/-! ### Steps, tiles, arrivals (R99, R104, R110, R223, R224) -/

/-- A step record. -/
def stepOk (c : ItinContent) (r : StepRec) : Bool :=
  decide (1 ≤ r.frames.length) && decide (r.frames.length ≤ 65535) && decide (1 ≤ r.repeats) && decide (r.repeats < 2 ^ 32) &&
  r.frames.all (fun f => decide (f < c.frames.length))

/-- Whether `n` lines from a line lie in pinned pages of a program: in one of them, or in two that adjoin (R224; log 112, DESIGN CHOICE). -/
def pinnedLines (p : TileProg) (line n : Nat) : Bool :=
  (List.range ((line + n - 1) / 1024 + 1 - line / 1024)).all (fun i => p.pinned.contains (line / 1024 + i))

/-- GROUPS and VREGS. -/
def progOk (p : TileProg) : Bool :=
  decide (1 ≤ p.groups) && decide (p.groups ≤ 128) && decide (1 ≤ p.vregs) && decide (p.vregs ≤ 32)

/-- The pages of a tile program (R104). -/
def pagesOk (p : TileProg) : Bool :=
  decide (1 ≤ p.pages) && decide (p.pages ≤ 128) && p.pinned.all (fun i => decide (i < p.pages)) &&
  decide (p.pinned.length ≤ if p.pages = p.pinned.length then 32 else 30)

/-- The parameter line (R224). -/
def paramOk (p : TileProg) : Bool :=
  match p.paramLine with
  | some l => pinnedLines p l 4
  | none => true

/-- The program of a record's logical tile. -/
def progAtRecord (c : ItinContent) (lchip : Nat) (d : Fin 144) (l : Fin 8) : Option TileProg := progOf c lchip { d := d, l := l }

/-- The arrival lists of a frame. -/
def arrivalsOk (c : ItinContent) (f : FrameDef) : Bool :=
  f.arrivals.all (fun e =>
    decide (e.tag < 512) &&
    decide ((f.arrivals.filter (fun y => decide (y.lchip = e.lchip) && decide (y.d = e.d) && decide (y.l = e.l))).length ≤ 512) &&
    (match progAtRecord c e.lchip e.d e.l with
     | some p => pinnedLines p e.line e.count
     | none => true))

/-! ### Programs (R127, R130, R131, R149) -/

/-- A word of a district's code store; a word that the itinerary does not hold is zero. -/
def wordAt (c : ItinContent) (lchip : Nat) (d : Fin 144) (a : Nat) : DWord :=
  match c.code.find? (fun w => decide (w.lchip = lchip) && decide (w.d = d) && decide (w.addr = a)) with
  | some w => w.word
  | none => 0

/-- The words of a tile program with their addresses. -/
def progWords (c : ItinContent) (p : TileProg) : List (Nat × DWord) :=
  (List.range p.codeLen).map (fun i => (p.codeStart + i, wordAt c p.lchip p.d (p.codeStart + i)))

/-- The instruction of a word, of a group that does not matter. -/
def anyInstr (w : DWord) : Option Instr := wordInstr { d := 0, l := 0 } 0 w

/-- Every word decodes, and names no vector register at or above VREGS. -/
def wordsOk (c : ItinContent) (p : TileProg) : Bool :=
  (progWords c p).all (fun w =>
    match anyInstr w.2 with
    | some i => (WellFormed.vregs i).all (fun r => decide (r < p.vregs))
    | none => false)

/-- Whether an address lies in the program. -/
def inProg (p : TileProg) (a : Int) : Bool :=
  decide ((p.codeStart : Int) ≤ a) && decide (a < (p.codeStart + p.codeLen : Nat))

/-- The body of a LOOP at an address: its first and last word. -/
def bodyOf (w : Nat × DWord) : Option (Nat × Nat) :=
  match anyInstr w.2 with
  | some (.loop _ _ _ body _) => some (w.1 + 1, w.1 + body.toNat)
  | _ => none

/-- The target of a BR at an address. -/
def targetOf (w : Nat × DWord) : Option Int :=
  match anyInstr w.2 with
  | some (.br _ _ _ _ _ off) => some (w.1 + off.toInt)
  | _ => none

/-- The loop bodies of a program. -/
def bodiesOf (c : ItinContent) (p : TileProg) : List (Nat × Nat) := (progWords c p).filterMap bodyOf

/-- Whether a program's last word ends every group that reaches it: STOP, or a BR that is always taken. -/
def lastOk (c : ItinContent) (p : TileProg) : Bool :=
  match anyInstr (wordAt c p.lchip p.d (p.codeStart + p.codeLen - 1)) with
  | some (.stop _ _) => true
  | some (.br _ _ gd _ _ _) => gd.pg == 0 && !gd.pn
  | _ => false

/-- The rules of R130 on a program. -/
def placedOk (c : ItinContent) (p : TileProg) : Bool :=
  let last := p.codeStart + p.codeLen - 1
  decide (1 ≤ p.codeLen) && decide (p.codeStart + p.codeLen ≤ 32768) &&
  p.entries.all (fun l => l.all (fun a => inProg p a)) &&
  (progWords c p).all (fun w =>
    match targetOf w with
    | some t => inProg p t
    | none => true) &&
  (bodiesOf c p).all (fun b => inProg p b.2 && decide (b.2 ≠ last)) && lastOk c p

/-- The bodies that hold a word. -/
def bodiesAt (bs : List (Nat × Nat)) (a : Int) : List (Nat × Nat) :=
  bs.filter (fun b => decide ((b.1 : Int) ≤ a) && decide (a ≤ b.2))

/-- The rules of R149 on a program: at most four bodies hold a word, the body of a LOOP lies within every body that holds the LOOP, and a
BR leaves no body that holds it and enters none that does not. -/
def nestingOk (c : ItinContent) (p : TileProg) : Bool :=
  let bs := bodiesOf c p
  (progWords c p).all (fun w =>
    decide ((bodiesAt bs w.1).length ≤ 4) &&
    (match bodyOf w with
     | some b => (bodiesAt bs w.1).all (fun a => decide (b.2 ≤ a.2))
     | none => true) &&
    (match targetOf w with
     | some t => decide (bodiesAt bs t = bodiesAt bs w.1)
     | none => true))

/-! ### Send tables (R155) -/

/-- The send entry and the first line that a word names. -/
def sendWord (w : DWord) : Option (Nat × Nat) :=
  match anyInstr w with
  | some (.sendSlot _ _ sid line) => some (sid.toNat, line.toNat)
  | some (.xredPack _ _ f) => some (f.idx.toNat, f.line.toNat)
  | _ => none

/-- The lines of every SEND.SLOT and PACK of a program lie in pinned pages, for a frame's send table. -/
def sendLinesOk (c : ItinContent) (f : FrameDef) (p : TileProg) : Bool :=
  (progWords c p).all (fun w =>
    match sendWord w.2 with
    | some (sid, line) =>
      (f.sends.filter (fun e => decide (e.lchip = p.lchip) && decide (e.d = p.d) && decide (e.l = p.l) && decide (e.sid = sid))).all
        (fun e => pinnedLines p line e.lines)
    | none => true)

/-- The send tables of a frame, and the tiles of its arrival lists. -/
def sendsOk (c : ItinContent) (f : FrameDef) : Bool :=
  f.sends.all (fun e =>
    decide (e.sid < 512) &&
    (match progAtRecord c e.lchip e.d e.l with
     | some p => decide (e.group < p.groups)
     | none => false) &&
    c.roads.any (fun r => decide (r.road = e.road))) &&
  f.arrivals.all (fun e => (progAtRecord c e.lchip e.d e.l).isSome) &&
  c.tiles.all (sendLinesOk c f)

/-! ### Slot tables and roads (R203, R225) -/

/-- Whether a hop is a link hop. -/
def isLinkHop : HopDef → Bool
  | .linkTx _ _ => true
  | .linkIn _ _ => true
  | _ => false

/-- The slots an entry claims: a bridge carries 44 lines in each. -/
def slotsOf (e : SlotDef) : Nat :=
  match e.hop with
  | .bridge _ _ => ceilDiv e.count 44
  | _ => e.count

/-- Whether two entries of a frame share a slot of one hop. -/
def shareSlot (a b : SlotDef) : Bool :=
  decide (a.lchip = b.lchip) && decide (a.hop = b.hop) &&
  decide (a.slot < b.slot + slotsOf b) && decide (b.slot < a.slot + slotsOf a)

/-- No entry shares a slot with a later one. -/
def slotsApart : List SlotDef → Bool
  | [] => true
  | e :: r => r.all (fun x => !shareSlot e x) && slotsApart r

/-- The slots N of a link in a milestone (R203): L district cycles at 850 MHz, in flit times of 1.28 ns. -/
def linkSlots (x : Slot) : Nat := 2 ^ header x 8 1 * 1000 / 1088

/-- The slot tables of a frame. -/
def slotsOk (x : Slot) (f : FrameDef) : Bool :=
  let n := linkSlots x
  slotsApart f.slots &&
  f.slots.all (fun e =>
    !isLinkHop e.hop ||
    (decide (e.slot + e.count ≤ n) &&
     decide (header x 12 2 * n ≤
       1000 * (n - ((f.slots.filter (fun y => decide (y.lchip = e.lchip) && decide (y.hop = e.hop))).map (·.count)).foldl (· + ·) 0))))

/-- Whether a list has no repeat. -/
def noRepeat {α : Type} [DecidableEq α] : List α → Bool
  | [] => true
  | a :: r => !r.contains a && noRepeat r

/-- A road lists each hop once, has at most 255 hops, and stands in the slot tables of each, in one frame or another (R225; log 112,
DESIGN CHOICE). -/
def roadOk (c : ItinContent) (r : RoadDef) : Bool :=
  noRepeat r.hops && decide (r.hops.length ≤ 255) &&
  r.hops.all (fun h => c.frames.any (fun f =>
    f.slots.any (fun e => decide (e.lchip = h.1) && decide (e.hop = h.2) && decide (e.road = r.road))))

/-! ### Sections 0x07 to 0x09 (R408) -/

/-- The directory entry of a section type. -/
def sectionEntry (x : Slot) (type : Nat) : Option DirEntry :=
  ((List.range (sections x)).map (dirEntry x)).find? (fun e => decide (e.type = type))

/-- The offsets of a section's 16-byte records. -/
def recordsOf (x : Slot) (type : Nat) : List Nat :=
  match sectionEntry x type with
  | some e => (List.range e.count).map (fun i => e.offset + 16 * i)
  | none => []

/-- The relocation records. -/
def relocs (x : Slot) : List RelocDef :=
  (recordsOf x 7).map (fun a => { kind := header x a 4, index := header x (a + 4) 4, units := header x (a + 8) 4, align := header x (a + 12) 4 })

/-- A patch site of the record at an offset. -/
def siteAt (x : Slot) (coord : Bool) (a : Nat) : PatchSite :=
  { offset := header x a 4, symbol := header x (a + 4) 4, addend := BitVec.ofNat 32 (header x (a + 8) 4),
    width := if coord then 4 else header x (a + 12) 4 }

/-- The base patch sites. -/
def baseSites (x : Slot) : List PatchSite := (recordsOf x 8).map (siteAt x false)
/-- The coordinate patch sites. -/
def coordSites (x : Slot) : List PatchSite := (recordsOf x 9).map (siteAt x true)

/-- Whether no site overlaps a later one. -/
def sitesApart : List PatchSite → Bool
  | [] => true
  | a :: r => r.all (fun b => decide (a.offset + a.width ≤ b.offset) || decide (b.offset + b.width ≤ a.offset)) && sitesApart r

/-- Whether two sites of an itinerary overlap: the device refuses to load it. -/
def sitesOverlap (x : Slot) : Bool := !sitesApart (baseSites x ++ coordSites x)

/-- A section of 16-byte records has the length of its COUNT. -/
def recordsFail (x : Slot) (type : Nat) : Option Failure :=
  match sectionEntry x type with
  | some e => failAt (decide (e.length = 16 * e.count)) 408 e.offset
  | none => none

/-- A relocation record: a region of section 0x06, the backing region of a logical tile, or a logical chip, with its size and
alignment. -/
def relocFail (x : Slot) (a : Nat) : Option Failure :=
  let h := header x
  firstFail
    [failAt (decide (1 ≤ h a 4) && decide (h a 4 ≤ 3)) 408 a,
     failAt (if h a 4 = 1 then decide (h (a + 4) 4 < x.content.regions.length)
             else if h a 4 = 2 then decide (h (a + 4) 4 < 1152) else decide (h (a + 4) 4 < 1024)) 408 (a + 4),
     failAt (decide (h a 4 ≠ 3) || decide (h (a + 8) 4 = 0)) 408 (a + 8),
     failAt (decide (12 ≤ h (a + 12) 4) && decide (h (a + 12) 4 ≤ 40)) 408 (a + 12)]

/-- A patch site: it lies in the itinerary at a multiple of its width, and names a symbol that it may name. -/
def siteFail (x : Slot) (coord : Bool) (a : Nat) : Option Failure :=
  let p := siteAt x coord a
  let kind := ((relocs x)[p.symbol]?).map (·.kind)
  firstFail
    [failAt (if coord then header x (a + 8) 8 = 0 else decide (p.width = 4) || decide (p.width = 8)) 408 (a + if coord then 8 else 12),
     failAt (decide (p.offset % p.width = 0) && decide (p.offset + p.width ≤ x.length)) 408 a,
     failAt (if coord then kind == some 3 else kind.isSome) 408 (a + 4)]

/-- The rules of sections 0x07 to 0x09 (log 102). -/
def sitesFail (x : Slot) : Option Failure :=
  firstFail ([7, 8, 9].map (recordsFail x) ++ (recordsOf x 7).map (relocFail x) ++ (recordsOf x 8).map (siteFail x false) ++
    (recordsOf x 9).map (siteFail x true))

/-- The first check that fails, in the order of R225. The combination of operand and accumulator that R78 refuses is reported under rule
127, which R225 lists with it (log 115, DESIGN CHOICE). -/
def loadFail (x : Slot) : Option Failure :=
  let c := x.content
  firstFail
    [headerFail x, directoryFail x,
     failIn (c.steps.all (stepOk c)) 223,
     failIn (c.tiles.all paramOk) 224,
     failIn (c.tiles.all progOk) 99,
     failIn (c.tiles.all pagesOk) 104,
     failIn (c.frames.all (arrivalsOk c)) 110,
     failIn (c.tiles.all (wordsOk c)) 127,
     failIn (c.tiles.all (placedOk c)) 130,
     failIn (c.tiles.all (nestingOk c)) 149,
     failIn (c.frames.all (sendsOk c)) 155,
     failIn (c.frames.all (slotsOk x)) 225,
     failIn (c.roads.all (roadOk c)) 225,
     sitesFail x]

end Sys2Proof.Machine
end

