-- ==== Sys2Proof/Machine/Retire.lean ====
section
/-! DEFINITION. What happens to positions at a boundary (R19, R120 to R122, R325 to R336): triage, retirements, the start and
the end of roadworks tests, with their self writes, counters and reports. -/

namespace Sys2Proof.Machine

/-! ### The spare map as a pair of words (R120) -/

/-- The spare map of a district: SPARE_MAP and SPARE_STATE. -/
abbrev Spare := Word × Word

/-- FREE_POS. -/
def freePos (st : Word) : Nat := bits st 3 0
/-- UNDER_TEST. -/
def underTest (st : Word) : Bool := bit st 4
/-- RETIRED of a position. -/
def isRetired (st : Word) (p : Nat) : Bool := bit st (5 + p)

/-- SPARE_MAP with logical tile l at a position. -/
def moveTo (m : Word) (l p : Nat) : Word := putMask m (at_ p (4 * l)) (at_ 0xF (4 * l))

/-- SPARE_STATE with FREE_POS and UNDER_TEST set. -/
def withFree (st : Word) (free : Nat) (test : Bool) : Word := putMask st (at_ free 0 ||| at_ (flag test) 4) 0x1F

/-- SPARE_STATE with a position retired. -/
def withRetired (st : Word) (p : Nat) : Word := st ||| at_ 1 (5 + p)

/-- SPARE_STATE of a degraded district (R19). -/
def withDegraded (st : Word) : Word := st ||| at_ 1 14

/-- The logical tile that a map puts at a position. -/
def tileAtPos (m : Word) (p : Nat) : Option Nat := (List.range 8).find? (fun l => mapPos m l == p)

/-- Retires a position (R121, R328): a logical tile moves to the free position or the one under test, and with none the
district is degraded; a free position that is retired leaves none. -/
def retirePos (s : Spare) (p : Nat) : Spare :=
  if isRetired s.2 p then s
  else
    match tileAtPos s.1 p with
    | some l =>
      if freePos s.2 = 0xF then (s.1, withDegraded (withRetired s.2 p))
      else (moveTo s.1 l (freePos s.2), withFree (withRetired s.2 p) 0xF false)
    | none => (s.1, if freePos s.2 = p then withFree (withRetired s.2 p) 0xF false else withRetired s.2 p)

/-- Both positions of a triage retired, the map unchanged (R329). -/
def retireBoth (s : Spare) (a b : Nat) : Spare := (s.1, withDegraded (withFree (withRetired (withRetired s.2 a) b) 0xF false))

/-! ### Writing it (R120, R337) -/

/-- The SELF writes of a district's spare map: SPARE_MAP when it changes, then SPARE_STATE when it changes. -/
def putSpare (s : State) (d : Nat) (n : Spare) : State :=
  let x := getDist s d
  let s := setDist s d { x with map := n.1, spare := n.2 }
  let s := if n.1 = x.map then s else selfRecord s (dstBase d + 0xF000) x.map n.1
  if n.2 = x.spare then s else selfRecord s (dstBase d + 0xF004) x.spare n.2

/-- Whether the records of a change to a district's spare map can be appended; a change that cannot be recorded is not performed (R66; log
105). -/
def spareRoom (s : State) : Bool := !s.jrn.kept || roomFor s 2

/-- CHK_RW_STATUS.ACTIVE follows the positions under test (R339). -/
def settleActive (s : State) : State :=
  let on := s.dists.any (fun p => underTest p.2.spare)
  setReg s 0x00060008 (putMask (getReg s 0x00060008) (at_ (flag on) 31) 0x80000000)

/-- CHK_RW_STATUS.ACTIVE, and the round pointer: when the last test of a window is over, so is the window, and the pointer advances by
one, modulo 8 (R332). -/
def settleWindow (s : State) : State :=
  let s := settleActive s
  if s.sch.rwOpen ∧ s.dists.all (fun p => !underTest p.2.spare) then
    let v := getReg s 0x00060008
    { setReg s 0x00060008 (putMask v (at_ ((bits v 2 0 + 1) % 8) 0) 7) with sch := { s.sch with rwOpen := false } }
  else s

/-- The trim of a district without a position under test (R356, R358). -/
def clearTrim (s : State) (d : Nat) : State :=
  setReg s (dstBase d + 0xF110) (putMask (getReg s (dstBase d + 0xF110)) 0xF000 0xF0FF)

/-- A roadworks report (R337, R424). -/
def rwReport (s : State) (d p : Nat) (failed : Bool) : State :=
  report s 0x09 [BitVec.ofNat 32 d, BitVec.ofNat 32 p, BitVec.ofNat 32 (flag failed), getReg s 0x00060008, getReg s 0x00060004]

/-- Counts and reports a test that a retirement ends (R336). -/
def abandonTest (s : State) (d p : Nat) : State :=
  let s := setDist s d { getDist s d with tested := none, heating := false }
  rwReport (bump (clearTrim s d) 0x00060158 1) d p false

/-- Reports a degraded district (R424). -/
def degradeReport (s : State) (d : Nat) : State :=
  report s 0x11 [BitVec.ofNat 32 d, (getDist s d).spare]

/-- Applies the retirements of a district: `n` is its spare map after them (R327, R328, R337). -/
def applyRetire (s : State) (d : Nat) (n : Spare) : State :=
  let x := getDist s d
  let gone := (List.range 9).filter (fun p => isRetired n.2 p && !isRetired x.spare p)
  if gone.isEmpty then s
  else
    let s := putSpare s d n
    let s := if underTest x.spare then abandonTest s d (freePos x.spare) else s
    let s := gone.foldl (fun s p =>
      report (bump s 0x00060130 1) 0x08 [BitVec.ofNat 32 d, BitVec.ofNat 32 p, n.1, n.2]) s
    if bit n.2 14 && !bit x.spare 14 then degradeReport s d else s

/-! ### Triage (R329) -/

/-- Whether the image in force has scan content and every 4 KiB of it, as read from flash now, agrees with the CRC table held on die
(R435). -/
def scanReads (s : State) : Bool :=
  match s.boot.applied.bind (·.scan) with
  | some x => (List.range x.crcs.length).all (fun k =>
      crc32c (flashBytes s (x.offset + 4096 * k) (min 4096 (x.size - 4096 * k))) == (x.crcs[k]?).getD 0)
  | none => false

/-- The outcome of scan content at a position in triage: incomplete without scan content that reads well, else free (R329; log 10). -/
def scanOutcome (s : State) (d p : Nat) : RwOutcome :=
  if scanReads s then (if Config.scanFails s.fresh d p then .fails else .passes) else .incomplete

/-- The positions that a triage retires (R329): the one that fails, or where neither or both fail, the two of them. -/
def triageResult (a b : Nat) (oa ob : RwOutcome) : List Nat :=
  if oa = .fails ∧ ob ≠ .fails then [a] else if oa ≠ .fails ∧ ob = .fails then [b] else [a, b]

/-- Runs one triage: it is counted and reported, and its result joins those of the district. -/
def triageOne (z : State × List (List Nat)) (d : Nat) (p : Nat × Nat) : State × List (List Nat) :=
  let s := z.1
  let oa := scanOutcome s d p.1
  let ob := scanOutcome s d p.2
  let code := 2 * flag (oa == .fails) + flag (ob == .fails) + 8 * flag (oa == .incomplete) + 4 * flag (ob == .incomplete)
  let s := bump (takeFresh s) 0x00060128 1
  (report s 0x06 [BitVec.ofNat 32 d, BitVec.ofNat 32 p.1, BitVec.ofNat 32 p.2, BitVec.ofNat 32 code],
    z.2 ++ [triageResult p.1 p.2 oa ob])

/-- Every triage that is due (R327 item 3), with the results of each district. -/
def triageAll (s : State) : State × List (Nat × List (List Nat)) :=
  (List.range 144).foldl (fun z d =>
    let x := getDist z.1 d
    if x.due.isEmpty then z
    else
      let r := x.due.foldl (fun w p => triageOne w d p) (z.1, [])
      (setDist r.1 d { getDist r.1 d with due := [] }, z.2 ++ [(d, r.2)])) (s, [])

/-! ### Strikes (R325, R328) -/

/-- The positions of a district with a second strike in one step. -/
def struck (x : District) : List Nat :=
  (List.range 9).filter (fun p => x.strikes.any (fun k => k.1 == p && decide (2 ≤ (x.strikes.filter (fun j => j == k)).length)))

/-- The order in which positions that are retired at one boundary take the spare: one without a logical tile first, then in ascending
logical order (R328). -/
def spareOrder (m : Word) (ps : List Nat) : List Nat :=
  ps.filter (fun p => (tileAtPos m p).isNone) ++ ((List.range 8).map (mapPos m)).filter (fun p => ps.contains p)

/-- The spare map of a district after the triages and the second strikes of one boundary (R328, R329): both positions of a triage that
tells neither apart leave without a move, and then the others take their turn together. -/
def retiredSpare (x : District) (triages : List (List Nat)) : Spare :=
  let start := triages.foldl (fun (n : Spare) r =>
    match r with
    | [a, b] => retireBoth n a b
    | _ => n) (x.map, x.spare)
  (spareOrder x.map (((triages.filter (fun r => r.length == 1)).flatten ++ struck x))).foldl retirePos start

/-- The retirements of a rewinding boundary: triage, then every district in ascending order (R327 items 3 and 4). Where the journal has no
room for a district's records, its triage is due again, and its second strikes still stand (R66; log 105). -/
def retireAll (s : State) : State :=
  let z := triageAll s
  (List.range 144).foldl (fun t d =>
    if spareRoom t then applyRetire t d (retiredSpare (getDist t d) ((lookup z.2 d).getD []))
    else setDist t d { getDist t d with due := (getDist s d).due }) z.1

/-! ### Roadworks (R332 to R336) -/

/-- RW_PERIOD, as a number of job milestones. -/
def rwPeriod (s : State) : Nat := 2 ^ bits (getReg s 0x00060000) 20 16

/-- Whether the content is scan content (R334). -/
def scanContent (s : State) : Bool :=
  match committedSlot s with
  | some x => decide (header x 10 2 ≤ 16)
  | none => true

/-- Ends the test of a district with an outcome (R335, R336). -/
def endTest (s : State) (d : Nat) (o : RwOutcome) : State :=
  let x := getDist s d
  let p := freePos x.spare
  let st := match o with
    | .fails => withFree (withRetired x.spare p) 0xF false
    | _ => withFree x.spare p false
  let s := putSpare s d (x.map, st)
  let s := setDist (clearTrim s d) d { getDist s d with tested := none, heating := false }
  match o with
  | .passes => bump s 0x00060148 1
  | .fails => rwReport (bump s 0x00060150 1) d p true
  | .incomplete => rwReport (bump s 0x00060158 1) d p false

/-- Whether the test of a district ends at this boundary, and how: its content has ended, or its window has lasted 2^RW_PERIOD job
milestones (R335). -/
def testEnds (s : State) (d : Nat) : Option RwOutcome :=
  let x := getDist s d
  if underTest x.spare then
    match x.tested with
    | some o => some o
    | none => if x.testFrom + rwPeriod s ≤ s.sch.jobMs then some .incomplete else none
  else none

/-- Ends the test of a district, if it ends and its record has room (R66; log 105). -/
def settleTest (s : State) (d : Nat) : State :=
  match testEnds s d with
  | some o => if spareRoom s then endTest s d o else s
  | none => s

/-- Ends every test that ends at this boundary, in ascending district order (R335). -/
def endTests (s : State) : State := settleWindow ((List.range 144).foldl settleTest s)

/-- The itinerary ends or is aborted: a test under way is incomplete, and where it is aborted one whose content has ended is so too
(R336). -/
def stopTest (aborted : Bool) (x : District) : District :=
  if underTest x.spare && (aborted || x.tested.isNone) then { x with tested := some .incomplete } else x

/-- Every test ends with its itinerary (R336). -/
def stopTests (s : State) (aborted : Bool) : State :=
  endTests { s with dists := s.dists.map (fun p => (p.1, stopTest aborted p.2)) }

/-- Whether a window begins at this boundary (R332). -/
def windowDue (s : State) : Bool :=
  bit (getReg s 0x00060000) 30 && isCommitted s && (s.sch.rwDue || decide (s.sch.jobMs % rwPeriod s = 0))

/-- Whether a district gives up a tile for a window (R332): no shadow runs in it, the attempt that ends at this boundary
apart. -/
def gives (x : District) (newStep : Bool) : Bool :=
  decide (freePos x.spare ≠ 0xF) && !underTest x.spare && (newStep || x.sample.isEmpty)

/-- Moves logical tile n of a district to its free position, which takes the cycles of a copy, and puts the position it leaves under test,
where it is heated first (R122, R333, R356; log 117). The copy moves the 32,768 lines of the tile's frames. -/
def beginTest (s : State) (d n : Nat) : State :=
  let x := getDist s d
  let p := mapPos x.map n
  let s := putSpare s d (moveTo x.map n (freePos x.spare), withFree x.spare p true)
  let pct := min 10 (bits (getReg s 0x00060004) 15 8)
  setReg (setDist s d { getDist s d with
      tested := none, testFrom := s.sch.jobMs, heating := true,
      copying := max 1 (min 12288 (Config.copyCycles s.epoch s.tme.age d)), copyLines := 32768 })
    (dstBase d + 0xF110)
    (0xFF000000 ||| at_ p 12 ||| at_ pct 0)

/-- The roadworks writes of one district at a boundary: the end of its test, then its move into a window that begins (R45). The
districts that moved a tile come with the state; a district whose writes the journal has no room for gives none (R66; log 105). -/
def roadworksAt (newStep : Bool) (n : Option Nat) (z : State × List Nat) (d : Nat) : State × List Nat :=
  let s := settleTest z.1 d
  match n with
  | some n => if gives (getDist s d) newStep && spareRoom s then (beginTest s d n, z.2 ++ [d]) else (s, z.2)
  | none => (s, z.2)

/-- The roadworks writes of a boundary that does not rewind, in ascending district order (R45, R332, R335): tests end, and a window
begins if one is due. A window that begins while tests of an earlier one still run ends that one's turn of the round pointer, and
each test keeps its own latest end. -/
def roadworks (s : State) (newStep : Bool) : State × List Nat :=
  let due := windowDue s
  let v := getReg s 0x00060008
  let n := (bits v 2 0 + flag s.sch.rwOpen) % 8
  if due then
    let s := setReg s 0x00060008 (at_ (flag (!scanContent s)) 30 ||| at_ n 0)
    let r := (List.range 144).foldl (roadworksAt newStep (some n)) ({ s with sch := { s.sch with rwOpen := true, rwDue := false } }, [])
    (settleWindow r.1, r.2)
  else
    let r := (List.range 144).foldl (roadworksAt newStep none) ({ s with sch := { s.sch with rwDue := false } }, [])
    (settleWindow r.1, r.2)

end Sys2Proof.Machine
end

