-- ==== Sys2Proof/Machine/Boundary.lean ====
section
/-! DEFINITION. The work of a milestone boundary (R44, R45, R49, R70, R118, R133, R152, R194, R195, R198, R202, R224, R296,
R297, R307, R321, R350, R365, R371). -/

namespace Sys2Proof.Machine

/-! ### Commits and rewinds (R194, R195) -/

/-- The first position of the oldest step that has not committed. -/
def oldestFirst (s : State) : Nat :=
  match s.sch.uncommitted with
  | p :: _ => p.1
  | [] => s.sch.stepFirst

/-- Whether a step has a digest point after it (R321). -/
def digestPoint (s : State) (index : Nat) : Bool :=
  let c := getReg s 0x00060020
  bit c 31 && decide ((index + 1) % bits c 8 0 = 0)

/-- A step commits: its copies are freed, its strikes and mismatches clear, effected writes that no retrace can reach are
settled, and a digest point starts the hash (R194, R305, R321, R325). -/
def commitStep (s : State) (first : Nat) : State :=
  let s := { s with
    mem := { s.mem with retained := s.mem.retained.filter (fun c => decide (c.step ≠ first)) }
    dists := s.dists.map (fun p => (p.1, { p.2 with
      strikes := p.2.strikes.filter (fun k => decide (k.2 ≠ first))
      dups := p.2.dups.filter (fun k => decide (k.2.2 ≠ first)) }))
    sch := { s.sch with uncommitted := s.sch.uncommitted.filter (fun p => decide (p.1 ≠ first)) } }
  match placeOfPos s first with
  | some p =>
    if digestPoint s p.index then
      { s with dig := { busy := true, step := p.index } }
    else s
  | none => s

/-- Whether a step is the itinerary's last. -/
def lastStep (s : State) (first : Nat) : Bool :=
  match committedSlot s, placeOfPos s first with
  | some x, some p => decide (p.first + p.len = totalPositions x.content.steps)
  | _, _ => false

/-- The steps that a clean relay of job milestone j commits. -/
def committing (s : State) (j : Nat) : List Nat := (s.sch.uncommitted.filter (fun p => decide (p.2 = j))).map (·.1)

/-- The lowest cause code among the cause bits (R195). -/
def lowestCause (c : BitVec 6) : Nat := (((List.range 6).filter (fun i => c.getLsbD i)).head?.getD 0) + 1

/-- Appends the RETRACE record to a position (R54, R195). -/
def retraceRecord (s : State) (p cause : Nat) : State :=
  append s (draft s 0x31 0 (BitVec.ofNat 32 p) (BitVec.ofNat 32 (p / 2 ^ 32)) (BitVec.ofNat 32 cause))

/-! ### Reverts, reapplies, scheduled and staged writes (R44, R45, R49, R70) -/

/-- Reverts a staged write, which then waits to be reapplied; one that cannot be recorded is not performed, and stays in force (R49, R66;
log 105). -/
def revertOne (s : State) (e : Effected) : State :=
  if roomNow s then
    let s := revertWord s e
    { s with sch := { s.sch with effected := s.sch.effected.erase e, reapply := e :: s.sch.reapply } }
  else s

/-- Reverts, newest first, the staged writes that took effect beyond position `p0` (R49). -/
def revertWrites (s : State) (p0 : Nat) : State :=
  (s.sch.effected.filter (fun e => decide (p0 < e.pos))).reverse.foldl revertOne s

/-- Reapplies a reverted write; one that cannot be recorded is not performed, and waits for a retrace that reaches its position again (R49,
R66; log 105, DEDUCED). -/
def reapplyOne (s : State) (e : Effected) : State :=
  if roomNow s then
    let s := writeNow s 0 2 e.addr e.data
    { s with sch := { s.sch with reapply := s.sch.reapply.erase e, effected := s.sch.effected ++ [e] } }
  else s

/-- Reapplies the reverted writes of the position that begins (R49). -/
def reapplyWrites (s : State) : State :=
  (s.sch.reapply.filter (fun e => decide (e.pos = s.sch.position))).foldl reapplyOne s

/-- The scheduled writes of the position that begins; one that cannot be recorded is not performed, until a retrace passes its position
again (R66, R70; log 105, DEDUCED). -/
def scheduledWrites (s : State) : State :=
  (s.sch.schedule.filter (fun e => decide (e.1 = s.sch.position))).foldl
    (fun s e => if roomNow s then writeNow s 0 8 e.2.1 e.2.2 else s) s

/-- A staged write takes effect at this boundary; what it replaced is kept for a retrace (R44, R49, R53). -/
def effectStaged (s : State) (w : StagedWrite) : State :=
  let old := readReg s w.addr
  let s := effectWrite s w s.sch.milestone
  { s with sch := { s.sch with
      effected := s.sch.effected ++
        [{ pos := s.sch.position, addr := w.addr, old := old, val := readReg s w.addr, data := w.data }] } }

/-- The first `n` staged writes take effect, in the order of acceptance (R45). A write that cannot be recorded is not performed (R66): it
and those after it stay due for the next boundary. A write that starts a reset leaves none (R48). -/
def effectRun : Nat → State → State
  | 0, s => { s with sch := { s.sch with overdue := 0 } }
  | n + 1, s =>
    match s.sch.staged with
    | [] => { s with sch := { s.sch with overdue := 0 } }
    | w :: r =>
      if roomFor s (recordsDue s.sch.staged) then
        let t := effectStaged { s with sch := { s.sch with staged := r } } w
        if t.dev = .ready then effectRun n t else { t with sch := { t.sch with effected := [] } }
      else { s with sch := { s.sch with overdue := n + 1 } }

/-- The staged writes that are due at this boundary: all of them when a qualifying tollgate completed, else those that an earlier
boundary had no room for (R44, R66). -/
def effectAll (s : State) (gate : Bool) : State := effectRun (if gate then s.sch.staged.length else s.sch.overdue) s

/-- Completes the host's TOLLGATE commands (R154, R405). -/
def completeTollgates (s : State) : State :=
  let rs := s.sch.tollgates
  rs.foldl (fun s r => complete s r 0x20 stOk []) { s with sch := { s.sch with tollgates := [] } }

/-! ### Tollgates of chip and job scope (R152, R202) -/

/-- The groups of the chip's logical tiles. -/
def chipGroups (s : State) : List Group := (progTiles s).flatMap (fun t => (getTile s t).groups.map (·.2))

/-- Whether every device-memory write of the chip's logical tiles has been acknowledged (R153). -/
def acknowledged (s : State) : Bool := (progTiles s).all (fun t => !(getTile s t).reqs.any (·.store))

/-- Whether a CHIP-scope TOLL completes at the boundary; while a write of a participant is not acknowledged it waits for a later one
(R152, R153; log 103, DEDUCED). -/
def chipTollDone (s : State) : Bool :=
  let gs := chipGroups s
  acknowledged s &&
  gs.any (fun y => decide (y.wait = .toll 3)) &&
  gs.all (fun y => decide (y.wait = .toll 3) || decide (y.wait = .toll 4) || decide (y.wait = .stop))

/-- Whether a group's JOB-scope TOLL was pending at the end of job milestone j. -/
def jobTollAt (j : Nat) (y : Group) : Bool := decide (y.wait = .toll 4) && decide (y.tollAt ≤ j)

/-- Whether JOB-scope TOLLs complete with the relay of j; while a write of a participant on this chip is not acknowledged they wait for the
relay of a later milestone (R152, R153; log 103, DEDUCED). -/
def jobTollDone (s : State) (j : Nat) (f : Option Flags) : Bool :=
  acknowledged s &&
  (match f with
   | some f => f.tollAll
   | none => false) && (chipGroups s).any (jobTollAt j)

/-- A group at the boundary inside a step: its MS.END is over, a tollgate that completed lets it go on, and a RECV.WAIT on an
entry of the milestone that ended is over (R150, R152). -/
def releaseGroup (chip : Bool) (job : Option Nat) (y : Group) : Group :=
  match y.wait with
  | .msEnd => { y with wait := .none }
  | .recv _ => { y with wait := .none }
  | .toll c =>
    if c = 3 ∧ chip = true then { y with wait := .none, tolls := y.tolls + 1 }
    else
      match job with
      | some j => if jobTollAt j y then { y with wait := .none, tolls := y.tolls + 1 } else y
      | none => y
  | _ => y

/-- Every group at a boundary inside a step. -/
def releaseGroups (s : State) (chip : Bool) (job : Option Nat) : State :=
  (runTiles s).foldl (fun s t =>
    let x := getTile s t
    setTile s t { x with groups := x.groups.map (fun p => (p.1, releaseGroup chip job p.2)) }) s

/-! ### The new milestone (R118, R133, R191, R198, R224, R296, R297) -/

/-- The stored registers from `lo` below `hi`, by word index from `lo`. -/
def copyRegs (s : State) (lo hi : Nat) : List (Nat × Word) :=
  (s.csr.filter (fun p => decide (lo ≤ p.1) && decide (p.1 < hi))).map (fun p => ((p.1 - lo) / 4, p.2 ^^^ resetOf p.1))

/-- The copies of the sequence descriptors and of the parameter words (R118, R198 item 2). -/
def copyWords (s : State) : State :=
  { s with sch := { s.sch with
      descCopy := copyRegs s 0x000A8000 0x000B0000, paramCopy := copyRegs s 0x000A0100 0x000A0200 } }

/-- A new generation in every tile, counts from 0 (R198 item 4, R106, R297). -/
def freshGenerations (s : State) : State :=
  { s with
    tiles := s.tiles.map (fun p => (p.1, { newGeneration p.2 with gen := 0 }))
    dists := s.dists.map (fun p => (p.1, { p.2 with gen := 0 })) }

/-- The parameter words as bytes (R224). -/
def paramBytes (s : State) : List Byte :=
  (List.range 64).flatMap (fun n => leBytes 4 (SMap.get 0 s.sch.paramCopy n).toNat)

/-- Writes the parameter words into every parameter line, clearing the tags of its lines (R198 item 5, R224, R359). -/
def writeParams (s : State) : State :=
  (runTiles s).foldl (fun s t =>
    let x := getTile s t
    match x.prog with
    | some p =>
      match p.paramLine with
      | some l => charge (setTile s t (clearTags (spadWrite x (64 * l) (paramBytes s)) (lineSpan l 4))) t.d.val 7 4
      | none => s
    | none => s) s

/-- The number of stretched cycles a district may have in a milestone (R349). -/
def stretchBudget (s : State) : Nat := milestoneLen s / 64

/-- The clock and power registers of a district at a boundary (R349, R358, R377). -/
def endMargins (s : State) (d : Nat) : State :=
  let x := getDist s d
  let spent := decide (stretchBudget s < x.stretched)
  let s := setReg s (dstBase d + 0xF10C) (at_ (flag spent) 31 ||| at_ (x.stretched % 2 ^ 19) 0)
  let s := setReg s (dstBase d + 0xF108) x.minNow
  let s := setReg s (dstBase d + 0xF200) (putMask (getReg s (dstBase d + 0xF200)) (at_ (min 255 x.tempNow) 24) 0xFF000000)
  setDist s d { x with stretched := 0, minNow := 0xFFFFFFFF, tempNow := 0 }

/-- The divider that power asks for, at a boundary (R371). -/
def powerDivider (s : State) (q : Nat) : State :=
  let x := getDie s q
  let a := clkBase q
  let pwr := bits (getReg s a) 20 16
  let free := if x.lowered then 0 else min 8 (x.freeMs + 1)
  let next := if x.floorMs ∧ x.budget ≤ 16 then min 16 (pwr + 1) else if free = 8 ∧ 8 < pwr then pwr - 1 else pwr
  let s := setDie s q { x with floorMs := true, freeMs := free, lowered := lowNow x }
  setReg s a (putMask (getReg s a) (at_ next 16) 0x001F0000)

/-- The districts of a die over their stretch budget. -/
def dieOver (s : State) (q : Nat) : Bool :=
  (dieDistricts q).any (fun d => decide (stretchBudget s < (getDist s d).stretched))

/-- The power work of a boundary: the margins of the milestone that ends, DROOP, and the divider that power asks for (R349, R358, R365,
R371, R377). -/
def powerBoundary (s : State) : State :=
  let spent := (List.range 4).map (dieOver s)
  let s := (List.range 144).foldl endMargins s
  (List.range 4).foldl (fun s q => powerDivider (droop s q ((spent[q]?).getD false)) q) s

/-- The clock and power work of a boundary once its writes have taken effect (R350). -/
def clockBoundary (s : State) : State := changeDivs (powerBoundary s)

/-- A step's first position (R133, R296, R317): the attempt is counted and its samples are set up, and every tile starts
afresh. -/
def beginStep (s : State) (moved : List Nat) (rewinds : Bool) : State :=
  match placeNow s with
  | none => s
  | some p =>
    let s := { s with
      sch := { s.sch with stepFirst := p.first, wbDone := false }
      mem := { s.mem with attemptResets := 0 } }
    let s := sampleAll s (fun d => moved.contains d.val)
    (runTiles s).foldl (fun s t => setTile s t (startTile (getTile s t) p.record rewinds)) s

/-- Whether the running position is its step's first. -/
def firstOfStep (s : State) : Bool :=
  match placeNow s with
  | some p => decide (s.sch.position = p.first)
  | none => false

/-- The counts of a milestone begin: cycles, the ns in which slots on links count, and the cycles of R198. -/
def freshCounts (s : State) : State :=
  { s with
    clk := { s.clk with cycle := [], linkNs := 0 }
    dists := s.dists.map (fun p => (p.1, { p.2 with behind := 0 }))
    mem := { s.mem with readThis := [] }
    sch := { s.sch with
      done := false, sinceDone := 0, sinceMet := 0, forced := false, causesNow := s.sch.causesNext, causesNext := 0 } }

/-- Items 2 to 5 of R198 and what else begins with a milestone. `rewinds` tells a boundary that goes back to a position: after a
partition reset the tiles issue again only from there (R310). -/
def beginMilestone (s : State) (moved : List Nat) (rewinds chip : Bool) (job : Option Nat) : State :=
  let s := freshGenerations (copyWords s)
  let s := if firstOfStep s then beginStep s moved rewinds else releaseGroups s chip job
  let s := takeAllEarly (installTiles (installHops s (frameNow s)) (frameNow s))
  deliverDigest (settleRipple (freshCounts (writeParams s)))

/-- The state that a rewind to a position leaves before its records (R49, R195). -/
def rewindTo (s : State) (p : Nat) : State :=
  { s with sch := { s.sch with position := p, uncommitted := [], wbDone := false },
           dig := { s.dig with delivered := false, peersSeen := [], peers := [] } }

/-- Items of R45 from the retirements on, at a boundary that rewinds to `p` (R327). -/
def rewindWork (s : State) (p : Nat) : State :=
  let s := retireAll s
  let s := revertWrites s p
  endTests s

/-- Items of R45 after the roadworks writes, and the staged writes that are due. -/
def writesWork (s : State) (gate : Bool) : State := effectAll (scheduledWrites (reapplyWrites s)) gate

/-- The restores of a rewind: every block that holds a retain copy takes back what the copy holds, and what the reads of the copies in
the HBM reserves and the T2 reserve meet follows (R301, R304, R307). -/
def restoreWork (s : State) (dm : Damage) : State :=
  let some_ := !s.mem.retained.isEmpty
  meet (restoreRetained s) 3 true (fun a => some_ && (inReserve s a || inProtection s a)) dm

/-- What follows the writes of a boundary, unless one of them was a reset (R48, R448). -/
def unlessReset (s : State) (f : State → State) : State := if s.dev = .ready then f s else s

/-- The cause DEGRADED of a district that was degraded before this boundary (R19, R212). -/
def holdDegraded (s : State) (was : Bool) : State := if was then raiseCause s 5 else s

/-- Whether some district is degraded. -/
def anyDegraded (s : State) : Bool := s.dists.any (fun p => bit p.2.spare 14)

end Sys2Proof.Machine
end

