-- ==== Sys2Proof/Machine/Milestone.lean ====
section
/-! DEFINITION. The commands that begin milestones (R154, R192, R194 to R198, R273, R281, R282, R332 to R336): JOB_START,
MILESTONE_BOUNDARY, RESTART_BOUNDARY, the end of a job and the outcome of roadworks content. -/

namespace Sys2Proof.Machine

/-! ### The end of an itinerary (R36, R47, R99, R159, R295) -/

/-- Every trace of the job in the tiles, the hops and the districts ends. -/
def clearTiles (s : State) : State :=
  { s with
    tiles := []
    flights := []
    hops := s.hops.map (fun p => (p.1, { p.2 with table := [], packs := [] }))
    dists := s.dists.map (fun p => (p.1, { p.2 with sample := [], strikes := [], dups := [], again := [], due := [] }))
    seeds := []
    mem := { s.mem with
      spill := [], retained := [], writeback := false, readThis := [], attemptResets := 0
      tags := s.mem.tags.map (fun p => (p.1, { p.2 with retainStep := none })) } }

/-- The scheduling state when no itinerary is committed: the milestone number, the links' causes and the chip's own SEQ stay
as they are; what belonged to the job is gone. SCH_GEOMETRY.LOGICAL keeps the logical chip (log 141, DESIGN CHOICE). -/
def idleSched (s : State) : Sched :=
  { milestone := s.sch.milestone, ownSeq := s.sch.ownSeq, holds := s.sch.holds, resumeAt := s.sch.resumeAt,
    resumeFrom := s.sch.resumeFrom, lchip := s.sch.lchip, tollgates := s.sch.tollgates }

/-- The itinerary ends: staged writes that still wait take effect at once, those the journal has no room for keep waiting
(R47), and the dividers follow them (R350); the causes that only a job can clear are cleared, the dependency mask is empty (R274), and a TOLLGATE that waits
completes, as without an itinerary (R154). -/
def endItinerary (s : State) : State :=
  let ws := s.sch.staged
  let s := { s with sch := idleSched s }
  let s := clearTiles s
  let s := [0, 5, 7, 10].foldl clearCause s
  let s := putCause s 8 false
  let s := setReg s 0x000B0008 0
  let s := settleResume s
  let s := { s with sch := { s.sch with leftover := ws.map (fun w => (w, s.sch.milestone)) } }
  completeTollgates (recordAllOwed (changeDivs (drainLeftover ws.length s)))

/-- Ends the roadworks tests of an ending itinerary and appends its last record, from the given source (R53, R54, R336). -/
def endWith (s : State) (type src : Nat) (arg2 : Word) : State :=
  let s := stopTests s (decide (type = 0x13))
  let slot := match s.sch.committed with
    | some i => i.val
    | none => 0
  endItinerary (append s (draft s type src (BitVec.ofNat 32 slot) 0 arg2))

/-! ### MILESTONE_BOUNDARY (R197, R198) -/

/-- R197, and the moment of R198: cycle L in every district, 160 cycles after the chip became done, and 32 cycles after the last of
conditions 3 to 5 was met. After a DETOUR the next boundary is the restart boundary (R281). -/
def boundaryReady (s : State) : Bool :=
  decide (s.dev = .ready) && isCommitted s && s.sch.running && s.sch.done && s.sch.detour.isNone &&
  heardAll s s.sch.jobMs && !frozenFor s (s.sch.jobMs + 1) &&
  allReached s (milestoneLen s) && decide (160 ≤ s.sch.sinceDone) && decide (32 ≤ s.sch.sinceMet)

/-- The job milestone whose relay acts at the boundary that ends j (R194, R195, R202). -/
def actingRelay (s : State) : Option Nat :=
  if diameter s = 0 then some s.sch.jobMs
  else if s.sch.jobFirst < s.sch.jobMs then some (s.sch.jobMs - 1) else none

/-- The relay that acts. -/
def actingFlags (s : State) : Option Flags := (actingRelay s).bind (relayOf s)

/-- Counts a boundary that falls after cycle L (R228). -/
def countLate (s : State) : State := if allReached s (milestoneLen s + 1) then bump s 0x000A0058 1 else s

/-- The counters of R192 at a boundary; a step whose last milestone has ended waits for its commit. -/
def advanceCounters (s : State) : State :=
  let u := if lastOfStep s then s.sch.uncommitted ++ [(s.sch.stepFirst, s.sch.jobMs)] else s.sch.uncommitted
  { s with sch := { s.sch with
      milestone := s.sch.milestone + 1, jobMs := s.sch.jobMs + 1, position := s.sch.position + 1, uncommitted := u
      rewind := s.sch.rewind.filter (fun j => decide (some j ≠ actingRelay s)) } }

/-- Forgets the flags of milestones whose relay can act no more. -/
def pruneRelays (s : State) : State :=
  { s with sch := { s.sch with
      rounds := s.sch.rounds.filter (fun r => decide (s.sch.jobMs ≤ r.jobMs + 2))
      relayed := s.sch.relayed.filter (fun p => decide (s.sch.jobMs ≤ p.1 + 2))
      dropMs := s.sch.dropMs.filter (fun j => decide (s.sch.jobMs < j + 128)) } }

/-- A boundary whose relay carries ABANDON: the RETRACE record, the retirements, the reverts, and the position of the oldest
step that has not committed (R195, R327). -/
def rewindBoundary (s : State) (f : Flags) (gate : Bool) (dm : Damage) : State :=
  let p := oldestFirst s
  let s := bump (retraceRecord (rewindTo s p) p (lowestCause f.causes)) 0x000A0070 1
  let s := rewindWork s p
  let s := { s with sch := { s.sch with rwDue := s.sch.rwDue || windowDue s } }
  unlessReset (writesWork s gate) (fun s =>
    unlessReset (restoreWork (clockBoundary s) dm) (fun s => beginMilestone s [] true false none))

/-- Every other boundary that does not end the job. -/
def plainBoundary (s : State) (gate chip : Bool) (job : Option Nat) : State :=
  let w := roadworks s (firstOfStep s)
  unlessReset (writesWork w.1 gate) (fun s => beginMilestone (clockBoundary s) w.2 false chip job)

/-- The steps that commit at the boundary (R194). -/
def stepsNow (s : State) : List Nat :=
  match actingRelay s, actingFlags s with
  | some j, some f => if f.abandon then [] else committing (advanceCounters s) j
  | _, _ => []

/-- Whether the job ends at the boundary: its last step commits (R196). -/
def jobEnds (s : State) : Bool := (stepsNow s).any (lastStep s)

/-- The job milestone with which JOB-scope TOLLs complete at the boundary, if they do (R202). -/
def jobTollNow (s : State) : Option Nat :=
  match actingRelay s with
  | some j => if jobTollDone s j (actingFlags s) then some j else none
  | none => none

/-- Whether a qualifying tollgate completes at the boundary (R44). -/
def gateNow (s : State) : Bool := chipTollDone s || (jobTollNow s).isSome || !s.sch.tollgates.isEmpty

/-- The state with the survey, the counters of R192 and the commits of the boundary done; the peer digests that landed in the milestone that
ends are no peers of the digest that such a commit makes (R323). -/
def enterBoundary (s : State) : State :=
  (stepsNow s).foldl commitStep (keepPeers <| advanceCounters (surveyAt (countLate s) (s.sch.jobMs + 1) (jobEnds s)))

/-- The work of the boundary on the milestone that begins. -/
def nextMilestone (s : State) (dm : Damage) : State :=
  let t := enterBoundary s
  let t := match actingFlags s with
    | some f => if f.abandon then rewindBoundary t f (gateNow s) dm else plainBoundary t (gateNow s) (chipTollDone s) (jobTollNow s)
    | none => plainBoundary t (gateNow s) (chipTollDone s) (jobTollNow s)
  unlessReset t (fun t => pruneRelays (completeTollgates (holdDegraded t (anyDegraded s))))

/-- MILESTONE_BOUNDARY (R44, R45, R194, R195, R197, R198, R349, R427): `dm` lists what the restores of a rewind meet. -/
def execMilestoneBoundary (dm : Damage) (s : State) : Host.Outcome State Fault Refusal :=
  .next (
    if boundaryReady s then
      if jobEnds s then endWith (powerBoundary (enterBoundary s)) 0x12 0 0 else nextMilestone s dm
    else s)

/-! ### JOB_START (R196, R273) -/

/-- Whether START has arrived from every neighbour, by one of its links (R274). -/
def startsHeard (s : State) (ns : List Word) : Bool := ns.all (fun w => s.sch.startFrom.any (fun e => e.2 == w))

/-- The chip begins: the links of the mask that have not delivered their copies of START still owe them. -/
def settleStarts (s : State) : State :=
  { s with sch := { s.sch with
      startFrom := s.sch.startAhead, startAhead := []
      startOwed := (maskEnds s).filter (fun e => !s.sch.startFrom.contains e) } }

/-- What a job begins with: the stretches, margins and temperatures of earlier time count for no milestone of it, and of what the ticks
showed before it only a target that still stands below 64 counts for its divider (R349, R358, R371, R377). -/
def freshMargins (s : State) : State :=
  { s with
    dists := s.dists.map (fun p => (p.1, { p.2 with stretched := 0, minNow := 0xFFFFFFFF, tempNow := 0 }))
    pwr := { s.pwr with dies := s.pwr.dies.map (fun p => (p.1, { p.2 with floorMs := true, lowered := lowNow p.2 })) } }

/-- The boundary at which a job starts: the records and writes of R45, the dividers that a staged write changes (R350), and job
milestone 0 at position 0. -/
def startBoundary (s : State) : State :=
  let w := roadworks (settleStarts { s with sch := { s.sch with running := true, position := 0, jobMs := 0, jobFirst := 0 } }) true
  unlessReset (writesWork w.1 (!s.sch.tollgates.isEmpty)) (fun s =>
    completeTollgates (beginMilestone (freshMargins (changeDivs s)) w.2 true false none))

/-- JOB_START (R44, R196): the chip begins job milestone 0 at position 0, unless it is frozen for it. A staged write or a TOLLGATE that waits
is due at it as at a boundary; the milestone number stays that of COMMIT. -/
def execJobStart (s : State) : Host.Outcome State Fault Refusal :=
  .next (
    if decide (s.dev = .ready) && isCommitted s && !s.sch.running && s.sch.detour.isNone && reached s s.sch.startTime &&
       !frozenFor s 0 && startsHeard s (neighbours s) then startBoundary s
    else s)

/-! ### RESTART_BOUNDARY (R273, R281, R282, R284) -/

/-- The links that the tables of a detour use (R275, R281). -/
def detourLinks (s : State) (d : Detour) : List Nat :=
  match committedSlot s with
  | some x => (usedRanks x.content s.sch.lchip).filterMap (fun p => (linkOf (detourRanks s d) p.1 p.2).map (·.val))
  | none => []

/-- The neighbours of a detour's new mask: the partners of the ACTIVE links that carry another logical chip and that the restart boundary
does not leave in the discard state (R273, R281). -/
def neighboursUnder (s : State) (d : Detour) : List Word :=
  (activeLinks s).foldl (fun l n =>
    let w := (getLink s n).partner
    if (detourMap s d).any (fun p => p.2 == w && p.2 != coord s) && (!lnkDiscard s n || (detourLinks s d).contains n) &&
       !l.contains w then l ++ [w] else l) []

/-- The DETOUR record of a substitution (R54, R281). A chip that is no member of a pair whose rank is substituted gives the coordinate of the
pair's first chip for the partner's (log 129, DESIGN CHOICE). -/
def detourRecord (s : State) (m : List (Nat × Word)) (g : Nat) : Subst → State
  | .chip c spare => append s (draft s 0x30 0 (mapWord m c) spare (BitVec.ofNat 32 g))
  | .rank _ _ a b =>
    append s (draft s 0x30 0 (mapWord m (if a = s.sch.lchip then b else a)) 0xFFFFFFFF (BitVec.ofNat 32 g))

/-- The SELF write of the map entry of a chip substitution (R281). -/
def mapWrite (s : State) : Subst → State
  | .chip c spare => selfWrite s (roadmapAddr c) spare
  | .rank _ _ _ _ => s

/-- Clears DISCARD on the links now in use, in link order (R281). -/
def clearDiscard (s : State) : State :=
  (List.range 24).foldl (fun s n =>
    if lnkDiscard s n && usesLink s n then selfWrite s (lnkBase n) (lnkCtrl s n &&& ~~~(at_ 1 28)) else s) s

/-- Records and writes 1 to 4 of R281; the links now in use are those of the new tables. -/
def detourWork (s : State) (d : Detour) : State :=
  if d.join then s
  else
    let m := roadMap s
    let s := d.substs.foldl (fun s x => detourRecord s m d.g x) s
    let s := d.substs.foldl mapWrite s
    let s := selfWrite s 0x000A0040 (BitVec.ofNat 32 d.g)
    clearDiscard s

/-- What the restart boundary sets before its records: the next milestone number where a milestone was running, job milestone J
at position P, the resolved ranks, no flags and no expectations of earlier milestones (R52, R274, R275, R281, R284). -/
def restartCounters (s : State) (d : Detour) : State :=
  { rewindTo s d.p with sch := { (rewindTo s d.p).sch with
      milestone := s.sch.milestone + flag s.sch.running, jobMs := d.j, jobFirst := d.j, running := true, wayExpect := [], rounds := [],
      relayed := [], rewind := [], detour := none, ranks := detourRanks s d, moved := movedChips s d, causesNow := 0,
      causesNext := 0 } }

/-- Whether a detour replaces this chip: it substitutes the logical chip that it carries (R212). -/
def replacesOwn (s : State) (d : Detour) : Bool := d.substs.any (fun x =>
  match x with
  | .chip c _ => decide (c = s.sch.lchip)
  | .rank _ _ _ _ => false)

/-- Whether the restart boundary of a detour may fall: its time has come, START has come from every neighbour of the new mask, and no
cause but RESUME_WAIT is left; DEGRADED goes with a detour that replaces the chip (R212, R281). -/
def restartReady (s : State) (d : Detour) : Bool :=
  decide (s.dev = .ready) && isCommitted s &&
  decide (s.sch.holds &&& (if replacesOwn s d then 0b10111011111 else 0b10111111111) = 0) && reached s d.t0 &&
  startsHeard s (neighboursUnder s d)

/-- The clock and power work of a boundary that ends a milestone, or where none was running, as at a join, that of a job's start (R349, R350,
R358, R377). -/
def clockWork (s : State) (ended : Bool) : State :=
  if ended then clockBoundary s else freshMargins (changeDivs s)

/-- The restart boundary of a detour: the survey comes before its work (R427). -/
def restartJob (s : State) (d : Detour) (dm : Damage) : State :=
  let own := replacesOwn s d
  let was := s.sch.running
  let s := surveyAt s d.j false
  let s0 := if own then clearCause s 5 else s
  let s := retraceRecord (detourWork (restartCounters s0 d) d) d.p 5
  let s := if d.join then s else bump s 0x000A0070 1
  let s := rewindWork s d.p
  let s := { s with sch := { s.sch with rwDue := s.sch.rwDue || windowDue s } }
  unlessReset (writesWork s (!s0.sch.tollgates.isEmpty)) (fun s =>
    let s := restoreWork (clockWork s was) dm
    unlessReset (settleStarts (setReg s 0x000B0008 (depMaskOf s))) (fun s =>
      completeTollgates (holdDegraded (beginMilestone s [] true false none) (anyDegraded s0 && !own))))

/-- RESTART_BOUNDARY (R281, R282): `dm` lists what the restores of the rewind meet. -/
def execRestartBoundary (dm : Damage) (s : State) : Host.Outcome State Fault Refusal :=
  .next (
    match s.sch.detour with
    | none => s
    | some d => if restartReady s d then restartJob s d dm else s)

/-! ### ROADWORKS_CONTENT_DONE (R316, R334) -/

/-- The outcome of scan content at a position. -/
def scanResult (s : State) (r : RwResult) : RwOutcome :=
  if !scanReads s then .incomplete else if r.scanFails || r.residue.isSome then .fails else .passes

/-- The outcome of random content at a position: a residue mismatch fails it; else the three signatures of its triple decide
(R334). A triple that did not run whole is incomplete. -/
def randomResult (rs : List RwResult) (r : RwResult) : RwOutcome :=
  if r.residue.isSome then .fails
  else
    match (rs.filter (fun x => x.d.val % 48 == r.d.val % 48 && x.d != r.d)).map (·.signature) with
    | [a, b] =>
      if r.signature = a ∨ r.signature = b then .passes
      else if a = b then .fails
      else .incomplete
    | _ => .incomplete

/-- The least margin of the position under test in its window (R356, R358). -/
def trimMargin (s : State) (r : RwResult) : State :=
  let a := dstBase r.d.val + 0xF110
  setReg s a (putMask (getReg s a) (at_ (min (bits (getReg s a) 31 24) r.margin.toNat) 24) 0xFF000000)

/-- Notes the outcome of one tested position, its margin, and its residue mismatch in CHK_RES_FAIL (R316, R356). -/
def noteResult (scan : Bool) (rs : List RwResult) (s : State) (r : RwResult) : State :=
  let x := getDist s r.d.val
  if underTest x.spare && !x.heating && x.tested.isNone then
    let o := if scan then scanResult s r else randomResult rs r
    let s := match r.residue with
      | some q => fillResFail s r.d.val (freePos x.spare) 0xF q.1.toNat (q.2.1.map (·.val)) (q.2.2.map (·.val))
      | none => s
    trimMargin (setDist s r.d.val { getDist s r.d.val with tested := some o }) r
  else s

/-- ROADWORKS_CONTENT_DONE (R333 to R335): every position under test whose content has begun has its outcome; one without a result is
incomplete. -/
def execRoadworksContentDone (results : List RwResult) (s : State) : Host.Outcome State Fault Refusal :=
  .next (
    if s.dev = .fault then s
    else
    let scan := !bit (getReg s 0x00060008) 30
    let rs := results.filter (fun r => underTest (getDist s r.d.val).spare)
    let s := rs.foldl (noteResult scan rs) s
    { s with dists := s.dists.map (fun p =>
        if underTest p.2.spare && !p.2.heating && p.2.tested.isNone then (p.1, { p.2 with tested := some .incomplete }) else p) })

end Sys2Proof.Machine
end

