-- ==== Sys2Proof/Machine/Rdma.lean ====
section
/-! DEFINITION. The RDMA engine (R399 to R401) as responder: which operations a window admits, packets of WRITE messages and READ
requests in sequence, acknowledgements and CNPs. -/

namespace Sys2Proof.Machine

/-- NAK codes of the RoCEv2 acknowledgement header: PSN Sequence Error (PRESUMED: IBTA; log 38). -/
def nakSequence : Byte := 0
/-- Invalid Request. -/
def nakInvalid : Byte := 1
/-- Remote Access Error. -/
def nakAccess : Byte := 2
/-- Remote Operational Error. -/
def nakOperational : Byte := 3

/-! ### What a window admits (R290, R291, R400) -/

/-- Whether an operation on `n` bytes at `a` under an R_Key is admitted: HOST_W is attribute bit 3, HOST_R bit 2 (R400). -/
def rdmaAdmits (s : State) (rkey : Word) (a n b : Nat) : Bool :=
  let w := rkey.toNat
  decide (w < 64) && winHolds s w a n && !winBacking s w && bit (winAttr s w) b && inWindowPart s a n

/-! ### Queue pairs (R399) -/

/-- Whether a packet reaches an open queue pair. -/
def qpLive (s : State) (qp : Nat) : Bool := portUp s .host && (lookup s.ports.qps qp).isSome

/-- A queue pair of an index. -/
def getQp (s : State) (i : Nat) : QueuePair :=
  (lookup s.ports.qps i).getD { pmtu := 0, hostQpn := 0, reqPsn := 0, respPsn := 0, gid := 0, psn := 0 }

/-- Replaces an open queue pair. -/
def setQp (s : State) (i : Nat) (q : QueuePair) : State :=
  { s with ports := { s.ports with qps := s.ports.qps.map (fun p => if p.1 = i then (i, q) else p) } }

/-- The path MTU in bytes. -/
def mtuBytes (q : QueuePair) : Nat := 1024 * 2 ^ q.pmtu.toNat

/-- A CE-marked packet: one CNP per queue pair per 50 µs (R399). -/
def noteCe (s : State) (h : RdmaHead) : State :=
  let q := getQp s h.qp.val
  let due := match q.cnpAt with
    | none => true
    | some t => decide (50000 ≤ s.tme.age - t)
  if h.ce && due then emit (setQp s h.qp.val { q with cnpAt := some s.tme.age }) (.cnp q.hostQpn) else s

/-- Sends an acknowledgement, or a NAK with its code. -/
def ackRdma (s : State) (h : RdmaHead) (nak : Option Byte) : State := emit s (.rdmaAck (getQp s h.qp.val).hostQpn h.psn nak)

/-- A NAK of Remote Access Error, counted. -/
def refuseRdma (s : State) (h : RdmaHead) : State := ackRdma (bump s 0x00080120 1) h (some nakAccess)

/-- Whether a sequence number is one that the queue pair has had already: one of the half of the numbers before the next. -/
def psnSeen (q : QueuePair) (psn : BitVec 24) : Bool := decide (psn ≠ q.psn) && decide ((q.psn - psn).toNat ≤ 2 ^ 23)

/-! ### What an operation's lines meet (R299, R301, R302, R304) -/

/-- What the lines of `n` bytes from `a` meet, and those of the blocks that are covered whole, which are verified (R302). SOURCE 5 is RDMA
(R312). -/
def meetSpan (s : State) (a n : Nat) (whole : List Nat) (dm : Damage) : State :=
  let s := meet s 5 true (fun x => whole.contains (x / 4096)) dm
  meet s 5 false (fun x => lineIn a n x && !whole.contains (x / 4096)) dm

/-- Whether all that an operation reads is sound. -/
def soundSpan (s : State) (a n : Nat) (dm : Damage) : Bool :=
  dm.all (fun p => !lineIn a n p.1 || sound (admitted s p.1 5 ((wholeBlocks a n).contains (p.1 / 4096)) p.2))

/-- The power of an operation: one access for each line that it touches (R359). -/
def chargeSpan (s : State) (a n : Nat) : State := chargeAccess s a (lineCount a n)

/-! ### WRITE (R399 to R401) -/

/-- Where the bytes of a WRITE packet go and what is left of the message after them; none where the packet does not continue the message
as its parts must: every packet but the last fills the path MTU. -/
def writeRun (q : QueuePair) (p : WritePart) (n : Nat) : Option WriteRun :=
  match p, q.run with
  | .only _ a len, _ => if n = len.toNat ∧ n ≤ mtuBytes q then some { start := a.toNat, next := a.toNat, left := 0 } else none
  | .first _ a len, _ =>
    if n = mtuBytes q ∧ n < len.toNat then some { start := a.toNat, next := a.toNat, left := len.toNat - n } else none
  | .middle, some r => if n = mtuBytes q ∧ n < r.left then some { r with left := r.left - n } else none
  | .last, some r => if n = r.left ∧ n ≤ mtuBytes q then some { r with left := 0 } else none
  | _, none => none

/-- Whether the window that the first packet of a message names admits all of the message. -/
def writeAdmits (s : State) : WritePart → Bool
  | .only k a len => rdmaAdmits s k a.toNat len.toNat 3
  | .first k a len => rdmaAdmits s k a.toNat len.toNat 3
  | .middle => true
  | .last => true

/-- The blocks that a message covers whole and that its packet of `n` bytes ends (R302). -/
def blocksEnded (r : WriteRun) (n : Nat) : List Nat :=
  (wholeBlocks r.start (r.next + n - r.start)).filter (fun b => decide (r.next < 4096 * (b + 1)))

/-- The bytes of a WRITE packet reach memory; a message that is not over goes on behind them. -/
def storePacket (s : State) (h : RdmaHead) (r : WriteRun) (data : List Byte) (dm : Damage) : State :=
  let q := getQp s h.qp.val
  let s := setQp s h.qp.val { q with
    psn := q.psn + 1, run := if r.left = 0 then none else some { r with next := r.next + data.length } }
  let whole := blocksEnded r data.length
  bump (hostStore (meetSpan (chargeSpan s r.next data.length) r.next data.length whole dm) r.next data whole) 0x00080110 1

/-- A WRITE packet in its turn: its bytes reach memory, and the message's last packet, or one that asks for it, is acknowledged. -/
def takeWrite (s : State) (h : RdmaHead) (p : WritePart) (data : List Byte) (dm : Damage) : State :=
  match writeRun (getQp s h.qp.val) p data.length with
  | none => ackRdma s h (some nakInvalid)
  | some r =>
    if writeAdmits s p then
      let s := storePacket s h r data dm
      if r.left = 0 || h.ackReq then ackRdma s h none else s
    else refuseRdma s h

/-- RDMA_WRITE (R399 to R401): a packet whose number was had already is acknowledged again, one ahead of its turn is a sequence error. A
packet for a queue pair that is not open is not answered (log 38). -/
def execRdmaWrite (h : RdmaHead) (p : WritePart) (data : List Byte) (dm : Damage) (s : State) : Host.Outcome State Fault Refusal :=
  .next (
    if !qpLive s h.qp.val then s
    else
      let s := noteCe s h
      let q := getQp s h.qp.val
      if h.psn = q.psn then takeWrite s h p data dm
      else if psnSeen q h.psn then ackRdma s h none
      else ackRdma s h (some nakSequence))

/-! ### READ (R399, R400) -/

/-- The packets in which `bytes` are sent: each but the last fills the path MTU, and a READ of no bytes is answered with one empty
packet. -/
def readPackets (mtu : Nat) (bytes : List Byte) : List (List Byte) :=
  (List.range (max 1 (ceilDiv bytes.length mtu))).map (fun i => (bytes.drop (mtu * i)).take mtu)

/-- A READ request that is served: the numbers of its responses follow its own, and the next request comes after them. A line that
cannot be corrected and a path failure are answered with a NAK of Remote Operational Error, whether or not an itinerary is committed
(R301, R304; log 101). -/
def takeRead (s : State) (h : RdmaHead) (a n : Nat) (dm : Damage) : State :=
  let q := getQp s h.qp.val
  let ok := soundSpan s a n dm
  let s := meetSpan (chargeSpan s a n) a n (wholeBlocks a n) dm
  if ok then
    let s := (wholeBlocks a n).foldl giveCheck s
    let ps := readPackets (mtuBytes q) (memRead s a n)
    let s := if h.psn = q.psn then setQp s h.qp.val { q with psn := q.psn + BitVec.ofNat 24 ps.length, run := none } else s
    emit (bump s 0x00080118 1) (.rdmaData q.hostQpn h.psn ps)
  else ackRdma s h (some nakOperational)

/-- RDMA_READ (R399, R400): a request whose number was had already is served again; one ahead of its turn is a sequence error. A request
is served before the next packet is taken, so a queue pair never has more than one outstanding. -/
def execRdmaRead (h : RdmaHead) (rkey : Word) (addr : DWord) (length : Word) (dm : Damage) (s : State) :
    Host.Outcome State Fault Refusal :=
  .next (
    if !qpLive s h.qp.val then s
    else
      let s := noteCe s h
      let q := getQp s h.qp.val
      if !(h.psn == q.psn || psnSeen q h.psn) then ackRdma s h (some nakSequence)
      else if rdmaAdmits s rkey addr.toNat length.toNat 2 then takeRead s h addr.toNat length.toNat dm
      else refuseRdma s h)

end Sys2Proof.Machine
end

