-- ==== Sys2Proof/Machine/Loading.lean ====
section
/-! DEFINITION. Loading and committing an itinerary (R159, R196, R276, R282, R309, R408 to R413): LOAD, PATCH, UNLOAD, SEED and
both forms of COMMIT. -/

namespace Sys2Proof.Machine

/-! ### Slots (R290, R408, R445) -/

/-- A slot's itinerary. -/
def getSlot (s : State) (i : Fin 4) : Option Slot := (s.slots.find? (fun p => p.1 == i.val)).map (·.2)

/-- The slots without one. -/
def dropSlot (l : List (Nat × Slot)) (i : Nat) : List (Nat × Slot) := l.filter (fun p => decide (p.1 ≠ i))

/-- Replaces a slot's itinerary, keeping the slots in order. -/
def putSlot (s : State) (i : Fin 4) (x : Slot) : State :=
  { s with slots := s.slots.filter (fun p => decide (p.1 < i.val)) ++ [(i.val, x)] ++ s.slots.filter (fun p => decide (i.val < p.1)) }

/-- The bytes of the itinerary store that are free for a slot: 1 GiB, less what the other slots hold with their schedules, less the
last 64 MiB while an image session is open. -/
def storeRoom (s : State) (i : Fin 4) : Nat :=
  2 ^ 30 - (if s.boot.session.isSome then 2 ^ 26 else 0) -
    ((dropSlot s.slots i.val).map (fun p => p.2.length + 16 * p.2.schedule.length)).foldl (· + ·) 0

/-- Whether a copy of `n` bytes from `a` lies in one valid window that is not a backing window, in a part of memory that windows may
name (R288 to R291, R409). -/
def copyAllowed (s : State) (a n : Nat) : Bool :=
  inWindowPart s a n && (List.range 64).any (fun w => winHolds s w a n && !winBacking s w)

/-! ### LOAD (R54, R409) -/

/-- The rule and offset with which LOAD completes. -/
def loadResult (s : State) (x : Slot) : Nat × Word :=
  match loadFail x with
  | none => (0, 0)
  | some (r, some off) => (r, BitVec.ofNat 32 off)
  | some (r, none) => (r, Config.failureOffset r s.fresh)

/-- The slot that a copy of bytes makes, before its checks. -/
def copiedSlot (l : List Byte) (c : ItinContent) : Slot :=
  { length := l.length, bytes := ((List.range l.length).zip l).filter (fun p => p.2 != 0), content := c, failRule := 0,
    failOffset := 0 }

/-- The power of a copy of `n` bytes from `a` into the itinerary store: one access to read and one to write each line (R359). -/
def chargeCopy (s : State) (a n : Nat) : State := chargeHub (chargeAccess s a (ceilDiv n 64)) 13 (ceilDiv n 64)

/-- The blocks that the loader has read whole have check values from then on (R302). -/
def giveRead (s : State) (a n : Nat) : State := (wholeBlocks a n).foldl giveCheck s

/-- A LOAD that passes: its record and its group 1 records, and the result of the checks. -/
def loadInto (s : State) (i : Fin 4) (l : List Byte) (c : ItinContent) : Reply :=
  let x := copiedSlot l c
  let res := loadResult s x
  let s := append s (draft s 0x10 1 (BitVec.ofNat 32 i.val) (BitVec.ofNat 32 (header x 4 1)) (BitVec.ofNat 32 (ceilDiv l.length 1024)))
  let s := appendAll s (digestDrafts s 1 (digestWord (digest256 l)))
  (takeFresh (putSlot s i { x with failRule := res.1, failOffset := res.2 }), stOk, leBytes 4 res.1 ++ leBytes 4 res.2.toNat)

/-- What LOAD does and answers: an itinerary in which two patch sites overlap is refused (R408; log 102). -/
def loadOp (i : Fin 4) (a n : Nat) (c : ItinContent) (dm : Damage) (s : State) : Reply :=
  if s.dev ≠ .ready ∨ s.sch.committed = some i then (s, stBadState, [])
  else if storeRoom s i < n then (s, stNotFound, [])
  else if copyAllowed s a n = false then (s, stRefused, [])
  else
    match appendRefusal s with
    | some e => (s, e, [])
    | none =>
      let m := copyMeets s (lineIn a n) dm
      if m.2 then
        if sitesOverlap (copiedSlot (memRead s a n) c) then (m.1, stRefused, [])
        else loadInto (giveRead (chargeCopy m.1 a n) a n) i (memRead s a n) c
      else ({ m.1 with slots := dropSlot m.1.slots i.val }, stDataError, [])

/-- LOAD (R409). -/
def execLoad (r : Req) (content : ItinContent) (dm : Damage) (s : State) : Host.Outcome State Fault Refusal :=
  .next (serve s r 0x10 bodyLoad (fun v => loadOp v.1 v.2.1 v.2.2 content dm))

/-! ### PATCH (R408, R410) -/

/-- The sites of a kind. -/
def sitesOfKind (x : Slot) (coord : Bool) : List PatchSite := if coord then coordSites x else baseSites x

/-- What the site of an index lies in. -/
def targetAt (x : Slot) (coord : Bool) (i : Nat) : PatchTarget :=
  (((if coord then x.content.coordTargets else x.content.baseTargets)[i]?)).getD .bytes

/-- What refuses an entry of PATCH. -/
def entryRefusal (x : Slot) (e : PatchEntry) : Option Nat :=
  match (sitesOfKind x e.coord)[e.index]? with
  | none => some stNotFound
  | some p => if 2 ^ (8 * p.width) ≤ e.value.toNat then some stBadFrame else none

/-- A word with `n` bytes from byte `k` taken from a value. -/
def wordPut (w : DWord) (k n v : Nat) : DWord :=
  (List.range n).foldl (fun w i =>
    (w &&& ~~~((0xFF : DWord) <<< (8 * (k + i)))) ||| ((BitVec.ofNat 64 (v / 256 ^ i % 256)) <<< (8 * (k + i)))) w

/-- The content after a value is written at a site. -/
def patchContent (c : ItinContent) (p : PatchSite) (t : PatchTarget) (v : Nat) : ItinContent :=
  match t with
  | .bytes => c
  | .backing l d b =>
    { c with tiles := c.tiles.map (fun x =>
        if x.lchip = l ∧ x.d = d ∧ x.l = b then { x with backing := v % 2 ^ (8 * p.width) } else x) }
  | .code l d a k =>
    { c with code := c.code.map (fun w =>
        if w.lchip = l ∧ w.d = d ∧ w.addr = a then { w with word := wordPut w.word k p.width v } else w) }

/-- A slot after one entry of PATCH. -/
def applyPatch (x : Slot) (e : PatchEntry) : Slot :=
  match (sitesOfKind x e.coord)[e.index]? with
  | none => x
  | some p =>
    let l := leBytes p.width e.value.toNat
    let y := { x with
      bytes := ((List.range l.length).zip l).foldl (fun m (q : Nat × Byte) => SMap.set 0 m (p.offset + q.1) q.2) x.bytes
      content := patchContent x.content p (targetAt x e.coord e.index) e.value.toNat }
    if e.coord then { y with patchedCoord := addTo x.patchedCoord e.index }
    else { y with patchedBase := addTo x.patchedBase e.index }

/-- What PATCH does and answers: no entry takes effect when one is refused. -/
def patchOp (i : Fin 4) (es : List PatchEntry) (s : State) : Reply :=
  match getSlot s i with
  | none => (s, stNotFound, [])
  | some x =>
    if s.dev ≠ .ready ∨ s.sch.committed = some i then (s, stBadState, [])
    else
      match (es.filterMap (entryRefusal x)).head? with
      | some e => (s, e, [])
      | none => (putSlot s i (es.foldl applyPatch x), stOk, [])

/-- PATCH (R410). -/
def execPatch (r : Req) (s : State) : Host.Outcome State Fault Refusal :=
  .next (serve s r 0x11 bodyPatch (fun v => patchOp v.1 v.2))

/-! ### UNLOAD and SEED (R159, R409, R411) -/

/-- UNLOAD (R409): an empty slot is not found. -/
def execUnload (r : Req) (s : State) : Host.Outcome State Fault Refusal :=
  .next (serve s r 0x14 bodySlot (fun slot s =>
    if s.dev ≠ .ready ∨ s.sch.committed = some slot then (s, stBadState, [])
    else if (getSlot s slot).isNone then (s, stNotFound, [])
    else ({ s with slots := dropSlot s.slots slot.val }, stOk, [])))

/-- SEED (R411): the seed slot takes the value, and its SEED record is appended. -/
def execSeed (r : Req) (s : State) : Host.Outcome State Fault Refusal :=
  .next (serve s r 0x15 bodySeed (fun v s =>
    if s.dev ≠ .ready ∨ isCommitted s = true then (s, stBadState, [])
    else
      match appendRefusal s with
      | some e => (s, e, [])
      | none =>
        let d := draft s 0x20 1 (BitVec.ofNat 32 v.1.toNat) (half v.2 false) (half v.2 true)
        (append { s with seeds := SMap.set 0 s.seeds v.1.toNat v.2 } d, stOk, [])))

/-! ### The checks of COMMIT (R71, R225, R275, R276, R309, R411 to R413) -/

/-- Whether every patch site of a slot has been patched (R411). -/
def allPatched (x : Slot) : Bool :=
  (List.range (baseSites x).length).all (fun i => x.patchedBase.contains i) &&
  (List.range (coordSites x).length).all (fun i => x.patchedCoord.contains i)

/-- Whether an address names a result-bearing field: a parameter word or a register of a sequence descriptor (R50, R117, R228). -/
def resultBearing (a : Nat) : Bool :=
  (regInfo a).isSome &&
  ((decide (0x000A0100 ≤ a) && decide (a < 0x000A0200)) || (decide (0x000A8000 ≤ a) && decide (a < 0x000B0000)))

/-- The entries of a schedule (R413). -/
def scheduleEntries (l : List Byte) (n : Nat) : List (Nat × Nat × Word) :=
  (List.range n).map (fun i => (num l (16 * i) 8, num l (16 * i + 8) 4, BitVec.ofNat 32 (num l (16 * i + 12) 4)))

/-- Whether positions do not fall. -/
def ascending : List (Nat × Nat × Word) → Bool
  | a :: b :: r => decide (a.1 ≤ b.1) && ascending (b :: r)
  | _ => true

/-- Whether a schedule meets R71 and R413. -/
def scheduleOk (l : List (Nat × Nat × Word)) : Bool := ascending l && l.all (fun e => resultBearing e.2.1)

/-- Whether no two entries of the road map hold one coordinate and one holds this chip's own (R276). -/
def mapOk (s : State) : Bool :=
  noRepeat ((roadMap s).map (·.2)) && (roadMap s).any (fun p => p.2 == coord s)

/-- The logical chip of this chip (R222). -/
def ownLogical (s : State) : Nat := (((roadMap s).find? (fun p => p.2 == coord s)).map (·.1)).getD 0

/-- The ranks of an itinerary on a logical chip, resolved among the links that are ACTIVE now (R275). -/
def freshRanks (s : State) (c : ItinContent) (l : Nat) : List RankLink := (usedChips c l).flatMap (ranksTo s (roadMap s))

/-- Whether every hop and every fork branch of a logical chip resolves (R275). -/
def roadsResolve (s : State) (c : ItinContent) (l : Nat) : Bool :=
  let ok := fun (h : HopDef) => (hopUnder (freshRanks s c l) h).isSome
  (ownHops c l).all ok && c.roads.all (fun r => r.forks.all (fun f => decide (f.1 ≠ l) || f.2.2.all ok))

/-! ### The memory layout (R289 to R291, R309) -/

/-- The valid windows. -/
def validWindows (s : State) : List Nat := (List.range 64).filter (winValid s)

/-- Whether two windows overlap. -/
def winOverlap (s : State) (m n : Nat) : Bool :=
  decide (winBase s m < winBase s n + winLen s n) && decide (winBase s n < winBase s m + winLen s m)

/-- Whether a window lies within one window part (R289 to R291). -/
def inPart (s : State) (n : Nat) : Bool := inWindowPart s (winBase s n) (winLen s n)

/-- The bytes of the valid windows that a test admits. -/
def windowBytes (s : State) (f : Nat → Bool) : Nat := ((validWindows s).filter f).foldl (fun t n => t + winLen s n) 0

/-- TILE_W of a window. -/
def tileW (s : State) (n : Nat) : Bool := bit (winAttr s n) 1

/-- W_q. -/
def tileBytesOf (s : State) (q : Nat) : Nat :=
  windowBytes s (fun n => tileW s n && decide (hbmQuad (winBase s n) = some q)) + bits (getReg s 0x0007000C) 7 0 * gib

/-- H. -/
def mirrorBytes (s : State) : Nat :=
  windowBytes s (fun n => !winBacking s n && (hbmQuad (winBase s n)).isSome) + 4 * (bits (getReg s 0x0007000C) 7 0 * gib)

/-- T. -/
def t2Bytes (s : State) : Nat :=
  windowBytes s (fun n => tileW s n && inT2 (winBase s n)) + bits (getReg s 0x00070010) 15 0 * gib

/-- The bytes that a logical tile's backing region needs. -/
def backingBytes (x : Slot) (p : TileProg) : Nat :=
  match (relocs x).find? (fun r => decide (r.kind = 2) && decide (r.index = 8 * p.d.val + p.l.val)) with
  | some r => 4096 * r.units
  | none => 0

/-- Whether the backing region of a tile program lies in a backing window. -/
def backingOk (s : State) (x : Slot) (p : TileProg) : Bool :=
  let n := backingBytes x p
  decide (n = 0) || (validWindows s).any (fun w => winBacking s w && winHolds s w p.backing n)

/-- Whether the memory layout admits an itinerary on a logical chip (R309): k is 1 when DIAMETER is 0, and 2 otherwise. -/
def layoutOk (s : State) (x : Slot) (l : Nat) : Bool :=
  let ws := validWindows s
  let k := if header x 9 1 = 0 then 1 else 2
  let w := (List.range 4).map (tileBytesOf s)
  ws.all (fun n => decide (0 < winLen s n) && inPart s n && ws.all (fun m => decide (m = n) || !winOverlap s m n)) &&
  (x.content.tiles.filter (fun p => decide (p.lchip = l))).all (backingOk s x) &&
  decide (k * w.foldl max 0 ≤ bits (getReg s 0x0007000C) 15 8 * gib) &&
  decide (mirrorBytes s + k * w.foldl (· + ·) 0 + k * t2Bytes s ≤ bits (getReg s 0x00070010) 31 16 * gib)

/-- The first check of R412 that fails once the schedule is read. The join form asks for links that are ACTIVE as every COMMIT does (R275;
log 130, DEDUCED). -/
def commitRefusal (s : State) (x : Slot) (es : List (Nat × Nat × Word)) : Option Nat :=
  let l := ownLogical s
  if x.failRule ≠ 0 ∨ (loadFail x).isSome ∨ allPatched x = false ∨ scheduleOk es = false then some stItinMismatch
  else if mapOk s = false ∨ roadsResolve s x.content l = false then some stRoadUnresolved
  else if layoutOk s x l = false then some stMemLayoutBad
  else none

/-! ### COMMIT (R196, R222, R273, R282, R412) -/

/-- The units of an earlier job leave the hops, their ways between them and their ingress buffers. -/
def emptyHops (s : State) : State :=
  let s := (List.finRange 24).foldl (fun s n =>
    let h := getHop s (.linkIn n)
    (h.verge ++ h.early).foldl (fun s u => leaveIngress s (.linkIn n) u) s) s
  { s with hops := [], flights := [] }

/-- The itinerary is committed: its slot, its logical chip, its schedule and its tiles, and the dependency mask. -/
def commitJob (s : State) (i : Fin 4) (x : Slot) (b : CommitBody) (es : List (Nat × Nat × Word)) : State :=
  let d := digest256 ((List.range x.length).map (fun k => SMap.get 0 x.bytes k))
  let l := ownLogical s
  let s := append s (draft s 0x11 1 (BitVec.ofNat 32 i.val) 0 0)
  let s := appendAll s (digestDrafts s 2 (digestWord d))
  let s := emptyHops (putSlot s i { x with schedule := es, digest2 := d })
  let s := { s with
    sch := { idleSched s with committed := some i, lchip := l, ranks := freshRanks s x.content l, startTime := b.start, schedule := es }
    dig := { s.dig with held := none, delivered := false, peersSeen := [], peers := [] } }
  let s := installJob s
  setReg s 0x000B0008 (depMaskOf s)

/-- The start of a committed job: in the join form the chip waits for the restart boundary (R196, R282). -/
def startJob (s : State) (b : CommitBody) (join : Bool) : State :=
  let s := if join then
      { s with sch := { s.sch with detour := some { join := true, j := b.j.toNat, p := b.p.toNat, g := 0, t0 := b.start } } }
    else s
  sendStart s

/-- The map writes of COMMIT, as HOST writes in ascending n (R412). -/
def mapWrites (src : Source) : List Word → Nat → State → State
  | [], _, s => s
  | w :: r, n, s => mapWrites src r (n + 1) (writeAccess s src (BitVec.ofNat 32 (roadmapAddr n)) w).1

/-- Whether a line lies where the itinerary store holds its slots: not where an open session stages an image (R290, R445). -/
def slotLine (s : State) (a : Nat) : Bool :=
  decide (0x10004000000 ≤ a) && decide (a < 0x10004000000 + gib - (if s.boot.session.isSome then 2 ^ 26 else 0))

/-- What COMMIT reads meets: the lines of its schedule, where it brings one, and those of the slot in the itinerary store, whose place in it
the spec does not give (R299, R301, R359). -/
def commitReads (s : State) (x : Slot) (b : CommitBody) (dm : Damage) : State × Bool :=
  let a := b.schedAddr.toNat
  let n := if b.schedule then 16 * b.schedCount else 0
  let s := chargeHub (chargeAccess s a (ceilDiv n 64)) 13 (ceilDiv x.length 64)
  let m := copyMeets s (fun p => (b.schedule && lineIn a n p) || slotLine s p) dm
  (if m.2 then giveRead m.1 a n else m.1, m.2)

/-- COMMIT once its map is written. One of the writes can fill the journal: the command then answers JOURNAL_FULL, and the map stays written
(R66; log 134, DEDUCED). An image store runs only in READY or RECOVERY (R448), so none is accepted while one runs (log 143, DEDUCED). -/
def commitMapped (b : CommitBody) (join : Bool) (dm : Damage) (s : State) : Reply :=
  match getSlot s b.slot with
  | none => (s, stBadState, [])
  | some x =>
    if stateCode s ≠ 2 ∨ degraded s = true ∨ s.boot.storeBusy = true then (s, stBadState, [])
    else
      match appendRefusal s with
      | some e => (s, e, [])
      | none =>
        let a := b.schedAddr.toNat
        let n := 16 * b.schedCount
        if b.schedule && !copyAllowed s a n then (s, stItinMismatch, [])
        else
          let m := commitReads s x b dm
          let s := m.1
          if m.2 then
            let es := if b.schedule then scheduleEntries (memRead s a n) b.schedCount else []
            match commitRefusal s x es with
            | some e => (s, e, [])
            | none => (startJob (commitJob s b.slot x b es) b join, stOk, [])
          else (s, stDataError, [])

/-- What COMMIT does and answers; `dm` is what the lines that it reads meet. -/
def commitOp (r : Req) (b : CommitBody) (join : Bool) (dm : Damage) (s : State) : Reply :=
  if b.schedule = true ∧ s.ports.version.toNat < 0x11 then (s, stBadVersion, [])
  else
    match appendRefusal s with
    | some e => (s, e, [])
    | none => commitMapped b join dm (mapWrites r.sender b.map 0 s)

/-- The body of one form of COMMIT: a frame of the other form is the other row's command. -/
def isForm (r : Req) (join : Bool) : Bool :=
  match bodyCommit (reqBody r) with
  | some v => v.1 == join
  | none => true

/-- COMMIT (R412). -/
def execCommit (r : Req) (dm : Damage) (s : State) : Host.Outcome State Fault Refusal :=
  .next (if isForm r false then serve s r 0x12 bodyCommit (fun v => commitOp r v.2 false dm) else s)

/-- COMMIT in its join form (R282, R412). -/
def execCommitJoin (r : Req) (dm : Damage) (s : State) : Host.Outcome State Fault Refusal :=
  .next (if isForm r true then serve s r 0x12 bodyCommit (fun v => commitOp r v.2 true dm) else s)

end Sys2Proof.Machine
end

