-- ==== Sys2Proof/Machine/JobOps.lean ====
section
/-! DEFINITION. The operations on a running job (R154, R216, R279, R280, R407, R414): TOLLGATE, ABORT, RETRACE and DETOUR. -/

namespace Sys2Proof.Machine

/-! ### TOLLGATE (R154, R405) -/

/-- TOLLGATE: with an itinerary committed it completes at the first boundary, else at once. -/
def execTollgate (r : Req) (s : State) : Host.Outcome State Fault Refusal :=
  .next (accept s r 0x20 bodyNone (fun _ s =>
    if s.dev ≠ .ready then complete s r 0x20 stBadState []
    else if isCommitted s then { s with sch := { s.sch with tollgates := s.sch.tollgates ++ [r] } }
    else complete s r 0x20 stOk []))

/-! ### ABORT (R47, R52, R216, R407) -/

/-- The itinerary ends by ABORT: its record, from the port that gave the command; the next milestone to begin is the one after the
milestone that ran. A waiting write that resets the device leaves the milestone number of the reset (R52). -/
def abortJob (s : State) (src : Source) (code : Byte) : State :=
  let n := flag s.sch.running
  unlessReset (endWith s 0x13 (srcCode src) (code.setWidth 32)) (fun s =>
    { s with sch := { s.sch with milestone := s.sch.milestone + n } })

/-- ABORT (R407). -/
def execAbort (r : Req) (s : State) : Host.Outcome State Fault Refusal :=
  .next (serve s r 0x13 bodyAbort (fun code s =>
    if runOrHold s = false then (s, stBadState, [])
    else
      match appendRefusal s with
      | some e => (s, e, [])
      | none => (abortJob s r.sender code, stOk, [])))

/-! ### RETRACE (R207, R216) -/

/-- The units of a job milestone leave the verges, the transmitters they wait in, the packing of link hops, and their ways between hops, at
once (log 122, DEDUCED). -/
def purgeUnits (s : State) (j : Nat) : State :=
  let out := fun (u : RoadUnit) => decide (u.ms = msByte j)
  let s := (List.finRange 24).foldl (fun s n =>
    let h := getHop s (.linkIn n)
    ((h.verge ++ h.early).filter out).foldl (fun s u => leaveIngress s (.linkIn n) u) s) s
  { s with
    flights := s.flights.filter (fun f => !out f.u)
    hops := s.hops.map (fun p => (p.1, { p.2 with
      verge := p.2.verge.filter (fun u => !out u), early := p.2.early.filter (fun u => !out u)
      packs := p.2.packs.filter (fun k => decide (k.ms ≠ msByte j)) }))
    links := s.links.map (fun p => (p.1, { p.2 with waiting := p.2.waiting.filter (fun u => !out u) })) }

/-- A send entry that has not departed counts as missed. -/
def missEntry (e : SendEntry) : SendEntry :=
  match e.state with
  | .departed => e
  | _ => { e with state := .missed }

/-- The chip counts as done with the job milestone it runs (R216). -/
def forceDone (s : State) : State :=
  let j := s.sch.jobMs
  let s := purgeUnits s j
  { s with
    tiles := s.tiles.map (fun p => (p.1, { p.2 with sends := p.2.sends.map missEntry }))
    sch := { s.sch with forced := true, dropMs := addTo s.sch.dropMs j } }

/-- The decision RETRACE (R215, R216): the running milestone is abandoned with cause 0x06, and VIOLATION clears in its turn. -/
def retraceJob (s : State) : State :=
  let s := setAbandon (settleDecision { s with sch := { s.sch with decided := s.sch.holds.getLsbD 0 } }) 6
  if s.sch.running && !s.sch.done then forceDone s else s

/-- RETRACE (R216, R406, R407). -/
def execRetraceCommand (r : Req) (s : State) : Host.Outcome State Fault Refusal :=
  .next (serve s r 0x21 bodyNone (fun _ s =>
    if runOrHold s = false then (s, stBadState, [])
    else
      match appendRefusal s with
      | some e => (s, e, [])
      | none => (retraceJob s, stOk, [])))

/-! ### DETOUR (R279, R280, R284, R414) -/

/-- The slot entries of all frames that use a rank of the pair of logical chips a and b. -/
def rankUsed (c : ItinContent) (a b : Nat) (k : Fin 4) : Bool :=
  c.frames.any (fun f => f.slots.any (fun e =>
    match linkHop e.hop with
    | some (o, m) => decide (m = k) && ((decide (e.lchip = a) && decide (o = b)) || (decide (e.lchip = b) && decide (o = a)))
    | none => false))

/-- Whether a substitution is refused. -/
def substRefused (s : State) (x : Slot) : Subst → Bool
  | .chip _ spare => (roadMap s).any (fun p => p.2 == spare)
  | .rank _ spare a b => rankUsed x.content a b spare

/-- Whether R280 refuses a DETOUR. -/
def detourRefused (s : State) (x : Slot) (b : DetourBody) : Bool :=
  (s.sch.running && decide (b.j.toNat ≤ s.sch.jobMs)) ||
  !(match placeOfPos s b.p.toNat with
    | some p => decide (p.first = b.p.toNat) && decide (p.first ≤ oldestFirst s)
    | none => false) ||
  decide (b.g ≠ getReg s 0x000A0040 + 1) || b.substs.any (substRefused s x)

/-- The new road map: a logical chip that was unmapped gains its entry (R276, R279). -/
def newMap (m : List (Nat × Word)) (l : List Subst) : List (Nat × Word) :=
  l.foldl (fun m x =>
    match x with
    | .chip c spare => m.filter (fun p => decide (p.1 ≠ c)) ++ [(c, spare)]
    | .rank _ _ _ _ => m) m

/-- Step 3: the origin of a substituted chip leaves the hold set, and its SEQs are forgotten. -/
def forgetOrigin (s : State) : Subst → State
  | .chip c _ =>
    { s with sch := { s.sch with
        holdSet := s.sch.holdSet.filter (fun h => decide (h.origin ≠ c))
        seqSeen := SMap.set 0 (SMap.set 0 s.sch.seqSeen (2 * c) 0) (2 * c + 1) 0 } }
  | .rank _ _ _ _ => s

/-- Whether a substitution closes link n: its partner is a closed coordinate, or it carries the failed rank. -/
def closesLink (s : State) (n : Nat) : Subst → Bool
  | .chip c _ => let w := mapWord (roadMap s) c; decide (w ≠ allOnes) && (getLink s n).partner == w
  | .rank f _ a b =>
    (decide (a = s.sch.lchip) && (rankLink s b f).map (·.val) == some n) ||
    (decide (b = s.sch.lchip) && (rankLink s a f).map (·.val) == some n)

/-- Steps 4 and 5: DISCARD on every closed link, and a full initialisation of each that is DOWN. -/
def closeLinks (s : State) (l : List Subst) : State :=
  let ns := (List.finRange 24).filter (fun n => l.any (closesLink s n.val))
  let s := ns.foldl (fun s n => selfWrite s (lnkBase n.val) (lnkCtrl s n.val ||| at_ 1 28)) s
  ns.foldl (fun s n => if (getLink s n.val).state = .down then startFull s n else s) s

/-- A DETOUR before its chip has begun, or that takes the place of another which waits for its restart: the STARTs heard were those of COMMIT
or of the other, and the links that have not delivered their copies still owe them (R281; log 110, DEDUCED). -/
def forgetStarts (s : State) : State :=
  if s.sch.detour.isNone && s.sch.running then s
  else
    { s with sch := { s.sch with
        startFrom := s.sch.startAhead
        startAhead := []
        startOwed := s.sch.startOwed ++ (maskEnds s).filter (fun e =>
          !s.sch.startFrom.contains e && !s.sch.startOwed.contains e &&
          (s.sch.detour.isNone || s.sch.startFrom.any (fun m => m.2 == e.2))) } }

/-- What an accepted DETOUR does at once, in the order of R279. -/
def detourJob (s : State) (b : DetourBody) : State :=
  let s := forgetStarts s
  let m := newMap (roadMap s) b.substs
  let s := clearCause (raiseCause s 10) 7
  let s := if s.sch.running then setAbandon s 5 else s
  let s := settleNeighbour (b.substs.foldl forgetOrigin s)
  let s := closeLinks s b.substs
  settleDetour { s with sch := { s.sch with
    detour := some { substs := b.substs, j := b.j.toNat, p := b.p.toNat, g := b.g.toNat, t0 := b.t0, map := m } } }

/-- DETOUR (R279, R280, R414). -/
def execDetour (r : Req) (s : State) : Host.Outcome State Fault Refusal :=
  .next (serve s r 0x22 bodyDetour (fun b s =>
    match committedSlot s with
    | none => (s, stBadState, [])
    | some x =>
      if s.dev ≠ .ready then (s, stBadState, [])
      else
        match appendRefusal s with
        | some e => (s, e, [])
        | none => if detourRefused s x b then (s, stRefused, []) else (detourJob s b, stOk, [])))

end Sys2Proof.Machine
end

