-- ==== Sys2Proof/Machine/LinkFlits.lean ====
section
/-! DEFINITION. Flits on a link (R200, R204, R233 to R249): transmission by priority, the check of a received flit and what it
brings, acknowledgements, replays, and the MGT flits of operations between chips (R416). -/

namespace Sys2Proof.Machine

/-! ### Building a flit (R233 to R235, R238) -/

/-- Whether a link follows the rules of TZL 1.1 (R252). -/
def oldLink (l : Link) : Bool := decide (l.version.toNat < 0x20)

/-- The most unacknowledged flits (R239). -/
def windowMax (l : Link) : Nat := if oldLink l then 4096 else 8192

/-- The credit count that PB_SEL 2 + 2 × class + kind carries (R246). -/
def creditCount (l : Link) (cls kind : Nat) : BitVec 16 := let c := getCredit l cls kind; c.adv + c.freed

/-- PB_SEL and PB_VAL of the next flit (R238): a NAK that is due; else ACK in even flit times and the credit counts in turn
in odd ones, those of MGT not under TZL 1.1. -/
def piggyback (l : Link) : Nat × BitVec 16 :=
  if l.nakDue then (1, l.rxExpect)
  else if l.flitTime % 2 = 0 then (0, l.rxExpect)
  else
    let i := l.flitTime / 2 % (if oldLink l then 4 else 6)
    (2 + i, creditCount l (i / 2) (i % 2))

/-- A flit header (R234). -/
def flitHeader (cls : Nat) (replayed : Bool) (pb : Nat × BitVec 16) (last : Bool) : Word :=
  at_ cls 30 ||| at_ (flag replayed) 29 ||| at_ pb.1 25 ||| at_ pb.2.toNat 9 ||| at_ (flag last) 8

/-- The 256 bytes of a flit with its check under number `q` (R233, R235). -/
def flitBytes (header : Word) (payload : List Byte) (q : BitVec 16) : List Byte :=
  let f := leBytes 4 header.toNat ++ slice payload 0 244
  f ++ leBytes 8 (flitCrc q f).toNat

/-- The lane of each of the 64 units of a flit: unit u goes on the u-th lane of the set, modulo the width (R232). -/
def unitLanes (l : Link) : List Nat :=
  let set := laneList l.lanes
  (List.range 64).map (fun u => (set[u % set.length]?).getD 0)

/-- Sends a flit of link n in this flit time (R232, R359). -/
def putFlit (s : State) (n : LinkId) (cls : Nat) (replayed last : Bool) (payload : List Byte) (q : BitVec 16) : State :=
  let l := getLink s n.val
  let bytes := flitBytes (flitHeader cls replayed (piggyback l) last) payload q
  emit (chargeHub (setLink s n.val { l with nakDue := false, flitTime := l.flitTime + 1 }) 11 1) (.flit n bytes (unitLanes l))

/-- Sends a sequenced flit for the first time: it takes the next number, spends its credits and stays in the replay buffer
(R236, R239, R247). -/
def sendFirst (s : State) (n : LinkId) (cls : FlitClass) (last : Bool) (payload : List Byte) : State :=
  let q := (getLink s n.val).txNext
  let s := putFlit s n (classNo cls) false last payload q
  let l := spendCredit (getLink s n.val) (classNo cls)
  let s := setLink s n.val { l with
    txNext := q + 1, unacked := l.unacked ++ [{ seq := q, cls := cls, last := last, payload := payload }] }
  bumpLink s n.val 0x40 1

/-- A WAY payload with TIME as it leaves (R200, R391). -/
def stampWay (s : State) (p : List Byte) : List Byte := slice p 0 20 ++ leBytes 4 (localTime s).toNat ++ slice p 24 220

/-! ### Transmission (R242, R243) -/

/-- The next flit of the replay in progress. -/
def replayFlit (l : Link) : Option TxFlit :=
  match l.replayAt with
  | some q => l.unacked.find? (fun f => f.seq == q)
  | none => none

/-- Retransmits a flit (R240). -/
def sendAgain (s : State) (n : LinkId) (f : TxFlit) : State :=
  let s := putFlit s n (classNo f.cls) true f.last f.payload f.seq
  let l := getLink s n.val
  let more := l.unacked.any (fun g => g.seq == f.seq + 1)
  let s := setLink s n.val { l with
    unacked := l.unacked.map (fun g => if g.seq = f.seq then { g with replays := g.replays + 1 } else g)
    replayAt := if more then some (f.seq + 1) else none, replaySlots := l.replaySlots + 1 }
  bumpLink s n.val 0x58 1

/-- Whether a flit of a class may leave for the first time: within the window, with unacknowledged and waiting flits together never more
than 8,192 (R206, R239), and within its credit (R247). -/
def mayLeave (l : Link) (cls : Nat) : Bool :=
  decide (l.unacked.length < windowMax l) && decide (l.unacked.length + l.waiting.length < 8192) && creditOk l cls

/-- The end of a run of retransmissions: a flit time passes with none in progress (R218). -/
def endReplay (s : State) (n : Nat) : State :=
  let l := getLink s n
  if l.replaySlots = 0 then s else settleReplay (setLink s n { l with replaySlots := 0, replayOver := false })

/-- Counts a flit time in which the SCH flit whose turn has come waits for credit (R248); those of R208 only while the chip is not
frozen. -/
def countCreditWait (s : State) (n : Nat) : State :=
  let l := getLink s n
  if !l.schQ.isEmpty && !creditOk l 0 then
    bumpLink (setLink s n { l with starved := if frozen s then l.starved else l.starved + 1 }) n 0x90 1
  else setLink s n { l with starved := 0 }

/-- A WAY flit takes a flit time that an SCH flit claims: the hop is a slot later (R242). -/
def delayHop (s : State) (n : LinkId) : State :=
  if (getLink s n.val).schQ.isEmpty then s
  else
    let x := getHop s (.linkTx n)
    setHop s (.linkTx n) { x with lateness := x.lateness + 1 }

/-- An SCH flit leaves: the lateness of its hop is the number of slots by which it trails its own (R205). -/
def leaveSch (s : State) (n : LinkId) (p : SchOut) : State :=
  let now := slotNow s (.linkTx n)
  let s := setHop s (.linkTx n) { getHop s (.linkTx n) with lateness := now - p.slot, since := now + 1 }
  sendFirst s n .sch p.last p.payload

/-- What leaves when no replay is in progress: WAY, SCH, MGT, LINK in this order (R242). -/
def sendNext (s : State) (n : LinkId) : State :=
  let l := getLink s n.val
  match l.wayQ, mayLeave l 1 with
  | p :: r, true => sendFirst (delayHop (setLink s n.val { l with wayQ := r }) n) n .way false (stampWay s p)
  | _, _ =>
    match l.schQ, mayLeave l 0 && !frozen s with
    | p :: r, true => leaveSch (setLink s n.val { l with schQ := r }) n p
    | _, _ =>
      match l.mgtQ, mayLeave l 2 && !oldLink l with
      | p :: r, true => sendFirst (setLink s n.val { l with mgtQ := r }) n .mgt false p
      | _, _ => putFlit s n 3 false false [] l.txNext

/-- FLIT_TRANSMIT (R238 to R243). In FAULT no light leaves a port (R472). -/
def execFlitTransmit (n : LinkId) (s : State) : Host.Outcome State Fault Refusal :=
  .next (
    if linkActive s n.val && s.dev != .fault then
      let s := countCreditWait s n.val
      match replayFlit (getLink s n.val) with
      | some f => sendAgain s n f
      | none => sendNext (endReplay s n.val) n
    else s)

/-! ### Acknowledgements and replays (R239 to R241) -/

/-- O, the oldest unacknowledged number. -/
def oldestSeq (l : Link) : BitVec 16 :=
  match l.unacked with
  | f :: _ => f.seq
  | [] => l.txNext

/-- Whether an ACK or NAK value is valid (R239). -/
def ackValid (l : Link) (v : BitVec 16) : Bool := decide ((v - oldestSeq l).toNat ≤ (l.txNext - oldestSeq l).toNat)

/-- Frees every flit before `v`; a replay goes on with what is left. -/
def ackTo (l : Link) (v : BitVec 16) : Link :=
  let left := l.unacked.drop (v - oldestSeq l).toNat
  let at_ := match l.replayAt with
    | some q => if left.any (fun f => f.seq == q) then some q else (left.head?).map (fun f => f.seq)
    | none => none
  { l with unacked := left, replayAt := at_ }

/-- Replays every unacknowledged flit from `v`; one that has been replayed eight times starts a retrain instead (R240,
R241). -/
def startReplay (s : State) (n : LinkId) (v : BitVec 16) : State :=
  let l := getLink s n.val
  let again := l.unacked.drop (v - oldestSeq l).toNat
  if again.isEmpty then s
  else if again.any (fun f => decide (8 ≤ f.replays)) then startRetrain s n false
  else setLink s n.val { l with replayAt := some v, replayFrom := v }

/-- An ACK value. -/
def takeAck (s : State) (n : LinkId) (v : BitVec 16) : State :=
  let l := getLink s n.val
  if ackValid l v then setLink s n.val (ackTo l v) else startRetrain s n false

/-- A NAK value; one whose replay is under way is ignored (R240). -/
def takeNak (s : State) (n : LinkId) (v : BitVec 16) : State :=
  let l := getLink s n.val
  if !ackValid l v then startRetrain s n false
  else
    let busy := l.replayAt.isSome && l.replayFrom == v
    let s := setLink s n.val (ackTo l v)
    if busy then s else startReplay s n v

/-- A credit count: it replaces the limit unless it is older; the first SCH counts are the partner's advertisement (R247). -/
def takeCredit (s : State) (n sel : Nat) (v : BitVec 16) : State :=
  let cls := (sel - 2) / 2
  let kind := sel % 2
  let l := getLink s n
  let c := getCredit l cls kind
  let l := if cls = 0 ∧ c.heard = false then
      { l with partnerSch := if kind = 0 then putMask l.partnerSch (at_ v.toNat 0) 0xFFFF
                             else putMask l.partnerSch (at_ v.toNat 16) 0xFFFF0000 }
    else l
  let limit := if (v - c.limit).toNat ≤ 32767 then v else c.limit
  setLink s n (setCredit l cls kind { c with limit := limit, heard := true })

/-- The piggybacked value of a flit that passed the check (R234). -/
def takeValue (s : State) (n : LinkId) (sel : Nat) (v : BitVec 16) : State :=
  if sel = 0 then takeAck s n v
  else if sel = 1 then takeNak s n v
  else if sel < 8 then takeCredit s n.val sel v
  else s

/-! ### MGT flits (R416) -/

/-- Adds a fragment of a frame that the chip at `via` forwarded; the whole frame's bytes when it is complete. -/
def addPart (s : State) (n : Nat) (via : Word) (p : List Byte) : State × Option (List Byte) :=
  let count := num p 0 1
  let idx := num p 1 1
  let frame := BitVec.ofNat 16 (num p 2 2)
  let mine := match s.ports.parts.find? (fun e => e.link == n && e.via == via && e.frame == frame) with
    | some e => e.parts
    | none => []
  let mine := (idx, slice p 4 240) :: mine.filter (fun e => decide (e.1 ≠ idx))
  let others := s.ports.parts.filter (fun e => !(e.link == n && e.via == via && e.frame == frame))
  if count ≤ idx then (s, none)
  else if (List.range count).all (fun i => (lookup mine i).isSome) then
    let bytes := (List.range count).flatMap (fun i => (lookup mine i).getD [])
    ({ s with ports := { s.ports with parts := others } }, some (bytes.take (32 + num bytes 6 2)))
  else ({ s with ports := { s.ports with parts := others ++ [{ link := n, via := via, frame := frame, parts := mine }] } }, none)

/-- A completion that comes back for a forwarded operation: it goes to the station that asked (R416). -/
def takeCompletion (s : State) (b : List Byte) : State :=
  let tag := BitVec.ofNat 32 (num b 12 4)
  let station := BitVec.ofNat 16 (num b 24 2)
  let mine := fun (f : BitVec 16 × Req) =>
    reqTag f.2 == tag && s.ports.stations.any (fun p => p.2 == station && f.2.sender == .mgt p.1)
  match s.ports.forwards.find? mine with
  | none => s
  | some f =>
    let s := { s with ports := { s.ports with forwards := s.ports.forwards.filter (fun g => decide (g ≠ f)) } }
    complete (bump s 0x00090108 1) f.2 (reqOp f.2) (num b 16 2) (b.drop 32)

/-- Sends a frame on by link m under this chip's next frame number (R416; log 11). -/
def passOn (s : State) (m : Nat) (b : List Byte) : State :=
  sendFrame { s with ports := { s.ports with nextFrame := s.ports.nextFrame + 1 } } m s.ports.nextFrame b

/-- The operations passed on that may still be answered: no completion is waited for longer than 1 ms (R416). -/
def stillPassed (s : State) : List Passed := s.ports.passed.filter (fun x => decide (s.tme.age ≤ x.at_ + 1000000))

/-- A frame from link n between two other chips, of which the chip at `via` forwarded an operation and the one at `dst` waits for a
completion: an operation goes on toward its target, and its completion back by the link that the operation came by (R272, R416). -/
def passFrame (s : State) (n : Nat) (via dst : Word) (b : List Byte) : State :=
  let tag := BitVec.ofNat 32 (num b 12 4)
  let station := BitVec.ofNat 16 (num b 24 2)
  let l := stillPassed s
  if num b 4 2 % 2 = 1 then
    match l.find? (fun x => x.out == n && sameChip x.via dst && x.tag == tag && x.station == station) with
    | some x => passOn { s with ports := { s.ports with passed := l.erase x } } x.into b
    | none => s
  else
    match routeTo s dst with
    | some m =>
      let l := l.filter (fun x => !(sameChip x.via via && x.tag == tag && x.station == station))
      passOn { s with ports := { s.ports with
        passed := l ++ [{ into := n, out := m, via := via, at_ := s.tme.age, tag := tag, station := station }] } } m b
    | none => s

/-- A whole frame from link n, which the chip at `via` forwarded: one between other chips, a completion for a station of this chip, or an
operation for this chip, which waits for the management engine. -/
def takeFrame (s : State) (n : Nat) (via : Word) (b : List Byte) : State :=
  let dst := BitVec.ofNat 32 (num b 20 4)
  if sameChip dst (coord s) = false ∧ dst ≠ allOnes then passFrame s n via dst b
  else if num b 4 2 % 2 = 1 then takeCompletion s b
  else { s with ports := { s.ports with arrived := s.ports.arrived ++ [{ link := n, via := via, frame := b }] } }

/-- The management engine takes an MGT flit: its credits are freed (R246). -/
def takeMgt (s : State) (n : Nat) (via : Word) (p : List Byte) : State :=
  let s := setLink s n (freeCredit (getLink s n) 2)
  let r := addPart s n via p
  match r.2 with
  | some b => takeFrame r.1 n via b
  | none => r.1

/-! ### Receipt (R237, R249) -/

/-- The unit that an SCH flit carries (R204). -/
def unitOf (last : Bool) (p : List Byte) : RoadUnit :=
  { hops := (p[0]?).getD 0, ms := (p[1]?).getD 0, road := BitVec.ofNat 16 (num p 2 2), last := last, data := slice p 4 240 }

/-- How many flits of a class the ingress buffer holds. -/
def heldFlits (s : State) (n cls : Nat) : Nat :=
  let l := getLink s n
  if cls = 0 then l.inSch.length else if cls = 1 then l.inWay.length else 0

/-- Whether the class queue has room for one more flit (R244, R249). -/
def hasRoom (s : State) (n cls : Nat) : Bool :=
  let l := getLink s n
  let k := heldFlits s n cls + 1
  decide (k ≤ (getCredit l cls 0).adv.toNat) && decide (k * creditCost cls 1 ≤ (getCredit l cls 1).adv.toNat)

/-- Whether the payload of a WAY flit has a KIND of R200 and zero in every byte that R200 leaves zero for it (R199, R244). -/
def wayWellFormed (p : List Byte) : Bool :=
  let k := num p 0 1
  let zero := fun (i n : Nat) => (slice p i n).all (fun b => b == 0)
  decide (1 ≤ k) && decide (k ≤ 5) && (decide (k ≠ 1) || zero 1 1) && zero 26 2 && zero 38 206 &&
  (if k = 3 then true else if k = 4 then zero 36 2 else zero 28 10)

/-- A WAY flit that is malformed is not stored: its credits are free, and from a neighbour in the mask it raises MILESTONE_MISMATCH, with
ROAD and SLOT 0, for which the spec names none (R199, R244, R274; log 88, DESIGN CHOICE). -/
def badWay (s : State) (n : LinkId) : State :=
  let s := setLink s n.val (freeCredit (getLink s n.val) 1)
  if inMask s n.val then hopViolation s (.linkIn n) 0x15 0 0 else bump s 0x000B0010 1

/-- Hands an accepted flit to its class; a WAY flit is kept with the local time at which it passed the check and its REPLAYED bit
(R391). -/
def handOver (s : State) (n : LinkId) (via : Word) (cls : Nat) (h : Word) (p : List Byte) : State :=
  let l := getLink s n.val
  if cls = 0 then setLink s n.val { l with inSch := l.inSch ++ [unitOf (bit h 8) p] }
  else if cls = 1 then
    if wayWellFormed p then
      setLink s n.val { l with inWay := l.inWay ++ [{ bytes := p, stamp := localTime s, replayed := bit h 29 }] }
    else badWay s n
  else takeMgt s n.val via p

/-- A header bit that R234 requires to be zero is set. -/
def badHeader (cls : Nat) (h : Word) : Bool := decide (bits h 7 0 ≠ 0) || (decide (cls ≠ 0) && bit h 8)

/-- A flit that passed the check (R237, R249): a LINK flit gives its value; a sequenced one is accepted unless it is a
protocol error, which starts a retrain. An MGT flit on a link of TZL 1.1, which carries none (R252), is such an error (log 124, DEDUCED). -/
def acceptFlit (s : State) (n : LinkId) (via : Word) (f : List Byte) : State :=
  let h := BitVec.ofNat 32 (num f 0 4)
  let cls := bits h 31 30
  let sel := bits h 28 25
  let v := BitVec.ofNat 16 (bits h 24 9)
  let p := slice f 4 244
  if badHeader cls h then startRetrain s n false
  else if cls = 3 then takeValue s n sel v
  else if !hasRoom s n.val cls || (cls = 2 && oldLink (getLink s n.val)) then startRetrain s n false
  else
    let l := getLink s n.val
    let s := bumpLink (chargeHub (setLink s n.val { l with rxExpect := l.rxExpect + 1, nakState := false }) 11 1) n.val 0x48 1
    takeValue (handOver s n via cls h p) n sel v

/-- FLIT_RECEIVE (R237): the check is made under the expected number; a flit that fails it is discarded, and the first such
flit sends NAK. `via` is the coordinate of the chip that forwarded the frame of an MGT flit, which R417 asks for and no flit spells (log
59). -/
def execFlitReceive (n : LinkId) (via : Word) (f : List Byte) (s : State) : Host.Outcome State Fault Refusal :=
  .next (
    if linkActive s n.val then
      let l := getLink s n.val
      if flitCrc l.rxExpect f = BitVec.ofNat 64 (num f 248 8) then acceptFlit s n via f
      else if l.nakState then s
      else bumpLink (setLink s n.val { l with nakState := true, nakDue := true }) n.val 0x50 1
    else s)

/-- NAK_TIMEOUT (R237). -/
def execNakTimeout (n : LinkId) (s : State) : Host.Outcome State Fault Refusal :=
  .next (
    let l := getLink s n.val
    if linkActive s n.val && l.nakState then bumpLink (setLink s n.val { l with nakDue := true }) n.val 0x60 1 else s)

/-- REPLAY_TIMEOUT (R240). -/
def execReplayTimeout (n : LinkId) (s : State) : Host.Outcome State Fault Refusal :=
  .next (
    let l := getLink s n.val
    if linkActive s n.val && !l.unacked.isEmpty then startReplay (bumpLink s n.val 0x68 1) n (oldestSeq l) else s)

/-- LINK_REPLAY_ALLOWANCE_EXPIRY (R212, R218): the run of retransmissions exceeds SCH_REPLAY_ALLOW slots. -/
def execLinkReplayAllowanceExpiry (n : LinkId) (s : State) : Host.Outcome State Fault Refusal :=
  .next (
    let l := getLink s n.val
    if (getReg s 0x000A0034).toNat < l.replaySlots then raiseCause (setLink s n.val { l with replayOver := true }) 2 else s)

end Sys2Proof.Machine
end

