-- ==== Sys2Proof/Machine/Seals.lean ====
section
/-! DEFINITION. The commands of the journal engine (R57, R61 to R63, R66, R448): TICK, and the ends of a seal and of its flash
store. -/

namespace Sys2Proof.Machine

/-- Whether 2^31 ns of local time have passed since the last record was appended or held (R57). -/
def tickDue (s : State) : Bool := decide (2 ^ 31 ≤ s.sinceRecord)

/-- TICK (R57, R66). -/
def execTick (s : State) : Host.Outcome State Fault Refusal :=
  .next (if s.jrn.kept && tickDue s then append s (draft s 0x40 0 1 0 0) else s)

/-- The LPDDR5X address of the slot of a seal: 512 slots of 32 KiB behind the record region (R51, R60, R290). -/
def sealAddr (number : Nat) : Nat := 0x10000000000 + 64 * jrnCap + 32768 * (number % 512)

/-- A seal completes and its slot is written (R60, R61, R359). The spec does not say what becomes of a seal that is not released when
the region of 512 slots wraps: each is kept until it is released (log 114, DESIGN CHOICE). -/
def finishSeal (s : State) (j : SealJob) : State :=
  let n := num j.header 8 8
  let x : Seal := { number := n, covered := j.covered, header := j.header, signature := s.fresh }
  let jrn := { s.jrn with
    running := none, seals := s.jrn.seals ++ [x], sealed := some j.covered,
    flashWait := if j.flash then s.jrn.flashWait ++ [x] else s.jrn.flashWait }
  let s := chargeT2 (takeFresh { s with jrn := jrn }) (sealAddr n) 29920
  let s := append s (draft s 0x41 0 (BitVec.ofNat 32 n) (BitVec.ofNat 32 j.covered) (BitVec.ofNat 32 (j.covered / 2 ^ 32)))
  endSign s

/-- SEAL_COMPLETE (R61): the running seal completes, its SEAL record is appended, and the signing engine takes up its next
request. -/
def execSealComplete (s : State) : Host.Outcome State Fault Refusal :=
  .next (match s.jrn.running with
    | some j => finishSeal s j
    | none => s)

/-- Whether a seal that is to be stored in flash still runs or waits. -/
def storeAhead (s : State) : Bool :=
  (match s.jrn.running with
   | some j => j.flash
   | none => false) || s.jrn.waits == some true

/-- SEAL_FLASH_STORE_DONE (R62, R63, R448): the store of the oldest completed seal, and its read-back, end. -/
def execSealFlashStoreDone (ok : Bool) (s : State) : Host.Outcome State Fault Refusal :=
  .next (
    match s.jrn.flashWait with
    | x :: r =>
      if s.boot.storeBusy then s
      else
        let good := ok && flashUsable s
        let b := if good then flashPut s.boot (sealBase s) 65536 (x.header ++ signatureOf s x.signature x.header)
          else if flashUsable s then flashTear s.boot (sealBase s) 65536 s.fresh
          else s.boot
        takeFresh { s with
          boot := b
          jrn := { s.jrn with
            flashWait := r, flashBusy := !r.isEmpty || storeAhead s, flashErr := s.jrn.flashErr || !good } }
    | [] => s)

end Sys2Proof.Machine
end

