-- ==== Sys2Proof/Machine/Manage.lean ====
section
/-! DEFINITION. The management operations (R418, R423, R444 to R449): export of the journal, seals and reports, the image session and
its store, the identity key and attestation. -/

namespace Sys2Proof.Machine

/-! ### Export (R301, R418, R423) -/

/-- The LPDDR5X address of a record in the record region (R51, R290). -/
def recordAddr (n : Nat) : Nat := 0x10000000000 + 64 * (n % jrnCap)

/-- What JRN_READ does and answers; `dm` is what the lines of the ring meet (R299, R301). -/
def jrnReadOp (first count : Nat) (dm : Damage) (s : State) : Reply :=
  let run := (s.jrn.records.filter (fun r => decide (first ≤ r.recno))).take count
  match run with
  | [] => (s, stNotFound, [])
  | r :: _ =>
    let good := run.takeWhile (fun x => outcomeAt dm (recordAddr x.recno) != .uncorrectable)
    let body := leBytes 8 r.recno ++ leBytes 2 good.length ++ List.replicate 6 0 ++ good.flatMap recordBytes
    let lines := ((run.take (good.length + 1)).map (fun x => recordAddr x.recno))
    let m := copyMeets (chargeHub s 13 lines.length) lines.contains dm
    (m.1, if m.2 then stOk else stDataError, body)

/-- JRN_READ (R418). -/
def execJrnRead (r : Req) (dm : Damage) (s : State) : Host.Outcome State Fault Refusal :=
  .next (serve s r 0x40 bodyJrnRead (fun v => jrnReadOp v.1 v.2 dm))

/-- Bytes of a statement of 128 bytes and its signature, when they lie within 29,920. -/
def signedBytes (s : State) (text : List Byte) (sig offset n : Nat) : Option (List Byte) :=
  if 29920 < offset + n then none else some (slice (text ++ signatureOf s sig text) offset n)

/-- A read by the management engine of `n` bytes of LPDDR5X from `a`: its power, and what its lines meet (R299, R301, R359). -/
def readT2 (s : State) (a n : Nat) (dm : Damage) : State × Bool :=
  copyMeets (chargeT2 s a n) (lineIn a n) dm

/-- What SEAL_READ does and answers; `dm` is what the lines of the seal's slot meet (R299, R301, R418). -/
def sealReadOp (number offset n : Nat) (dm : Damage) (s : State) : Reply :=
  match (s.jrn.seals.find? (fun x => x.number == number)).bind (fun x => signedBytes s x.header x.signature offset n) with
  | some l =>
    let m := readT2 s (sealAddr number + offset) n dm
    if m.2 then (m.1, stOk, l) else (m.1, stDataError, [])
  | none => (s, stNotFound, [])

/-- SEAL_READ (R418). -/
def execSealRead (r : Req) (dm : Damage) (s : State) : Host.Outcome State Fault Refusal :=
  .next (serve s r 0x41 bodySealRead (fun v => sealReadOp v.1 v.2.1 v.2.2 dm))

/-- REPORT_READ (R423). -/
def execReportRead (r : Req) (s : State) : Host.Outcome State Fault Refusal :=
  .next (serve s r 0x42 bodyReportRead (fun v s =>
    match (s.ports.reports.filter (fun p => decide (v.1 ≤ p.1))).take v.2 with
    | [] => (s, stNotFound, [])
    | l => (s, stOk, l.flatMap (·.2))))

/-! ### The image session (R444 to R448) -/

/-- Whether image operations are answered in the present state. -/
def stagingState (s : State) : Bool := [1, 2, 3, 4].contains (stateCode s) && !s.boot.storeBusy

/-- TOTAL of the session that a source holds. -/
def sessionOf (s : State) (src : Source) : Option Nat :=
  match s.boot.session with
  | some (o, n) => if o = addressOf src then some n else none
  | none => none

/-- Whether another source holds the session. -/
def sessionElse (s : State) (src : Source) : Bool := s.boot.session.isSome && (sessionOf s src).isNone

/-- IMG_BEGIN (R445). -/
def execImgBegin (r : Req) (s : State) : Host.Outcome State Fault Refusal :=
  .next (serve s r 0x50 bodyImgBegin (fun total s =>
    if stagingState s = false ∨ sessionElse s r.sender = true then (s, stBadState, [])
    else if min (imageSlot s) (2 ^ 26) < total then (s, stRefused, [])
    else ({ s with boot := { s.boot with session := some (addressOf r.sender, total), stage := [], verified := false } }, stOk, [])))

/-- Writes bytes of the staged image. -/
def stageBytes (m : List (Nat × Byte)) (a : Nat) (l : List Byte) : List (Nat × Byte) :=
  ((List.range l.length).zip l).foldl (fun m p => SMap.set 0xFF m (a + p.1) p.2) m

/-- The LPDDR5X address of the staged image: the last 64 MiB of the itinerary store (R290, R445). -/
def stageAddr : Nat := 0x10004000000 + gib - 2 ^ 26

/-- IMG_DATA (R359, R445). -/
def execImgData (r : Req) (s : State) : Host.Outcome State Fault Refusal :=
  .next (serve s r 0x51 bodyImgData (fun v s =>
    if stagingState s = false then (s, stBadState, [])
    else
      match sessionOf s r.sender with
      | none => (s, stBadState, [])
      | some total =>
        if total < v.1 + v.2.length then (s, stRefused, [])
        else
          let s := chargeT2 s (stageAddr + v.1) v.2.length
          ({ s with boot := { s.boot with stage := stageBytes s.boot.stage v.1 v.2, verified := false } }, stOk, [])))

/-- IMG_VERIFY (R445): the checks of step 5 on the staged bytes; `dm` is what their lines meet, and one that cannot be corrected leaves
nothing to check (R301). -/
def execImgVerify (r : Req) (dm : Damage) (s : State) : Host.Outcome State Fault Refusal :=
  .next (serve s r 0x52 bodyNone (fun _ s =>
    if stagingState s = false then (s, stBadState, [])
    else
      match sessionOf s r.sender with
      | none => (s, stBadState, [])
      | some total =>
        let m := readT2 s stageAddr total dm
        let s := m.1
        if m.2 = false then (s, stDataError, [])
        else
        let c := stepFiveCause s (stageByte s)
        let d := digest256 (imgBytes (stageByte s) 0 (min (imgLength (stageByte s)) total))
        ({ s with boot := { s.boot with verified := decide (c = 0) } }, stOk,
          [c] ++ List.replicate 7 0 ++ leBytes 32 d.toNat)))

/-- IMG_STORE (R445, R446, R448): BUSY sets, and the store begins with the erasure of the first sector. Without VERIFIED it is refused,
whoever holds the session. -/
def execImgStore (r : Req) (s : State) : Host.Outcome State Fault Refusal :=
  .next (serve s r 0x53 bodyNone (fun _ s =>
    if !([1, 2].contains (stateCode s)) || s.boot.storeBusy || s.jrn.flashBusy then (s, stBadState, [])
    else if s.boot.verified = false ∨ s.boot.session.isNone = true then (s, stRefused, [])
    else if sessionElse s r.sender then (s, stBadState, [])
    else ({ s with boot := { s.boot with storeBusy := true, storeSectors := 0, storePages := 0, cut := false } }, stOk, [])))

/-- IMG_STORE_DONE (R446): what is left of the store is done, its read-back ends, and BUSY clears and the session closes. `dm` is what the
lines of the staged bytes meet, and one that cannot be corrected is a difference (R301). Where the read-back differed, what the covered
sectors hold is undefined (log 31). -/
def execImgStoreDone (same : Bool) (dm : Damage) (s : State) : Host.Outcome State Fault Refusal :=
  .next (
    match s.boot.storeBusy, s.boot.session with
    | true, some (_, total) =>
      let m := readT2 s stageAddr total dm
      let s := m.1
      let same := same && m.2
      let b := if same then flashPut s.boot 0 (sectors total) ((List.range total).map (stageByte s))
        else flashTear s.boot 0 (sectors total) s.fresh
      { takeFresh s with boot := { b with
          storeBusy := false, storeErr := b.storeErr || !same, session := none, stage := [], verified := false,
          storeSectors := ceilDiv total 65536, storePages := pages total } }
    | _, _ => s)

/-- FLASH_READ (R444): bytes beyond the flash are not found (log 38). -/
def execFlashRead (r : Req) (s : State) : Host.Outcome State Fault Refusal :=
  .next (serve s r 0x54 bodySpan (fun v s =>
    if s.dev = .boot then (s, stBadState, [])
    else if flashSize s < v.1 + v.2 then (s, stNotFound, [])
    else (s, stOk, flashBytes s v.1 v.2)))

/-! ### Identity and attestation (R444, R448, R449) -/

/-- ID_KEY (R444). -/
def execIdKey (r : Req) (s : State) : Host.Outcome State Fault Refusal :=
  .next (serve s r 0x55 bodyNone (fun _ s =>
    if s.dev = .boot then (s, stBadState, []) else (s, stOk, leBytes 64 s.boot.pk.toNat)))

/-- Starts an attestation, or queues it behind the seal that the signing engine serves. -/
def startAttest (s : State) (n : BitVec 256) : State :=
  let free := s.boot.signQ.isEmpty
  let b := { s.boot with attestBusy := true, attestReady := false, signQ := s.boot.signQ ++ [.attest n] }
  { s with boot := if free then { b with attestText := attestText s n } else b }

/-- ATTEST (R448, R449). -/
def execAttest (r : Req) (s : State) : Host.Outcome State Fault Refusal :=
  .next (serve s r 0x56 bodyAttest (fun nonce s =>
    if s.dev = .boot ∨ s.boot.attestBusy = true then (s, stBadState, []) else (startAttest s nonce, stOk, [])))

/-- ATTEST_DONE (R448, R449): the signature is done, and the signing engine takes up its next request. -/
def execAttestDone (s : State) : Host.Outcome State Fault Refusal :=
  .next (match s.boot.signQ with
    | .attest _ :: _ =>
      let b := { s.boot with attestBusy := false, attestReady := true, attestSig := s.fresh }
      endSign (takeFresh { s with boot := b })
    | _ => s)

/-- ATTEST_READ (R449): bytes beyond 29,920 are not found (log 38). -/
def execAttestRead (r : Req) (s : State) : Host.Outcome State Fault Refusal :=
  .next (serve s r 0x57 bodySpan (fun v s =>
    if s.dev = .boot then (s, stBadState, [])
    else if s.boot.attestReady = false then (s, stNotFound, [])
    else
      match signedBytes s s.boot.attestText s.boot.attestSig v.1 v.2 with
      | some l => (s, stOk, l)
      | none => (s, stNotFound, [])))

end Sys2Proof.Machine
end

