-- ==== Sys2Proof/Machine/Matrix.lean ====
section
/-! DEFINITION. The issue of the matrix, rounding, reduction and check instructions (R165 to R188). -/

namespace Sys2Proof.Machine

/-- The effective address of TLD, XLD and XST (R169, R171). -/
def engAddr (s : State) (t : TileRef) (g a : Nat) (imm : BitVec 32) : Nat := baseAddr (getGroup (getTile s t) g) a 0 imm

/-- TLD (R169): queued on the operand path. -/
def execTld (t : TileRef) (g : GroupId) (f : TldFields) (s : State) : Host.Outcome State Fault Refusal :=
  decoded (decide (f.fmt.toNat ≤ 0xC))
    (issueEngine s t g.val .operand [f.a.toNat] [] (.tld f (engAddr s t g.val f.a.toNat f.imm)))

/-- XCLR (R170): queued on the operand path. -/
def execXclr (t : TileRef) (g : GroupId) (x : BitVec 2) (kind : Bool) (s : State) : Host.Outcome State Fault Refusal :=
  .next (issueEngine s t g.val .operand [] [] (.xclr x.toNat kind))

/-- XLD (R171): queued on the operand path. -/
def execXld (t : TileRef) (g : GroupId) (f : XmFields) (s : State) : Host.Outcome State Fault Refusal :=
  .next (issueEngine s t g.val .operand [f.a.toNat] [] (.xld f.x.toNat (engAddr s t g.val f.a.toNat f.imm)))

/-- XST (R171): queued on the operand path. -/
def execXst (t : TileRef) (g : GroupId) (f : XmFields) (s : State) : Host.Outcome State Fault Refusal :=
  .next (issueEngine s t g.val .operand [f.a.toNat] [] (.xst f.x.toNat (engAddr s t g.val f.a.toNat f.imm)))

/-- MMA (R172, R173): queued on the matrix array. -/
def execMma (t : TileRef) (g : GroupId) (f : PairFields) (kind : Bool) (s : State) : Host.Outcome State Fault Refusal :=
  decoded (WellFormed.mma f kind) (issueEngine s t g.val .array [] [] (.mma f kind))

/-- RND.EXS (R174, R175): queued on the operand path, with its address, origin and seed taken at issue. -/
def execRndExs (t : TileRef) (g : GroupId) (f : RndFields) (s : State) : Host.Outcome State Fault Refusal :=
  let y := getGroup (getTile s t) g.val
  decoded (f.mode != 3 && decide (f.fmt.toNat ≤ 0xE))
    (issueEngine s t g.val .operand [f.a.toNat, f.c.toNat] []
      (.rnd f (sReg y f.a.toNat 0).toNat (sReg y f.c.toNat 0) (SMap.get 0 s.seeds y.seedSlot.toNat)))

/-- XRED PACK (R182, R183): R156's checks on its entry, then queued on the XRED engine with the entry held for it. -/
def execXredPack (t : TileRef) (g : GroupId) (f : XredFields) (s : State) : Host.Outcome State Fault Refusal :=
  decoded (WellFormed.xred f)
    (let x := getTile s t
     if canIssue s t g.val .transfer && decide ((queueOf x .xred).length < queueCap .xred) then
       match usableSend s t g.val f.idx.toNat with
       | none => sendViolation (countIssue s t g.val .transfer) t 0x10 f.idx.toNat (sendRoad x f.idx.toNat)
       | some _ =>
         let s' := issueEngine s t g.val .xred [] [] (.pack f)
         let x' := getTile s' t
         if x'.nextOp = x.nextOp then s'
         else
           let s' := setTile s' t (setSend x' f.idx.toNat (.encoding x.nextOp))
           if isSampled s' t then putGroup s' t g.val (addOutput (getGroup (getTile s' t) g.val) (.block x.nextOp)) else s'
     else s)

/-- XRED ADD (R185): queued on the XRED engine. -/
def execXredAdd (t : TileRef) (g : GroupId) (f : XredFields) (s : State) : Host.Outcome State Fault Refusal :=
  decoded (WellFormed.xred f) (issueEngine s t g.val .xred [] [] (.add f))

/-- XRED FSUM (R186): canon_sum over the threads' s[A][31:0], into s[D] of every thread. -/
def execXredFsum (t : TileRef) (g : GroupId) (d a : BitVec 6) (s : State) : Host.Outcome State Fault Refusal :=
  .next (issueGroup s t g.val .transfer [d.toNat, a.toNat] [] (fun y =>
    let r := canonSum ((List.range 32).map (fun k => (sReg y a.toNat k).setWidth 32))
    writeThreads y d.toNat (List.range 32) (fun _ => r.setWidth 64)))

/-- XRED FCOMB (R186): queued on the XRED engine with v[A] as it stands at issue; v[D] waits for it (R134). -/
def execXredFcomb (t : TileRef) (g : GroupId) (f : FcombFields) (s : State) : Host.Outcome State Fault Refusal :=
  decoded (vregsOk s t [f.d.toNat, f.a.toNat])
    (let x := getTile s t
     let y := getGroup x g.val
     let s' := issueEngine s t g.val .xred [] [f.d.toNat, f.a.toNat]
       (.fcomb f ((List.range 64).map (vReg y f.a.toNat)))
     let x' := getTile s' t
     if x'.nextOp = x.nextOp then s'
     else
       let y' := getGroup x' g.val
       putGroup s' t g.val { y' with pendV := addTo y'.pendV f.d.toNat })

/-- CHK.ROW (R187): queued on the operand path. -/
def execChkRow (t : TileRef) (g : GroupId) (f : PairFields) (s : State) : Host.Outcome State Fault Refusal :=
  decoded (WellFormed.chkPair f) (issueEngine s t g.val .operand [] [] (.chkRow f))

/-- CHK.COL (R187): queued on the operand path. -/
def execChkCol (t : TileRef) (g : GroupId) (f : PairFields) (s : State) : Host.Outcome State Fault Refusal :=
  decoded (WellFormed.chkPair f) (issueEngine s t g.val .operand [] [] (.chkCol f))

/-- CHK.CMP (R188): queued on the operand path. -/
def execChkCmp (t : TileRef) (g : GroupId) (x : BitVec 2) (rows cols : Bool) (s : State) :
    Host.Outcome State Fault Refusal :=
  decoded (rows || cols) (issueEngine s t g.val .operand [] [] (.chkCmp x.toNat rows cols))

end Sys2Proof.Machine
end

