-- ==== Sys2Proof/Machine/Power.lean ====
section
/-! DEFINITION. The commands of the power and thermal controller (R360 to R371). It runs from the moment the image's power
model is applied (log 36). -/

namespace Sys2Proof.Machine

/-- Whether the controller runs: READY, with no reset asserted. -/
def controls (s : State) : Bool := s.porstN && s.wrstN && decide (s.dev = .ready)

/-! ### The tick (R362, R363, R365, R366) -/

/-- The fJ by which a die's own events in the tick that ends fall too far (R363), in whole fJ (log 36). -/
def shortfall (s : State) (q : Nat) : Nat :=
  let x := getDie s q
  ((activityCeil s q x.act64 - 1) * efull s - 64 * x.tickFj) / 64

/-- The whole ballast cycles, each worth W_10, that the difference holds, so that the activity decays by at most 1/64 a tick and does decay;
while W_10 is 0 there is none (R363; log 36). -/
def ballastCycles (s : State) (q : Nat) : Nat := if weight s 10 = 0 then 0 else shortfall s q / weight s 10

/-- The ballast of a tick counts under class 10: in the districts of the die, as evenly as they share it, or while the die's clock is
stopped in the cells outside them, which count for the die alone (R359, R363, R364; log 36). -/
def ballast (s : State) (q : Nat) : State :=
  let k := ballastCycles s q
  if 0 < SMap.get 0 s.clk.stop q then chargeDie s q (k * weight s 10)
  else
  (List.range 36).foldl (fun s i => charge s (36 * q + i) 10 (k / 36 + (if i < k % 36 then 1 else 0))) s

/-- The reasons that bind in the tick that ends (R366). -/
def bindsIn (x : DiePower) (removed : Bool) : BitVec 6 :=
  (List.range 6).foldl (fun (w : BitVec 6) r =>
    if removed && decide (target x r = x.budget) then w ||| ((1 : BitVec 6) <<< r) else w) 0

/-- The budget of the next tick (R363). -/
def nextBudget (x : DiePower) (rise : Nat) : Nat := max (max (min (min (lowestTarget x) rise) (x.budget + 1)) (x.budget - 1)) 8

/-- One die at the end of a tick: its count with the ballast, which counts under class 10 (R359, R363), and the budget of the next. -/
def endTick (s : State) (q : Nat) : State :=
  let s := ballast s q
  let x := getDie s q
  let c := 64 * x.tickFj
  let b := bindsIn x x.removed
  let s := setDie s q { x with
    act64 := c, recent := lastOf 40 (x.recent ++ [c]), binds := b, tickFj := 0, removed := false,
    floorMs := x.floorMs && decide (x.budget ≤ 16) && !b.getLsbD 4 }
  let rise := activityCeil s q c + 1
  let s := setTarget s q 4 rise
  let s := setTarget s q 5 (if s.throtN then 64 else bits (getReg s 0x00040014) 6 0)
  let x := getDie s q
  setDie s q { x with budget := nextBudget x rise }

/-- The reasons that bind on some die. -/
def anyBinds (s : State) : BitVec 6 := (List.range 4).foldl (fun (w : BitVec 6) q => w ||| (getDie s q).binds) 0

/-- POWER_TICK (R362, R363, R365, R366): 125 ns end; each reason that bound counts 125. -/
def execPowerTick (s : State) : Host.Outcome State Fault Refusal :=
  .next (
    if controls s then
      let s := (List.range 4).foldl (fun s q => endTick s q) s
      let b := anyBinds s
      let s := (List.range 6).foldl (fun s r => if b.getLsbD r then bump s (0x00040100 + 8 * r) 125 else s) s
      takeFresh (setReg s 0x00040000 (at_ b.toNat 0))
    else s)

/-! ### The sample (R360, R365, R369) -/

/-- The sensors of a district (R377). -/
def senseDistrict (s : State) (d c : Nat) : State :=
  let a := dstBase d + 0xF200
  let x := getDist s d
  let s := setReg s a (putMask (getReg s a) (at_ (min 255 c) 16) 0x00FF0000)
  setDist s d { x with tempNow := max x.tempNow c }

/-- The temperature of a district's last sample. -/
def tempOf (s : State) (d : Nat) : Nat := bits (getReg s (dstBase d + 0xF200)) 23 16

/-- The hottest district of a die, the lowest-numbered of several. -/
def hottest (s : State) (q : Nat) : Nat :=
  (List.range 36).foldl (fun m i => if tempOf s m < tempOf s (36 * q + i) then 36 * q + i else m) (36 * q)

/-- The current of a die rail over the last five samples, A (R360). -/
def railAmps (x : DiePower) : Nat :=
  if x.pdyn.length * x.mv = 0 then 0
  else 1000 * (total x.pdyn + total x.pleak) / (x.pdyn.length * watt * x.mv)

/-- The part of the rail limit that leakage leaves, over the samples of the current (R365). -/
def railPart (s : State) (x : DiePower) : Nat :=
  x.pdyn.length * (bits (getReg s 0x0004000C) 9 0 * x.mv * (watt / 1000)) - total x.pleak

/-- One die at a sample. -/
def sampleDie (s : State) (r : PowerReading) (q : Nat) : State :=
  let mv := (r.mv[q]?).getD 0
  let x := getDie s q
  let fj := total ((dieDistricts q).map (SMap.get 0 s.pwr.districtFj)) + x.sampleFj
  let s := setDie s q { x with mv := mv }
  let x := { x with
    mv := mv, sampleFj := 0, fresh := if 0 < SMap.get 0 s.clk.stop q then x.fresh else min 3 (x.fresh + 1)
    pdyn := lastOf 5 (x.pdyn ++ [dynamicPower fj mv])
    pleak := lastOf 5 (x.pleak ++ [dieLeak s q]) }
  let s := setDie s q x
  let h := hottest s q
  let s := setReg s (0x00040024 + 0x10 * q) (at_ (min 65535 mv) 16 ||| at_ (min 65535 (railAmps x)) 0)
  let s := setReg s (0x00040028 + 0x10 * q) (at_ h 16 ||| at_ (tempOf s h) 0)
  setTarget s q 1 (shareTarget (meanActivity s q 40) (railPart s x) (total x.pdyn))

/-- The districts at or above the trip temperature. -/
def hotNow (s : State) : List Nat :=
  (List.range 144).filter (fun d => decide (bits (getReg s 0x00040010) 15 8 ≤ tempOf s d))

/-- Whether the heating pattern of a position under test is over: its own sensor reads TUP above its district's, or the package limit of
105 °C, or some district is at that limit (R333, R474). -/
def heatedUp (s : State) (d : Nat) : Bool :=
  let own := Config.ownSensor s.fresh d
  decide (min (tempOf s d + min 15 (bits (getReg s 0x00060004) 7 0)) 105 ≤ own) ||
  (List.range 144).any (fun e => decide (105 ≤ tempOf s e))

/-- The heating patterns that are over end (R333). -/
def endHeating (s : State) : State :=
  (List.range 144).foldl (fun t d =>
    if (getDist s d).heating && heatedUp s d then setDist t d { getDist t d with heating := false } else t) s

/-- POWER_SAMPLE (R333, R360, R365, R369, R377): 1 µs; a district at the trip temperature in two consecutive samples is a FAULT. -/
def execPowerSample (r : PowerReading) (s : State) : Host.Outcome State Fault Refusal :=
  .next (
    if controls s then
      let s := (List.range 144).foldl (fun s d => senseDistrict s d ((r.districtC[d]?).getD 0)) s
      let s := (List.range 4).foldl (fun s q => sampleDie s r q) s
      let before := s.pwr.hot
      let now := hotNow s
      let s := { s with pwr := { s.pwr with
        hub := lastOf 2 (s.pwr.hub ++ [s.pwr.hubFj]), samples := lastOf 2 (s.pwr.samples ++ [(s.pwr.districtFj, r.mv)])
        hubFj := 0, districtFj := [], readout := r.stackC, hot := now } }
      let s := takeFresh (endHeating s)
      if now.any (fun d => before.contains d) then enterFault s 1 else s
    else s)

/-! ### The estimate (R360, R365) -/

/-- The temperature that TEMP takes for a die: a stack at 95 °C or more counts as a sensor at TLIM (R365). -/
def dieTemp (s : State) (q : Nat) : Nat :=
  let t := tempOf s (hottest s q)
  if ((s.pwr.readout.drop (3 * q)).take 3).any (fun c => decide (95 ≤ c)) then max t (bits (getReg s 0x00040010) 7 0) else t

/-- TEMP of a die (R365). -/
def settleTemp (s : State) (q : Nat) : State :=
  let l := bits (getReg s 0x00040010) 7 0
  let t := target (getDie s q) 2
  let c := dieTemp s q
  if l ≤ c then setTarget s q 2 (t - 1) else if c + 2 < l then setTarget s q 2 (t + 1) else s

/-- PCAP of a die (R365); after a change of its divider that fell while PCAP bound, only from two samples that begin after the restart of
its clock (R372). -/
def settlePcap (s : State) (q : Nat) : State :=
  if (getDie s q).fresh < 3 then s
  else
    let limit := 2 * watt * bits (getReg s 0x00040008) 11 0
    let f := twiceFixed s
    setTarget s q 0 (shareTarget (meanActivity s q 16) (limit - f) (twicePackage s - f))

/-- A district's share of the last estimate, in units of 10 mW (R377): each sample's count at that sample's voltage. -/
def settleShare (s : State) (d : Nat) : State :=
  let dyn := total (s.pwr.samples.map (fun p => dynamicPower (SMap.get 0 p.1 d) ((p.2[quadOf d]?).getD 0)))
  let v := (dyn + 2 * districtLeak s d) * 100 / (2 * watt)
  let a := dstBase d + 0xF200
  setReg s a (putMask (getReg s a) (at_ (min 65535 v) 0) 0xFFFF)

/-- POWER_ESTIMATE (R360, R365, R376, R377): 2 µs; the package estimate, its mean over 1 ms, its energy, and the targets that
rest on it. -/
def execPowerEstimate (s : State) : Host.Outcome State Fault Refusal :=
  .next (
    if controls s then
      let p := twicePackage s
      let l := lastOf 500 (s.pwr.estimates ++ [p])
      let e := s.pwr.uj + p
      let uj := 562500 * 1000000000
      let s := { s with pwr := { s.pwr with estimates := l, uj := e % uj } }
      let s := bump s 0x00040130 (e / uj)
      let s := setReg s 0x00040018
        (at_ (min 65535 (total l / (l.length * (2 * watt)))) 16 ||| at_ (min 65535 (p / (2 * watt))) 0)
      let s := (List.range 4).foldl (fun s q => settleTemp (settlePcap s q) q) s
      takeFresh ((List.range 144).foldl settleShare s)
    else s)

/-- BRD_THROT_N_EDGE (R365, R370): the filtered level of the pin; the EXT target follows at the next tick. -/
def execBrdThrotEdge (level : Bool) (s : State) : Host.Outcome State Fault Refusal := .next { s with throtN := level }

end Sys2Proof.Machine
end

