-- ==== Sys2Proof/Machine/RegCommands.lean ====
section
/-! DEFINITION. The register-write commands: one write access each, to the register the row names. -/

namespace Sys2Proof.Machine

/-- A write access whose status is answered on its own path. -/
def writeCommand (s : State) (src : Source) (a : Nat) (d : Word) : Host.Outcome State Fault Refusal :=
  .next (writeAccess s src (BitVec.ofNat 32 a) d).1

/-- REGISTER_WRITE (R43). -/
def execRegisterWrite (src : Source) (addr data : Word) (s : State) : Host.Outcome State Fault Refusal :=
  .next (writeAccess s src addr data).1
/-- GEN_SCRATCH (R33). -/
def execGenScratch (src : Source) (data : Word) (s : State) : Host.Outcome State Fault Refusal :=
  writeCommand s src 0x00000024 data
/-- JRN_CTRL.SEAL (R61). -/
def execJrnCtrlSeal (src : Source) (data : Word) (s : State) : Host.Outcome State Fault Refusal :=
  writeCommand s src 0x00020000 data
/-- JRN_CTRL.SEAL_FLASH (R62). -/
def execJrnCtrlSealFlash (src : Source) (data : Word) (s : State) : Host.Outcome State Fault Refusal :=
  writeCommand s src 0x00020000 data
/-- JRN_RETAIN_HI (R64). -/
def execJrnRetainHi (src : Source) (data : Word) (s : State) : Host.Outcome State Fault Refusal :=
  writeCommand s src 0x0002001C data
/-- TME_ADJ (R385). -/
def execTmeAdj (src : Source) (data : Word) (s : State) : Host.Outcome State Fault Refusal :=
  writeCommand s src 0x00050018 data
/-- TME_CTRL.UNSET (R384). -/
def execTmeCtrlUnset (src : Source) (data : Word) (s : State) : Host.Outcome State Fault Refusal :=
  writeCommand s src 0x00050000 data
/-- TME_OUTk_CFG.EN (R393). -/
def execTmeOutEn (src : Source) (k : Fin 4) (data : Word) (s : State) : Host.Outcome State Fault Refusal :=
  writeCommand s src (outBase k.val) data
/-- TOP_COORD (R269). -/
def execTopCoord (src : Source) (data : Word) (s : State) : Host.Outcome State Fault Refusal :=
  writeCommand s src 0x000B0000 data
/-- TOP_SHAPE (R269). -/
def execTopShape (src : Source) (data : Word) (s : State) : Host.Outcome State Fault Refusal :=
  writeCommand s src 0x000B0004 data
/-- LNKnn_CTRL.RETRAIN (R257). -/
def execLnkCtrlRetrain (src : Source) (n : LinkId) (data : Word) (s : State) : Host.Outcome State Fault Refusal :=
  writeCommand s src (lnkBase n.val) data
/-- LNKnn_CTRL.TEST (R262). -/
def execLnkCtrlTest (src : Source) (n : LinkId) (data : Word) (s : State) : Host.Outcome State Fault Refusal :=
  writeCommand s src (lnkBase n.val) data
/-- LNKnn_CTRL.ENABLE (R260). -/
def execLnkCtrlEnable (src : Source) (n : LinkId) (data : Word) (s : State) : Host.Outcome State Fault Refusal :=
  writeCommand s src (lnkBase n.val) data
/-- LNKnn_CTRL.DISCARD (R260). -/
def execLnkCtrlDiscard (src : Source) (n : LinkId) (data : Word) (s : State) : Host.Outcome State Fault Refusal :=
  writeCommand s src (lnkBase n.val) data
/-- CLK_QDq_FREQ.DIV (R350). -/
def execClkQdFreqDiv (src : Source) (q : Fin 4) (data : Word) (s : State) : Host.Outcome State Fault Refusal :=
  writeCommand s src (clkBase q.val) data
/-- CLK_SSC.EN (R352). -/
def execClkSscEn (src : Source) (data : Word) (s : State) : Host.Outcome State Fault Refusal :=
  writeCommand s src 0x00030004 data
/-- HOST_CTRL.UNBIND (R403). -/
def execHostCtrlUnbind (src : Source) (data : Word) (s : State) : Host.Outcome State Fault Refusal :=
  writeCommand s src 0x00080004 data
/-- MGT_CTRL.FEC (R396). -/
def execMgtCtrlFec (src : Source) (data : Word) (s : State) : Host.Outcome State Fault Refusal :=
  writeCommand s src 0x00090004 data
/-- BOOT_CTRL.REBOOT (R448, R451). -/
def execBootCtrlReboot (src : Source) (data : Word) (s : State) : Host.Outcome State Fault Refusal :=
  writeCommand s src 0x00010004 data

end Sys2Proof.Machine
end

