-- ==== Sys2Proof/Machine/Scalar.lean ====
section
/-! DEFINITION. Scalar arithmetic, compare and predicate instructions (R137 to R139). -/

namespace Sys2Proof.Machine

/-- f(FN, a, b) of the two-operand functions of SALU (R137). -/
def saluFn (fn : Nat) (a b : DWord) : DWord :=
  let sh := b.toNat % 64
  if fn = 0x00 then a + b
  else if fn = 0x01 then a - b
  else if fn = 0x02 then a * b
  else if fn = 0x03 then BitVec.ofInt 64 (a.toInt * b.toInt / 2 ^ 64)
  else if fn = 0x04 then BitVec.ofNat 64 (a.toNat * b.toNat / 2 ^ 64)
  else if fn = 0x08 then a &&& b
  else if fn = 0x09 then a ||| b
  else if fn = 0x0A then a ^^^ b
  else if fn = 0x0C then a <<< sh
  else if fn = 0x0D then a >>> sh
  else if fn = 0x0E then a.sshiftRight sh
  else if fn = 0x10 then (if b.slt a then b else a)
  else if fn = 0x11 then (if a.slt b then b else a)
  else if fn = 0x12 then (if b.ult a then b else a)
  else (if a.ult b then b else a)

/-- The value SALU writes into thread k (R137): the two-operand functions, MOVHI, TID, TILE and CHIP. -/
def saluVal (s : State) (t : TileRef) (g : Nat) (f : SFields) (y : Group) (k : Nat) : DWord :=
  let fn := f.fn.toNat
  if fn = 0x18 then f.imm ++ (sReg y f.d.toNat k).setWidth 32
  else if fn = 0x1C then BitVec.ofNat 64 (32 * g + k)
  else if fn = 0x1D then BitVec.ofNat 64 (8 * t.d.val + t.l.val)
  else if fn = 0x1E then BitVec.ofNat 64 s.sch.lchip
  else saluFn fn (sReg y f.a.toNat k) (operandS y f k)

/-- The scalar registers format S names. -/
def sRegs (f : SFields) : List Nat := [f.d.toNat, f.a.toNat] ++ (if f.i then [] else [f.imm.toNat % 64])

/-- SALU (R137): every guarded thread's s[D] takes f(FN, a, b). -/
def execSalu (t : TileRef) (g : GroupId) (gd : Guard) (f : SFields) (s : State) : Host.Outcome State Fault Refusal :=
  decoded (WellFormed.salu f)
    (issueGroup s t g.val .scalar (sRegs f) [] (fun y =>
      writeThreads y f.d.toNat (actThreads (guardOf y gd)) (saluVal s t g.val f y)))

/-- SCMP (R138): sets bit k of p[D] for every guarded thread. -/
def execScmp (t : TileRef) (g : GroupId) (gd : Guard) (f : SFields) (s : State) : Host.Outcome State Fault Refusal :=
  decoded (WellFormed.scmp f)
    (issueGroup s t g.val .scalar ((sRegs f).drop 1) [] (fun y =>
      writePred y f.d.toNat (actThreads (guardOf y gd)) (fun k =>
        scmpCond f.fn.toNat (sReg y f.a.toNat k) (operandS y f k))))

/-- PRED (R139): whole 64-bit predicates. -/
def execPred (t : TileRef) (g : GroupId) (f : SFields) (s : State) : Host.Outcome State Fault Refusal :=
  decoded (WellFormed.pred f)
    (issueGroup s t g.val .scalar [] [] (fun y =>
      setP y f.d.toNat (predVal f.fn.toNat (pReg y f.a.toNat) (pReg y (f.imm.toNat % 64)) f.imm)))

end Sys2Proof.Machine
end

