-- ==== Sys2Proof/Machine/Tick.lean ====
section
/-! DEFINITION. One ns of the time domain (log 4): what the block does at a step that finds no command waiting. The time
unit counts (R378); each quadrant die's divider passes 34 / (5 × CUR) cycles per ns (R191, R342, R350), of which the root gate removes
those beyond the budget (R362); a district takes its cycles but for those that stretches cost it (R346); at a
district cycle the tile's engines, banks and waits move and the counters of R123 and R228 count; and recoveries whose turn has come end
(R215). -/

namespace Sys2Proof.Machine

/-! ### Groups (R100, R112, R113) -/

/-- Whether the next instruction of a group lacks what it lacked when it was last offered (R100). -/
def blocked (x : Tile) (g : Nat) (y : Group) : Bool :=
  match y.needs with
  | .none => false
  | .page p => !pageIn x p
  | .entry => (freeReq x g).isNone
  | .queue => decide (queueCap .array ≤ (queueOf x .array).length)
  | .lines wr l => l.any (engineHolds x wr)
  | .own rd wr => spansHeld x g rd wr
  | .data => (loadFor x g y).isNone
  | .room => true

/-- Whether a resident group is not ready (R100, R113). -/
def notReady (x : Tile) (g : Nat) (y : Group) : Bool :=
  y.resident && (decide (y.wait ≠ .none) || !y.pendS.isEmpty || !y.pendV.isEmpty || blocked x g y)

/-- Whether a group is not ready for want of a request entry alone (R112). -/
def lacksEntry (x : Tile) (g : Nat) (y : Group) : Bool :=
  y.resident && decide (y.wait = .none) && decide (y.needs = .entry) && blocked x g y

/-- The groups of a tile that wait in RECV.WAIT. -/
def inRecv (x : Tile) : Nat :=
  (x.groups.filter (fun p => match p.2.wait with | .recv _ => true | _ => false)).length

/-! ### Engines (R105, R123, R168, R359) -/

/-- Whether an engine of the tile runs an MMA (R123). -/
def mmaBusy (x : Tile) : Bool :=
  x.queue.any (fun q => q.started && (match q.op with | .mma _ _ => true | _ => false))

/-- The class of power events of a cycle of a running instruction: the matrix array's by the wider of the formats, the others' 4
(R108, R172, R359). -/
def engineClass : EngOp → Nat
  | .mma f _ =>
    let w := max (fmtWidth (fmtOf f.fa.toNat)) (fmtWidth (fmtOf f.fb.toNat))
    if w ≤ 6 then 1 else if w ≤ 8 then 2 else 3
  | _ => 4

/-- The lines that a running instruction touches in its cycle: 16 a cycle, one of each bank, in line order (R103, R168; log 91). -/
def cycleLines (x : Tile) (q : QueuedOp) : List Nat :=
  ((spanLines (reads x q) ++ spanLines (writes x q)).drop (16 * q.cycles)).take 16

/-- One cycle of a running instruction. -/
def engineCycle (t : TileRef) (s : State) (q : QueuedOp) : State :=
  let x := getTile s t
  let ls := cycleLines x q
  let s := setTile s t (bookBanks (setQueued x { q with cycles := q.cycles + 1 }) bankEngine ls)
  charge (charge s t.d.val 7 ls.length) t.d.val (engineClass q.op) 1

/-! ### The spill engine (R105, R114, R115) -/

/-- The older of two frames. -/
def older (a : Option PageFrame) (f : PageFrame) : Option PageFrame :=
  match a with
  | none => some f
  | some b => if f.lastUse < b.lastUse then some f else some b

/-- The least recently used frame that holds an unpinned page. -/
def evictable (x : Tile) : Option PageFrame := (x.frames.filter (fun f => !f.pinned)).foldl older none

/-- The spill engine turns to the first page that is waited for: into a free frame, or into that of the least recently used unpinned
page, which leaves it (R115). -/
def startMove (x : Tile) : Tile :=
  match x.pageSwaps with
  | [] => x
  | p :: _ =>
    if x.frames.length < 32 then { x with moving := some { page := p } }
    else
      match evictable x with
      | some f => { x with frames := x.frames.erase f, moving := some { page := p, victim := some f } }
      | none => x

/-- The cycles of a page swap before its read: the write-back of a page that was written (R115). -/
def writeBackCycles (m : PageMove) : Nat :=
  match m.victim with
  | some f => if f.dirty then 1056 else 0
  | none => 0

/-- The line that a page swap takes in its present cycle: the lines of the page that leaves and then those of the page that comes, each
in line order behind the 32 cycles of its part (log 108, DESIGN CHOICE). -/
def moveLines (m : PageMove) : List Nat :=
  let w := writeBackCycles m
  if m.cycles < w then (if m.cycles < 32 then [] else [1024 * (m.victim.map (·.page)).getD 0 + (m.cycles - 32)])
  else if w + 32 ≤ m.cycles ∧ m.cycles < w + 1056 then [1024 * m.page + (m.cycles - w - 32)]
  else []

/-- A group swap one cycle later. -/
def ageSwap (w : Swap) : Swap := { w with cycles := w.cycles + 1 }

/-- One cycle of the spill engine: a group swap ages, and a page swap moves a line through its bank, or the next one begins (log 108, DESIGN
CHOICE). -/
def spillCycle (t : TileRef) (s : State) : State :=
  let x := getTile s t
  let x := { x with swap := x.swap.map ageSwap }
  match x.moving with
  | none => setTile s t (startMove x)
  | some m =>
    let ls := moveLines m
    charge (setTile s t (bookBanks { x with moving := some { m with cycles := m.cycles + 1 } } bankSpill ls)) t.d.val 7 ls.length

/-! ### District cycles -/

/-- One district cycle of a tile (R101, R105, R112 to R114, R123). -/
def tileCycle (s : State) (t : TileRef) : State :=
  let x := getTile s t
  if x.prog.isNone then s
  else
    let a := tileBase t.d.val (posOf s t)
    let s := bump s (a + 0x30) (inRecv x)
    let s := if mmaBusy x then bump s (a + 0x38) 1 else s
    let s := if x.groups.any (fun p => lacksEntry x p.1 p.2) then bump s (a + 0x28) 1 else s
    let s := (x.queue.filter (·.started)).foldl (engineCycle t) s
    let s := spillCycle t s
    let r := serveBanks (getTile s t)
    let y := r.1
    setTile (bump s (a + 0x20) r.2) t { y with
      rr := nextPointer y, slate := []
      groups := y.groups.map (fun p => (p.1, { p.2 with waited := if notReady y p.1 p.2 then p.2.waited + 1 else 0 })) }

/-- The tiles that work on a district's positions: its logical tiles and its shadows. -/
def positionTiles (s : State) (d : Fin 144) : List TileRef :=
  districtTiles d ++ ((getDist s d.val).sample.map (fun y => ({ d := d, l := y.l, shadow := true } : TileRef)))

/-- The positions of a district on which nothing has issued in the cycle. -/
def idlePositions (s : State) (d : Fin 144) : List Nat :=
  (List.range 9).filter (fun p => (positionTiles s d).all (fun t => posOf s t != p || (getTile s t).slate.isEmpty))

/-- IDLE_CNT of some positions of a district (R123). -/
def countIdle (s : State) (d : Fin 144) (ps : List Nat) : State := ps.foldl (fun s p => bump s (tileBase d.val p + 0x18) 1) s

/-- What a district's tiles do in its cycle (R123, R359). -/
def tilesCycle (s : State) (d : Fin 144) : State :=
  (positionTiles s d).foldl tileCycle (countIdle (charge s d.val 0 1) d (idlePositions s d))

/-- A cycle of a position under test, heated or running its content: its monitors report to CLK_TRIM, and its events count like any others
(R356, R372; log 118). -/
def testCycle (s : State) (d : Nat) : State :=
  let x := getDist s d
  if !bit x.spare 4 then s
  else
    let a := dstBase d + 0xF110
    let m := (Config.testMargin s.epoch s.tme.age d).toNat
    let s := if m < bits (getReg s a) 31 24 then setReg s a (putMask (getReg s a) (at_ m 24) 0xFF000000) else s
    if x.tested.isSome then s
    else [1, 2, 3, 4, 5, 6, 7].foldl (fun s n => charge s d n (Config.testEvents s.epoch s.tme.age d n)) s

/-- What a district does in a cycle: its tiles work while an itinerary runs, and its clock counts in any case (R359). -/
def workCycle (s : State) (d : Fin 144) : State := testCycle (if atWork s then tilesCycle s d else charge s d.val 0 1) d.val

/-- A cycle of a roadworks copy: its lines are spread evenly over the cycles that are left, and each is read, crosses the local switch and is
written (R122, R359; log 117); no tile of the district issues (R123). -/
def copyCycle (s : State) (d : Fin 144) : State :=
  let x := getDist s d.val
  let n := ceilDiv x.copyLines x.copying
  let s := setDist s d.val { x with copying := x.copying - 1, copyLines := x.copyLines - n }
  let s := charge (charge (charge s d.val 0 1) d.val 7 (2 * n)) d.val 8 n
  if atWork s then countIdle s d (List.range 9) else s

/-- A cycle of its die comes to a district. Four quarters that stretches cost it make up the loss of a cycle (R346): it falls behind
the count of its die by one, where that count runs. So it does in the cycles of a roadworks copy, which come before its cycle 0 (R122, R350). -/
def districtCycle (counts : Bool) (s : State) (d : Fin 144) : State :=
  let x := getDist s d.val
  if 4 ≤ x.lag then setDist s d.val { x with lag := x.lag - 4, behind := x.behind + flag counts }
  else if 0 < x.copying then copyCycle (setDist s d.val { x with behind := x.behind + flag counts }) d
  else workCycle s d

/-- The counts of R198 and R228 at a cycle of QD0 that is not frozen: the spec does not say whose cycles the 160 and the 32 of R198 are
(log 40, DESIGN CHOICE). -/
def boundaryCycle (s : State) : State :=
  let met := heardAll s s.sch.jobMs && !frozenFor s (s.sch.jobMs + 1)
  let s := { s with sch := { s.sch with
    sinceDone := if s.sch.done then s.sch.sinceDone + 1 else 0, sinceMet := if met then s.sch.sinceMet + 1 else 0 } }
  if s.sch.done then bump s 0x000A0048 1 else s

/-- What a cycle of a die counts while an itinerary runs: in SCH_HOLD_CYC on a frozen chip, else in the milestone (R191, R228). The counts
of the chip follow quadrant die 0 (log 40). -/
def countCycle (s : State) (q : Nat) : State :=
  if frozen s then (if q = 0 then bump { s with sch := { s.sch with sinceMet := 0 } } 0x000A0050 1 else s)
  else
    let s := { s with clk := { s.clk with cycle := SMap.modify 0 s.clk.cycle q (· + 1) } }
    if q = 0 then boundaryCycle s else s

/-- The crossing FIFOs of a die have a cycle more (R344). -/
def turnDie (s : State) (q : Nat) : State := { s with clk := { s.clk with turn := SMap.modify 0 s.clk.turn q (· + 1) } }

/-- One district cycle of quadrant die q (R191, R197, R198, R228). -/
def dieCycle (s : State) (q : Nat) : State :=
  let counts := atWork s && !frozen s
  let s := if atWork s then countCycle (turnDie s q) q else turnDie s q
  ((List.finRange 144).filter (fun d => quadOf d.val == q)).foldl (districtCycle counts) s

/-- A cycle of a die's root clock comes to its gate, which removes it once the tick has counted what the budget allows (R362). -/
def gateCycle (s : State) (q : Nat) : State :=
  if gated s q then setDie s q { getDie s q with removed := true } else dieCycle s q

/-- The period of the triangular profile of a root PLL: 31.5 kHz, ±1% (R352; log 145). -/
def spreadPeriod (q : Nat) : Nat := 31432 + Config.spreadNs q % 635

/-- How far the root PLL of a die is spread down in this ns, `spreadPeriod` standing for 0.5%: nothing while CLK_SSC.EN is 0, else a triangle
over the period of its profile (R352; log 145). -/
def spreadDown (s : State) (q : Nat) : Nat :=
  if bit (getReg s 0x00030004) 0 then
    let x := (s.tme.age + Config.spreadStart s.epoch q) % spreadPeriod q
    min (2 * x) (2 * (spreadPeriod q - x))
  else 0

/-- One ns of a die's divider, in units of 1 / (200 × the profile's period) of a root cycle's fifth: the root gives 34 / 5 cycles per ns, less
the spread. While the die's clock is stopped none passes (R350). -/
def dieTick (s : State) (q : Nat) : State :=
  if 0 < SMap.get 0 s.clk.stop q then { s with clk := { s.clk with stop := SMap.modify 0 s.clk.stop q (· - 1) } }
  else
  let ph := SMap.get 0 s.clk.phase q + 34 * (200 * spreadPeriod q - spreadDown s q)
  let period := 5 * curDiv s q * (200 * spreadPeriod q)
  if ph < period then { s with clk := { s.clk with phase := SMap.set 0 s.clk.phase q ph } }
  else gateCycle { s with clk := { s.clk with phase := SMap.set 0 s.clk.phase q (ph - period) } } q

/-! ### One ns -/

/-- The recoveries that end by themselves once what they wait for is there and their turn has come (R212, R215). -/
def settleCauses (s : State) : State :=
  settleRipple (settleDecision (settleLevels (settleDetour (settleReplay s))))

/-- The milestone's ns that were not frozen, by which slots on links count (R203). -/
def linkTick (s : State) : State :=
  if frozen s then s else { s with clk := { s.clk with linkNs := s.clk.linkNs + 1 } }

/-- One ns (log 4). In power-on reset nothing counts (R431). The dies' clocks run in READY, and their cycles count in the counters of tiles
and of the schedule while an itinerary runs: from JOB_START on, and not between COMMIT and JOB_START (R123; log 96, DESIGN CHOICE). -/
def idle (s : State) : State :=
  if !s.porstN then s
  else
    let s := storeTick (chargeHub (tickUnit s) 14 1)
    let s := if s.dev = .ready then (List.range 4).foldl dieTick (if atWork s then linkTick s else s) else s
    if s.dev = .ready then settleCauses s else s

end Sys2Proof.Machine
end

