-- ==== Sys2Proof/Machine/TileEvents.lean ====
section
/-! DEFINITION. Events of the tiles that no instruction names: the end of a partition reset (R310, R311), group swaps (R113,
R114) and page swaps (R115). -/

namespace Sys2Proof.Machine

/-- The partition's bits leave MEM_STATUS.PRESET, its stacks are in service again, and the cause clears with the last
partition (R310 steps 2 and 7). -/
def endPreset (s : State) (qs : List Nat) : State :=
  let left := qs.foldl (fun (w : BitVec 4) i => w &&& ~~~((1 : BitVec 4) <<< i)) s.mem.preset
  let s := { s with mem := { s.mem with
    preset := left, restoring := decide (left ≠ 0),
    stacksOk := qs.foldl (fun (w : BitVec 12) i => w ||| ((7 : BitVec 12) <<< (3 * i))) s.mem.stacksOk } }
  let s := bump s 0x00070180 1
  if left = 0 then clearCause s 4 else s

/-- What the reads of a partition reload meet: of the itinerary store, and of the mirror and the reserve mirror in the protection area
(R290, R301, R304, R310). -/
def meetRestore (s : State) (dm : Damage) : State := meet s 3 true (inStore s) dm

/-- PARTITION_RESET_DONE (R215, R310, R311): in its turn, the code stores are reloaded, the blocks restored from the mirror and the
reserve mirror, and the reset ends; the tiles stay finished until the rewinding boundary. -/
def execPartitionResetDone (q : Fin 4) (dm : Damage) (s : State) : Host.Outcome State Fault Refusal :=
  .next (
    if s.mem.preset.getLsbD q.val && s.dev != .fault && inTurn s 4 then
      let qs := partitionOf s q.val
      let s := meetRestore (restorePartition (loadCode s (fun d => qs.contains (quadOf d))) qs) dm
      if s.dev = .fault then s else endPreset s qs
    else s)

/-! ### Group swaps (R113, R114) -/

/-- The parked group that comes in next: the lowest-numbered that waits on nothing but residency. -/
def swapIn (x : Tile) : Option Nat :=
  (x.groups.find? (fun p => !p.2.resident && decide (p.2.wait = .none) && p.2.pendS.isEmpty && p.2.pendV.isEmpty &&
    !blocked x p.1 p.2)).map (·.1)

/-- The greater of two candidates to park: the one that has waited longer, the first on a tie. -/
def longer (a : Option (Nat × Group)) (p : Nat × Group) : Option (Nat × Group) :=
  match a with
  | none => some p
  | some q => if q.2.waited < p.2.waited then some p else some q

/-- The resident group to park: not ready for at least 256 consecutive cycles, with no request entry, waiting longest. -/
def swapOut (x : Tile) : Option Nat :=
  ((x.groups.filter (fun p => notReady x p.1 p.2 && decide (256 ≤ p.2.waited) && !holdsReq x p.1)).foldl longer none).map (·.1)

/-- GROUP_SWAP_START (R113): when a parked group waits on nothing but residency and a resident group has not been ready for 256 cycles,
the swap of the pair begins; one is under way at most. -/
def execGroupSwapStart (t : TileRef) (s : State) : Host.Outcome State Fault Refusal :=
  .next (
    let x := getTile s t
    if atWork s && x.prog.isSome && x.swap.isNone && !inPreset s t then
      match swapOut x, swapIn x with
      | some a, some b => setTile s t { x with swap := some { out := a, into := b } }
      | _, _ => s
    else s)

/-- The bytes of a group's context (R114). -/
def contextBytes (p : TileProg) : Nat := 16512 + 256 * p.vregs

/-- The cycles in which a park reads out its context; the bring-in takes as many beside the HBM read latency (R114). -/
def parkCycles (p : TileProg) : Nat := 32 + ceilDiv (contextBytes p) 64

/-- The lines of a tile's backing region that the spill engine touches: `n` bytes from an offset. -/
def backingLines (p : TileProg) (off n : Nat) : List Nat :=
  (List.range (ceilDiv n 64)).map (fun i => p.backing + off + 64 * i)

/-- The first line of each spill page among lines that are touched in order. -/
def pageFirsts (ls : List Nat) : List Nat :=
  ls.foldl (fun l a => if l.any (fun b => b / 2 ^ 21 == a / 2 ^ 21) then l else l ++ [a]) []

/-- Places the spill pages that the spill engine touches at these lines, in order; with the state come the lines whose first touch finds every
pool full (R295). -/
def placeBacking (q : Nat) : List Nat → State → State × List Nat
  | [], s => (s, [])
  | a :: r, s =>
    match touchSpill s q a with
    | some s => placeBacking q r s
    | none => let z := placeBacking q r s; (z.1, a :: z.2)

/-- Whether a line of a backing region has a place in memory. -/
def backed (s : State) (a : Nat) : Bool := !inSpill a || (placeOf s (a / 2 ^ 21)).isSome

/-- The spill engine reads or writes its backing region, as far as it has a place: the power of its accesses, the check values that the
blocks it moves whole receive, and what its reads meet (R114, R115, R301, R302, R359). -/
def useBacking (s : State) (p : TileProg) (off n : Nat) (dm : Damage) : State :=
  let ls := (backingLines p off n).filter (backed s)
  let bs := (wholeBlocks (p.backing + off) n).filter (fun b => backed s (4096 * b))
  meet (bs.foldl giveCheck (ls.foldl (fun s a => chargeAccess s a 1) s)) 0 false ls.contains
    (dm.filter (fun o => o.2 != .parityFail))

/-- The spill engine's accesses to spans of its backing region have their pages placed and then go on as `f` says. A first touch that finds
every pool full raises SPAD_BOUNDS with the address touched, reads zero and writes nothing (R292, R295). That the group named is `g`, and
that each page raises it once in a swap, is the model's choice (log 138, DESIGN CHOICE). -/
def withBacking (s : State) (t : TileRef) (g : Nat) (ls : List Nat) (f : State → State) : State :=
  let r := placeBacking (quadOf t.d.val) (pageFirsts ls) s
  r.2.foldl (fun s a => tileViolation s t 1 g 0x1FFFE (addrWords a)) (f r.1)

/-- The page with the lines of its backing that have no place read as zero (R292, R295). -/
def zeroUnbacked (s : State) (t : TileRef) (page base : Nat) : State :=
  let x := getTile s t
  setTile s t { x with spad := x.spad.filter (fun p => decide (p.1 / 65536 ≠ page) || backed s (base + p.1 % 65536)) }

/-- A group whose context is read where lines of it have no place: its registers in those lines read zero (R292, R295). What lies in which
line the spec does not say, nor what zero is for the control state, which stays (log 138, DESIGN CHOICE). -/
def zeroContext (s : State) (t : TileRef) (g : Nat) (ls : List Nat) : State :=
  if ls.all (backed s) then s
  else
    let y := getGroup (getTile s t) g
    let keeps := fun (kind r : Nat) => ls.any (backed s) && !Config.contextLost s.fresh kind r
    takeFresh (putGroup s t g { y with
      s := y.s.filter (fun p => keeps 0 p.1), p := y.p.filter (fun p => keeps 1 p.1), v := y.v.filter (fun p => keeps 2 p.1) })

/-- The parked group leaves its slot to the group brought in, and the counters rise. -/
def endSwap (s : State) (t : TileRef) (w : Swap) : State :=
  let x := getTile s t
  let a := getGroup x w.out
  let b := getGroup x w.into
  let x := setGroup x w.out { a with resident := false, waited := 0 }
  let x := setGroup x w.into { b with resident := true, slot := a.slot, waited := 0 }
  let base := tileBase t.d.val (posOf s t)
  bump (bump (setTile s t { x with swap := none }) (base + 0x40) 1) (base + 0x48) w.cycles

/-- GROUP_SWAP_END (R114): once the park has read out its context, the bring-in ends; the parked group leaves its slot to the group
brought in, and both counters rise, one of them by the cycles that the swap took. -/
def execGroupSwapEnd (t : TileRef) (dm : Damage) (s : State) : Host.Outcome State Fault Refusal :=
  .next (
    let x := getTile s t
    match x.swap, x.prog with
    | some w, some p =>
      if w.cycles < parkCycles p ∨ s.dev = .fault then s
      else
        let c := contextBytes p
        withBacking s t w.out (backingLines p (c * w.out) c ++ backingLines p (c * w.into) c) (fun s =>
          let s := zeroContext (endSwap s t w) t w.into (backingLines p (c * w.into) c)
          useBacking (useBacking s p (c * w.out) c []) p (c * w.into) c dm)
    | _, _ => s)

/-! ### Page swaps (R115) -/

/-- The tile with the page in a frame of its own, the swap over. -/
def bringIn (s : State) (t : TileRef) (m : PageMove) : State :=
  let x := getTile s t
  let base := tileBase t.d.val (posOf s t)
  let s := setTile s t { x with
    frames := x.frames ++ [{ page := m.page, pinned := false, dirty := false, lastUse := x.useClock }]
    useClock := x.useClock + 1, pageSwaps := x.pageSwaps.filter (fun p => decide (p ≠ m.page)), moving := none }
  bump (bump s (base + 0x50) 1) (base + 0x58) m.cycles

/-- Where a page lies in the backing region: beyond the group contexts (R115). -/
def pageOffset (p : TileProg) (page : Nat) : Nat := ceilDiv (contextBytes p * p.groups) 64 * 64 + 65536 * page

/-- The lines of a page in the backing region. -/
def pageLines (p : TileProg) (page : Nat) : List Nat := backingLines p (pageOffset p page) 65536

/-- The page that a page swap writes back, if it does. -/
def writtenBack (m : PageMove) : Option Nat := m.victim.bind (fun f => if f.dirty then some f.page else none)

/-- PAGE_SWAP_DONE (R115): the page an access waits for reaches its frame, once the spill engine has had the cycles of the write-back,
where there is one, and of the read. PAGE_SWAP_CYC rises by the cycles that both parts took. -/
def execPageSwapDone (t : TileRef) (page : Fin 128) (dm : Damage) (s : State) : Host.Outcome State Fault Refusal :=
  .next (
    let x := getTile s t
    match x.moving, x.prog with
    | some m, some p =>
      if m.page ≠ page.val ∨ m.cycles < writeBackCycles m + 1056 ∨ s.dev = .fault then s
      else
        let out := (writtenBack m).toList
        withBacking s t 0 (out.flatMap (pageLines p) ++ pageLines p m.page) (fun s =>
          let s := zeroUnbacked (bringIn s t m) t m.page (p.backing + pageOffset p m.page)
          useBacking (out.foldl (fun s v => useBacking s p (pageOffset p v) 65536 []) s) p (pageOffset p m.page) 65536 dm)
    | _, _ => s)

end Sys2Proof.Machine
end

