-- ==== Sys2Proof/Machine/PtpFrame.lean ====
section
/-! DEFINITION. The frames of PTP messages as they leave a port (R386, R389): Ethernet, with UDP over IPv4 or IPv6 where the transport has
it, the UDP checksum and the frame check sequence computed over what leaves. The spec names IEEE 1588-2019 for the messages; their bytes
and those of the headers about them are taken from that standard and its transports (log 70, PRESUMED). -/

namespace Sys2Proof.Machine

/-- A number as `n` bytes in network order. -/
def beBytes (n v : Nat) : List Byte := (leBytes n v).reverse

/-- One bit step of the reflected CRC-32 of IEEE 802.3. -/
def crc32Bit (c : Word) : Word := if c.getLsbD 0 then (c >>> 1) ^^^ 0xEDB88320 else c >>> 1

/-- The frame check sequence of IEEE 802.3. -/
def frameCheck (l : List Byte) : Word :=
  ~~~ (l.foldl (fun c b => (List.range 8).foldl (fun c _ => crc32Bit c) (c ^^^ b.setWidth 32)) 0xFFFFFFFF)

/-- The sum of the 16-bit words of bytes in network order. -/
def wordSum : List Byte → Nat
  | a :: b :: r => a.toNat * 256 + b.toNat + wordSum r
  | [a] => a.toNat * 256
  | [] => 0

/-- The one's complement checksum of the internet protocols. -/
def inetChecksum (l : List Byte) : Nat :=
  let n := wordSum l
  let n := n % 65536 + n / 65536
  65535 - (n % 65536 + n / 65536)

/-- The clock identity of a port, the EUI-64 of its MAC address, and its port number 1. -/
def portIdentity (mac : BitVec 48) : List Byte :=
  let m := beBytes 6 mac.toNat
  m.take 3 ++ [0xFF, 0xFE] ++ m.drop 3 ++ [0, 1]

/-- A PTP time in ns as a Timestamp: seconds and ns. -/
def timestampBytes (ns : Nat) : List Byte := beBytes 6 (ns / 1000000000) ++ beBytes 4 (ns % 1000000000)

/-- What follows the header of a message: its stamp, and what its type adds. -/
def ptpBody (mac : BitVec 48) (m : PtpOut) : List Byte :=
  timestampBytes m.stamp ++
  (match m.quality with
   | some q => [0, 0, 0, q.2.1, q.1, 0xFE, 0xFF, 0xFF, q.2.2] ++ (portIdentity mac).take 8 ++ [0, 0, 0xA0]
   | none =>
     match m.requester with
     | some r => beBytes 10 r.toNat
     | none => [])

/-- The control field of a message type. -/
def ptpControl (type : Byte) : Byte :=
  if type = 0 then 0 else if type = 1 then 1 else if type = 8 then 2 else if type = 9 then 3 else 5

/-- A PTP message of version 2.1: its header of 34 bytes and its body. -/
def ptpMessage (mac : BitVec 48) (m : PtpOut) : List Byte :=
  let b := ptpBody mac m
  [m.type, 0x12] ++ beBytes 2 (34 + b.length) ++ [m.domain, 0, if m.twoStep then 2 else 0, 0x08] ++ List.replicate 12 0 ++
    portIdentity mac ++ beBytes 2 m.seqId.toNat ++ [ptpControl m.type, 0x7F] ++ b

/-- The UDP port of a message: 319 for event messages, 320 for the others. -/
def ptpPortOf (m : PtpOut) : Nat := if m.type.toNat < 8 then 319 else 320

/-- A UDP datagram with its checksum over the pseudo header that the addresses give. -/
def udpDatagram (pseudo : List Byte) (port : Nat) (body : List Byte) : List Byte :=
  let head := beBytes 2 port ++ beBytes 2 port ++ beBytes 2 (8 + body.length)
  let c := inetChecksum (pseudo ++ head ++ [0, 0] ++ body)
  head ++ beBytes 2 (if c = 0 then 65535 else c) ++ body

/-- The IPv4 packet of a message, to 224.0.1.129. -/
def ptpIpv4 (src : Word) (port : Nat) (body : List Byte) : List Byte :=
  let addrs := beBytes 4 src.toNat ++ [224, 0, 1, 129]
  let head := [0x45, 0] ++ beBytes 2 (28 + body.length) ++ [0, 0, 0, 0, 1, 17]
  head ++ beBytes 2 (inetChecksum (head ++ [0, 0] ++ addrs)) ++ addrs ++
    udpDatagram (addrs ++ [0, 17] ++ beBytes 2 (8 + body.length)) port body

/-- The IPv6 packet of a message, to FF0E::181. -/
def ptpIpv6 (src : BitVec 128) (port : Nat) (body : List Byte) : List Byte :=
  let addrs := beBytes 16 src.toNat ++ [0xFF, 0x0E] ++ List.replicate 12 0 ++ [1, 0x81]
  [0x60, 0, 0, 0] ++ beBytes 2 (8 + body.length) ++ [17, 1] ++ addrs ++
    udpDatagram (addrs ++ beBytes 4 (8 + body.length) ++ [0, 0, 0, 17]) port body

/-- A frame with what fills it up to 60 bytes and its frame check sequence. -/
def closeFrame (l : List Byte) : List Byte :=
  let l := l ++ List.replicate (60 - l.length) 0
  l ++ leBytes 4 (frameCheck l).toNat

/-- The frame of a PTP message on a port: transport 0 is IEEE 802.3, 1 IPv4, 2 IPv6 (R395). -/
def ptpFrame (s : State) (p : PortId) (m : PtpOut) : List Byte :=
  let mac := portMac s p
  let msg := ptpMessage mac m
  let head := fun (dst : List Byte) (type : Nat) => dst ++ beBytes 6 mac.toNat ++ beBytes 2 type
  closeFrame (
    if m.transport = 1 then
      head [0x01, 0x00, 0x5E, 0, 1, 0x81] 0x0800 ++ ptpIpv4 ((portIpv4 s p).getD 0) (ptpPortOf m) msg
    else if m.transport = 2 then
      head [0x33, 0x33, 0, 0, 1, 0x81] 0x86DD ++ ptpIpv6 (linkLocal mac) (ptpPortOf m) msg
    else head [0x01, 0x1B, 0x19, 0, 0, 0] 0x88F7 ++ msg)

end Sys2Proof.Machine
end

