-- ==== Sys2Proof/Machine/Time.lean ====
section
/-! DEFINITION. The commands of the time unit (R383, R386 to R390, R393, R394), and the scrub engine (R300). -/

namespace Sys2Proof.Machine

/-! ### PTP (R386 to R390) -/

/-- Whether a port is the host port. -/
def isHost : PortId → Bool
  | .host => true
  | .mgt => false

/-- TME_PTP_CFG. -/
def ptpCfg (s : State) : Word := getReg s 0x00050028

/-- Whether a port is up and no reset is asserted. -/
def portRuns (s : State) (p : PortId) : Bool :=
  s.porstN && s.wrstN && (match p with
    | .host => s.ports.hostUp
    | .mgt => s.ports.mgtUp)

/-- Whether SRC selects a port (R386). -/
def srcSelects (s : State) (p : PortId) : Bool := decide (servoSrc s = if isHost p then 1 else 2)

/-- Whether the port is a slave that takes a message of the domain. -/
def takesAsSlave (s : State) (p : PortId) (m : PtpMsg) : Bool :=
  portRuns s p && srcSelects s p && decide (m.domain.toNat = bits (ptpCfg s) 31 24)

/-- Whether the port is a master. -/
def isMaster (s : State) (p : PortId) : Bool :=
  portRuns s p && !srcSelects s p && bit (ptpCfg s) (if isHost p then 2 else 3)

/-- Whether the port runs two-step. -/
def runsTwoStep (s : State) (p : PortId) : Bool := bit (ptpCfg s) (if isHost p then 4 else 5)

/-- The transmit correction of a port in its mode, in tenths of a ns (R388). -/
def txCorrection (s : State) : PortId → Int
  | .host => 384
  | .mgt => if s.ports.fecOn then 224 else 128
/-- The receive correction. -/
def rxCorrection (s : State) : PortId → Int
  | .host => -960
  | .mgt => if s.ports.fecOn then -2304 else -256

/-- A corrected stamp taken now, as local time in tenths of a ns. -/
def stamp10 (s : State) (correction : Int) : Int := 10 * (localTime s).toNat + correction

/-- A corrected stamp as PTP time in whole ns (R387). -/
def ptpStamp (s : State) (correction : Int) : Nat :=
  (((s.tme.wraps.toNat * 2 ^ 32 + (localTime s).toNat : Nat) : Int) + correction.fdiv 10).toNat

/-- Message types of IEEE 1588. -/
def ptpSyncType : Byte := 0x0
/-- Delay_Req. -/
def ptpDelayReqType : Byte := 0x1
/-- Follow_Up. -/
def ptpFollowUpType : Byte := 0x8
/-- Delay_Resp. -/
def ptpDelayRespType : Byte := 0x9
/-- Announce. -/
def ptpAnnounceType : Byte := 0xB

/-- A PTP message of this chip, in the configured domain and transport (R386, R389). -/
def ptpOut (s : State) (type : Byte) (seq : BitVec 16) (stamp : Nat) : PtpOut :=
  { type := type, transport := BitVec.ofNat 2 (bits (ptpCfg s) 17 16), domain := BitVec.ofNat 8 (bits (ptpCfg s) 31 24), seqId := seq,
    stamp := stamp }

/-- Sends a PTP message in its frame, whose checksums are those of what leaves (R389). -/
def sendPtp (s : State) (p : PortId) (m : PtpOut) : State := emit s (.ptp p m (ptpFrame s p m))

/-- An Announce: clockClass 248, priority1 128 and priority2 128 (R386). -/
def announce (s : State) : PtpOut := { ptpOut s ptpAnnounceType (s.tme.announceId + 1) 0 with quality := some (248, 128, 128) }

/-- Sends an event message with its origin stamp; two-step carries zero (R389). -/
def sendEvent (s : State) (p : PortId) (type : Byte) (seq : BitVec 16) : State :=
  let two := runsTwoStep s p
  sendPtp s p { ptpOut s type seq (if two then 0 else ptpStamp s (txCorrection s p)) with twoStep := two && decide (type = ptpSyncType) }

/-- A signed number modulo 2^32 ns, held in tenths. -/
def wrapTenths (v : Int) : Int :=
  let r := v.emod (10 * 2 ^ 32)
  if r < 10 * 2 ^ 31 then r else r - 10 * 2 ^ 32

/-- The θ of R390, in whole ns. -/
def ptpTheta (t1 : Nat) (cS t2 t3 : Int) (t4 : Nat) (cD : Int) : Int :=
  (wrapTenths (10 * (t1 + cS) - t2 + 10 * (t4 - cD) - t3)).tdiv 20

/-- An exchange that has everything is a measurement (R390), with the master's full time now (R387). -/
def measureExchange (s : State) (e : Exchange) : State :=
  match e.t1, e.resp with
  | some t1, some (t4, cD) =>
    let t := BitVec.ofInt 32 (e.t2.fdiv 10)
    let elapsed := (localTime s - t).toNat
    noteMeasure s { theta := ptpTheta t1 e.cS e.t2 e.t3 t4 cD, t := t, full := some (t1 + e.cS + elapsed) }
  | _, _ => s

/-- Whether an exchange has all it needs. -/
def completeExchange (e : Exchange) : Bool := e.t1.isSome && e.resp.isSome

/-- Takes the exchanges that have become complete off the list, each as a measurement, oldest first. -/
def settleExchanges (s : State) : State :=
  let ready := s.tme.exchanges.filter completeExchange
  let s := { s with tme := { s.tme with exchanges := s.tme.exchanges.filter (fun e => !completeExchange e) } }
  ready.foldl measureExchange s

/-- PTP_SYNC (R389, R390): the slave notes the Sync and answers it with one Delay_Req. -/
def execPtpSync (p : PortId) (m : PtpMsg) (s : State) : Host.Outcome State Fault Refusal :=
  .next (
    if takesAsSlave s p m then
      let n := s.tme.seqId + 1
      let e : Exchange := {
        port := p, syncId := m.seqId, t1 := if m.twoStep then none else some m.stamp, t2 := stamp10 s (rxCorrection s p),
        cS := m.correction, reqId := n, t3 := stamp10 s (txCorrection s p) }
      let s := sendEvent s p ptpDelayReqType n
      { s with tme := { s.tme with
          exchanges := s.tme.exchanges.filter (fun x => decide (x.reqId ≠ n)) ++ [e], seqId := n } }
    else s)

/-- FOLLOW_UP (R389, R390): the origin stamp of a two-step Sync. -/
def execFollowUp (p : PortId) (m : PtpMsg) (s : State) : Host.Outcome State Fault Refusal :=
  .next (
    if takesAsSlave s p m then
      settleExchanges { s with tme := { s.tme with exchanges := s.tme.exchanges.map (fun e =>
        if e.port = p ∧ e.syncId = m.seqId ∧ e.t1 = none then { e with t1 := some m.stamp, cS := e.cS + m.correction } else e) } }
    else s)

/-- The identity of a port, as its Delay_Req carries it (R389; log 70, PRESUMED). -/
def ownIdentity (s : State) (p : PortId) : BitVec 80 :=
  BitVec.ofNat 80 ((portIdentity (portMac s p)).foldl (fun v b => 256 * v + b.toNat) 0)

/-- DELAY_RESP (R383, R386, R387, R390): the answer to a Delay_Req of this port; it is multicast, and one that answers another port's is not
taken. -/
def execDelayResp (p : PortId) (m : PtpMsg) (s : State) : Host.Outcome State Fault Refusal :=
  .next (
    if takesAsSlave s p m && decide (m.requester = ownIdentity s p) then
      settleExchanges { s with tme := { s.tme with exchanges := s.tme.exchanges.map (fun e =>
        if e.port = p ∧ e.reqId = m.seqId ∧ e.resp = none then { e with resp := some (m.stamp, m.correction) } else e) } }
    else s)

/-- DELAY_REQ (R386, R388): the master answers with the receipt stamp. -/
def execDelayReq (p : PortId) (m : PtpMsg) (s : State) : Host.Outcome State Fault Refusal :=
  .next (
    if isMaster s p && decide (m.domain.toNat = bits (ptpCfg s) 31 24) then
      sendPtp s p { ptpOut s ptpDelayRespType m.seqId (ptpStamp s (rxCorrection s p)) with requester := some m.source }
    else s)

/-- PTP_SYNC_INTERVAL (R386, R389): the master sends Announce and Sync, an Announce with each Sync (log 119, DESIGN CHOICE), and in two-step operation the Follow_Up. -/
def execPtpSyncInterval (p : PortId) (s : State) : Host.Outcome State Fault Refusal :=
  .next (
    if isMaster s p then
      let n := s.tme.syncId + 1
      let s := sendEvent (sendPtp s p (announce s)) p ptpSyncType n
      let s := if runsTwoStep s p then sendPtp s p (ptpOut s ptpFollowUpType n (ptpStamp s (txCorrection s p))) else s
      { s with tme := { s.tme with syncId := n, announceId := s.tme.announceId + 1 } }
    else s)

/-! ### Local time, pulses, captures -/

/-- Whether the next ns takes local time from its greatest value to 0 by counting. -/
def wrapsNext (s : State) : Bool :=
  let s := settleMeasures s
  decide ((unitTime (tickTime s.tme)).toNat < (localTime s).toNat)

/-- TIME_WRAP (R387): the ns in which local time passes from 0xFFFF_FFFF to 0. -/
def execTimeWrap (s : State) : Host.Outcome State Fault Refusal := .next (if s.porstN && wrapsNext s then idle s else s)

/-- TME_OUT_PULSE (R393): an armed output whose NEXT is reached. -/
def execTmeOutPulse (k : Fin 4) (s : State) : Host.Outcome State Fault Refusal :=
  .next (
    if s.porstN && s.wrstN && bit (getReg s (outBase k.val)) 31 && reached s (getReg s (outBase k.val + 12)) then
      fireOutput s k false
    else s)

/-- TME_IN_CAPTURE (R394): a filtered edge of the selected kind. In the ns of a step it takes local time before the step (R385). -/
def execTmeInCapture (j : Fin 2) (rising : Bool) (s : State) : Host.Outcome State Fault Refusal :=
  .next (
    let a := 0x00050080 + 0x10 * j.val
    let c := getReg s a
    if s.porstN && s.wrstN && bit c 31 && bit c (if rising then 0 else 1) then
      if bit c 30 then bump s (0x00050110 + 8 * j.val) 1
      else setReg (setReg s (a + 4) (localTime s - BitVec.ofInt 32 (s.tme.stepped.getD 0) - 20)) a (c ||| 0x40000000)
    else s)

/-- SLEW_END (R383): the last of the Δ ns for which SLEW runs. -/
def execSlewEnd (s : State) : Host.Outcome State Fault Refusal :=
  .next (if s.porstN && decide ((settleMeasures s).tme.slewLeft = 1) then idle s else s)

/-! ### Scrub (R299 to R301) -/

/-- A block that the scrub has read to its last line has a check value from then on (R302). -/
def scrubbed (s : State) (a : Nat) : State := if a % 4096 = 4032 then giveCheck s (a / 4096) else s

/-- The next HBM3E line, when its stack is in service; its block, a spill page's where one lies there, is verified (R302). -/
def scrubStack (s : State) (o : MemOutcome) : State :=
  let a := s.mem.scrubHbm
  let b := knownAs s a
  let s := { s with mem := { s.mem with scrubHbm := (a + 64) % 0x9000000000 } }
  if s.mem.stacksOk.getLsbD (stackOf a) then memOutcome (scrubbed (chargeAccess s a 1) b) b 4 true (admitted s b 4 true o) else s

/-- The next LPDDR5X line, once it is trained. -/
def scrubLpddr (s : State) (o : MemOutcome) : State :=
  let u := usableT2 s
  if u = 0 ∨ s.mem.trained ≠ 1 then s
  else
    let a := s.mem.scrubT2
    let b := knownAs s (0x10000000000 + a)
    memOutcome (scrubbed (chargeHub { s with mem := { s.mem with scrubT2 := (a + 64) % u } } 13 1) b) b 4 true (admitted s b 4 true o)

/-- SCRUB (R300): the next line of each tier, while MEM_SCRUB.HOURS is not 0. -/
def execScrub (hbm t2 : MemOutcome) (s : State) : Host.Outcome State Fault Refusal :=
  .next (
    if s.porstN && s.wrstN && bits (getReg s 0x00070014) 15 0 != 0 then scrubLpddr (scrubStack s hbm) t2 else s)

end Sys2Proof.Machine
end

