-- ==== Sys2Proof/Machine/Training.lean ====
section
/-! DEFINITION. Link training (R230, R250 to R262, R265): training blocks, the negotiation of lanes, width, rate and version,
the delay measurement, failures, and test mode. -/

namespace Sys2Proof.Machine

/-! ### Training blocks (R250) -/

/-- Bits [hi:lo] of a training block, as a number. -/
def tsBits (b : BitVec 128) (hi lo : Nat) : Nat := b.toNat / 2 ^ lo % 2 ^ (hi - lo + 1)

/-- TYPE. -/
def tsType (b : BitVec 128) : Nat := tsBits b 7 0
/-- INIT. -/
def tsInit (b : BitVec 128) : Bool := b.getLsbD 10
/-- ACK. -/
def tsAck (b : BitVec 128) : Bool := b.getLsbD 11
/-- COORD. -/
def tsCoord (b : BitVec 128) : Word := BitVec.ofNat 32 (tsBits b 67 36)

/-- The chosen fields. -/
def tsChosen (b : BitVec 128) : Chosen :=
  { laneSet := BitVec.ofNat 4 (tsBits b 103 100), width := BitVec.ofNat 2 (tsBits b 105 104),
    rate := BitVec.ofNat 2 (tsBits b 107 106), version := BitVec.ofNat 8 (tsBits b 115 108) }

/-- Whether parity bit k agrees with D[k], D[k + 8], ... D[k + 112]. -/
def parityOk (b : BitVec 128) (k : Nat) : Bool :=
  (List.range 15).foldl (fun p i => Bool.xor p (b.getLsbD (k + 8 * i))) (b.getLsbD (120 + k)) == false

/-- The failure cause of a block: 1 a parity error, 2 a field that breaks the table (R250, R265). -/
def blockError (b : BitVec 128) : Option Nat :=
  if !(List.range 8).all (parityOk b) then some 1
  else if tsType b = 0 ∨ 5 < tsType b ∨ tsBits b 13 12 = 3 ∨ tsBits b 15 14 = 3 ∨ tsBits b 105 104 = 3 ∨
      tsBits b 107 106 = 3 ∨ tsBits b 119 116 ≠ 0 then some 2
  else none

/-- A bad block ends the attempt; a parity error leaves its lane in FAIL_LANE (R250, R264), which is read from the block's own LANE field
(log 128, DESIGN CHOICE). -/
def badBlock (s : State) (n : LinkId) (b : BitVec 128) (cause : Nat) : State :=
  let l := getLink s n.val
  if attempting l then
    failAttempt (if cause = 1 then setLink s n.val { l with failLane := BitVec.ofNat 2 (tsBits b 9 8) } else s) n cause
  else s

/-- Whether a link is in a retrain, or waits for its next attempt. -/
def inRetrain (l : Link) : Bool :=
  !l.full && (l.state == .pause || l.state == .align || l.state == .negotiate || l.state == .verify)

/-- What every training block meets first: a bad one ends the attempt; INIT while the link is in no full initialisation
makes the end follow into one, from ACTIVE or during a retrain (R250, R251, R255). -/
def takeBlock (s : State) (n : LinkId) (b : BitVec 128) (f : State → State) : State :=
  let l := getLink s n.val
  match blockError b with
  | some c => badBlock s n b c
  | none =>
    if tsInit b && (decide (l.state = .active) || inRetrain l) then followFull s n
    else f s

/-! ### Signal, TS1 and ALIGN (R251, R257) -/

/-- LOSS_OF_SIGNAL (R257): on a lane in use of an ACTIVE link it starts a retrain, else nothing. -/
def execLossOfSignal (n : LinkId) (lane : Fin 4) (s : State) : Host.Outcome State Fault Refusal :=
  .next (if linkActive s n.val && (getLink s n.val).lanes.getLsbD lane.val then startRetrain s n false else s)

/-- SIGNAL_LOCK (R251): DETECT ends with the lock of any lane. -/
def execSignalLock (n : LinkId) (lane : Fin 4) (s : State) : Host.Outcome State Fault Refusal :=
  .next (
    let l := getLink s n.val
    if (l.state = .detect ∨ l.state = .align) ∧ l.failedWait = false then
      setLink s n.val { l with state := .align, locked := l.locked ||| (1 <<< lane.val) }
    else s)

/-- TS1 (R251). -/
def execTs1 (n : LinkId) (b : BitVec 128) (s : State) : Host.Outcome State Fault Refusal :=
  .next (takeBlock s n b (fun s =>
    let l := getLink s n.val
    if l.state = .active then
      let s := startRetrain s n false
      setLink s n.val { getLink s n.val with ts1Seen := true }
    else if (l.state = .negotiate ∨ l.state = .verify) ∧ l.failedWait = false then
      let s := failAttempt s n 8
      if attempting (getLink s n.val) then setLink s n.val { getLink s n.val with ts1Seen := true } else s
    else if l.state = .pause ∨ l.state = .detect ∨ l.state = .align then
      setLink s n.val { l with ts1Seen := true, state := if l.pauseOver && !l.failedWait then .align else l.state }
    else s))

/-- PAUSE_TIMER_EXPIRY (R251): PAUSE ends once TS1 has gone out for 64 ns and the partner's has come, whichever is later. -/
def execPauseTimerExpiry (n : LinkId) (s : State) : Host.Outcome State Fault Refusal :=
  .next (
    let l := getLink s n.val
    if l.state = .pause ∧ l.failedWait = false then
      setLink s n.val { l with pauseOver := !l.ts1Seen, state := if l.ts1Seen then .align else .pause }
    else s)

/-- ALIGN_DONE (R230, R251, R253): the lanes received without error are known; lanes in the wrong order fail the attempt;
else TS2 without ACK goes out. -/
def execAlignDone (n : LinkId) (lanesOk : BitVec 4) (orderOk : Bool) (s : State) : Host.Outcome State Fault Refusal :=
  .next (
    let l := getLink s n.val
    if l.state = .align ∧ l.failedWait = false then
      if orderOk then
        sendTs (setLink s n.val { l with state := .negotiate, lanesOk := lanesOk }) n 2 0
      else failAttempt s n 7
    else s)

/-! ### NEGOTIATE (R252 to R256) -/

/-- The TZL version of a full initialisation: the highest in both ranges (R29, R252). -/
def pickVersion (s : State) (b : BitVec 128) : Option Byte :=
  let own := getReg s 0x0000000C
  let hi := min (bits own 31 24) (tsBits b 27 20)
  let lo := max (bits own 23 16) (tsBits b 35 28)
  if lo ≤ hi then some (BitVec.ofNat 8 hi) else none

/-- The lane group of a width among the usable lanes (R253). -/
def laneGroup (usable : Nat) (w : Nat) : Option Nat :=
  if w = 0 then (if usable = 15 then some 15 else none)
  else if w = 1 then (if usable % 4 = 3 then some 3 else if usable / 4 = 3 then some 12 else none)
  else ((List.range 4).find? (fun i => decide (usable / 2 ^ i % 2 = 1))).map (fun i => 2 ^ i)

/-- The width that both ends allow (R253). -/
def askedWidth (l : Link) (b : BitVec 128) : Nat := max l.askWidth.toNat (tsBits b 13 12)

/-- The choice of R253 under a version; none when the attempt fails with NO_LANES. The partner's AUTO_NARROW is in no
training block, so it is a free value (log 34). -/
def choose (s : State) (n : Nat) (b : BitVec 128) (version : Byte) : Option Chosen :=
  let l := getLink s n
  let want := askedWidth l b
  let rate := max (max l.askRate.toNat (tsBits b 15 14)) (if version.toNat < 0x20 then 1 else 0)
  let usable := l.lanesOk.toNat &&& tsBits b 19 16
  match ((List.range 3).filter (fun w => decide (want ≤ w))).find? (fun w => (laneGroup usable w).isSome) with
  | none => none
  | some w =>
    if w ≠ want ∧ (autoNarrow s n && Config.partnerAutoNarrow s.fresh n) = false then none
    else
      some { laneSet := BitVec.ofNat 4 ((laneGroup usable w).getD 0), width := BitVec.ofNat 2 w, rate := BitVec.ofNat 2 rate,
             version := version }

/-- LNKnn_DELAY and LNKnn_RTT from M and the partner's T_TURN (R256). -/
def setDelay (l : Link) (m : Nat) (b : BitVec 128) : Link :=
  let d := (m - 125 * tsBits b 99 84) / 2
  { l with delayPs := BitVec.ofNat 32 d, rttPs := BitVec.ofNat 32 (2 * d + 64000) }

/-- The leader on a TS2 (R253): it chooses on the follower's first, and goes on to VERIFY on one with ACK and its own
fields. -/
def leaderTs2 (s : State) (n : LinkId) (b : BitVec 128) (elapsed : Nat) (version : Byte) : State :=
  let l := getLink s n.val
  match l.chosen with
  | none =>
    match choose s n.val b version with
    | none => failAttempt s n 6
    | some c => takeFresh (sendTs (setLink s n.val { l with chosen := some c, ackSent := true }) n 2 0)
  | some c =>
    if tsAck b && l.ackSent then
      if tsChosen b = c then sendTs (setLink s n.val { setDelay l elapsed b with state := .verify }) n 3 0
      else failAttempt s n 2
    else s

/-- The follower on a TS2 (R253): on the leader's with ACK it copies the chosen fields, answers with ACK and goes on to
VERIFY; a width that was narrowed against its own AUTO_NARROW fails the attempt with NO_LANES. -/
def followerTs2 (s : State) (n : LinkId) (b : BitVec 128) (elapsed : Nat) : State :=
  let l := getLink s n.val
  if tsAck b then
    let c := tsChosen b
    if askedWidth l b < c.width.toNat ∧ autoNarrow s n.val = false then failAttempt s n 6
    else
      let s := sendTs (setLink s n.val { setDelay l elapsed b with chosen := some c, ackSent := true }) n 2 ((elapsed - l.turnPs) / 125)
      sendTs (setLink s n.val { getLink s n.val with state := .verify }) n 3 0
  else s

/-- The partner's EXPECT as an ACK in a retrain; none when it is invalid (R255). -/
def takeExpect (l : Link) (b : BitVec 128) : Option Link :=
  let v := BitVec.ofNat 16 (tsBits b 83 68)
  if l.full then some l else if ackValid l v then some (ackTo l v) else none

/-- TS2 (R252 to R256): the coordinate, the version and EXPECT are taken before the choice; LNKnn_PARTNER keeps the coordinate of the
block whatever comes of it (R264). `elapsedPs` is the time since this end's first TS2. -/
def execTs2 (n : LinkId) (b : BitVec 128) (elapsedPs : Nat) (s : State) : Host.Outcome State Fault Refusal :=
  .next (takeBlock s n b (fun s =>
    let l := getLink s n.val
    if l.state ≠ .negotiate ∨ l.failedWait then s
    else
      let l := { l with partner := tsCoord b }
      let s := setLink s n.val l
      let version := if l.full then pickVersion s b else some l.version
      if tsCoord b = coord s then failAttempt s n 5
      else
        match version, takeExpect l b with
        | none, _ => failAttempt s n 4
        | _, none => failAttempt s n 2
        | some v, some l =>
          let lead := decide ((coord s).toNat < (tsCoord b).toNat)
          let s := setLink s n.val { l with
            leader := lead, firstTs2At := true, turnPs := if l.firstTs2At then l.turnPs else elapsedPs }
          if lead then leaderTs2 s n b elapsedPs v else followerTs2 s n b elapsedPs))

/-! ### VERIFY and ACTIVE (R251, R255, R258) -/

/-- TS3 (R250, R251): an error in VERIFY fails the attempt. -/
def execTs3 (n : LinkId) (b : BitVec 128) (s : State) : Host.Outcome State Fault Refusal := .next (takeBlock s n b id)

/-- VERIFY_COMPLETE (R251, R255, R258): TS_DONE, ACTIVE, and a replay of every flit that is still unacknowledged, its replay
counts at zero; LINK_RETRAIN clears. -/
def execVerifyComplete (n : LinkId) (s : State) : Host.Outcome State Fault Refusal :=
  .next (
    let l := getLink s n.val
    match l.chosen with
    | some c =>
      if l.state = .verify ∧ l.failedWait = false then
        let s := setLink s n.val { l with
          state := .active, width := c.width, rate := c.rate, lanes := c.laneSet, version := c.version
          unacked := l.unacked.map (fun f => { f with replays := 0 }) }
        let s := sendTs s n 4 0
        let s := setLink s n.val { getLink s n.val with full := false }
        let s := startReplay s n (oldestSeq (getLink s n.val))
        settleDetour (clearRetrain s n.val)
      else s
    | none => s)

/-! ### Failures (R251, R259) -/

/-- TRAINING_RETRY_TIMER (R251): 100 µs after a failure the next attempt begins. -/
def execTrainingRetryTimer (n : LinkId) (s : State) : Host.Outcome State Fault Refusal :=
  .next (
    let l := getLink s n.val
    if l.failedWait ∧ l.state ≠ .test ∧ l.state ≠ .disabled ∧ l.state ≠ .down then
      nextAttempt s n
    else s)

/-- RETRAIN_TIMEOUT (R259). -/
def execRetrainTimeout (n : LinkId) (s : State) : Host.Outcome State Fault Refusal :=
  .next (
    let l := getLink s n.val
    if attempting l && !l.full then failAttempt s n 3 else s)

/-- MALFORMED_TRAINING_BLOCK (R250): a block that breaks the table ends the attempt with PARITY or PROTOCOL. -/
def execMalformedTrainingBlock (n : LinkId) (b : BitVec 128) (s : State) : Host.Outcome State Fault Refusal :=
  .next (
    match blockError b with
    | some c => badBlock s n b c
    | none => s)

/-! ### TEST (R262) -/

/-- TS_TEST (R262): the first parity error ends the test run; it is counted, with its lane in FAIL_LANE. -/
def execTsTest (n : LinkId) (lane : Fin 4) (b : BitVec 128) (s : State) : Host.Outcome State Fault Refusal :=
  .next (
    let l := getLink s n.val
    if l.state = .test ∧ l.failedWait = false ∧ (List.range 8).all (parityOk b) = false then
      bumpLink (setLink s n.val { l with failedWait := true, failLane := BitVec.ofNat 2 lane.val }) n.val 0x88 1
    else s)

end Sys2Proof.Machine
end

