-- ==== Sys2Proof/Machine/Vector.lean ====
section
/-! DEFINITION. Vector, conversion and special-function instructions (R176 to R181). -/

namespace Sys2Proof.Machine

/-- VMIN and VMAX (R177): the canonical NaN when either is NaN, -0 below +0, and a when the two are bit-identical. -/
def minMax32 (mx : Bool) (a b : Word) : Word :=
  if isNan32 a ∨ isNan32 b then nan32
  else
    let less := fun (x y : Word) => lt32 x y || (isZero32 x && isZero32 y && neg32 x && !neg32 y)
    if mx then (if less a b then b else a) else (if less b a then b else a)

/-- The lane result of VF (R177). VABS clears bit 31 and keeps the payload of a NaN, as R177 says of it alone (R84; log 135, DEDUCED). -/
def vfFn (fn : Nat) (a b c : Word) : Word :=
  if fn = 0 then fadd32 a b
  else if fn = 1 then fadd32 a (flip32 b)
  else if fn = 2 then fmul32 a b
  else if fn = 3 then ffma32 a b c
  else if fn = 4 then minMax32 false a b
  else if fn = 5 then minMax32 true a b
  else a &&& 0x7FFFFFFF

/-- The lane result of VI (R177). -/
def viFn (fn : Nat) (a b : Word) : Word :=
  let sh := b.toNat % 32
  if fn = 0 then a + b
  else if fn = 1 then a - b
  else if fn = 2 then a * b
  else if fn = 3 then a &&& b
  else if fn = 4 then a ||| b
  else if fn = 5 then a ^^^ b
  else if fn = 6 then a <<< sh
  else if fn = 7 then a >>> sh
  else if fn = 8 then a.sshiftRight sh
  else if fn = 9 then (if b.slt a then b else a)
  else if fn = 10 then (if a.slt b then b else a)
  else b

/-- cvt(a, F) of R178, for BF16 and FP16. -/
def cvtNarrow (f : Fmt) (a : Word) : Word :=
  let v := dec32 a
  match v.1 with
  | .nan => BitVec.ofNat 32 (nanOf f)
  | .pinf => BitVec.ofNat 32 (overflow f false .rne false)
  | .ninf => BitVec.ofNat 32 (overflow f true .rne false)
  | .finite => if v.2.n = 0 then BitVec.ofNat 32 (signBit f (neg32 a)) else BitVec.ofNat 32 (roundTo v.2 f .rne false 0)

/-- The exact re-encoding of a 16-bit element as FP32 (R178). -/
def cvtWiden (f : Fmt) (a : Word) : Word :=
  let b := a.toNat % 2 ^ 16
  let v := decode f b
  match v.1 with
  | .nan => nan32
  | .finite => rne32 v.2 (decide (2 ^ 15 ≤ b))
  | c => inf32 c

/-- The lane result of VCVT (R178). -/
def vcvtFn (fn : Nat) (a : Word) : Word :=
  if fn = 0 then cvtNarrow .bf16 a
  else if fn = 1 then cvtNarrow .fp16 a
  else if fn = 2 then cvtWiden .bf16 a
  else if fn = 3 then cvtWiden .fp16 a
  else if fn = 4 then
    match (dec32 a).1 with
    | .nan => 0
    | .pinf => 0x7FFFFFFF
    | .ninf => 0x80000000
    | .finite => BitVec.ofNat 32 (roundInt (dec32 a).2 .int32 .rne 0)
  else BitVec.ofNat 32 (roundTo ⟨a.toInt, 0⟩ .fp32 .rne false 0)

/-- The scalar register of operand B. -/
def srOf (f : VFields) : List Nat := if f.sb then [f.sr.toNat] else []

/-- The vector register of operand B (R176). -/
def vbOf (f : VFields) : List Nat := if f.sb then [] else [f.b.toNat]

/-- The vector registers that a VF names: VABS has no B, and only VFMA has a C (R176, R177). -/
def vfRegs (f : VFields) : List Nat :=
  [f.d.toNat, f.a.toNat] ++ (if f.fn = 6 then [] else vbOf f) ++ (if f.fn = 3 then [f.c.toNat] else [])

/-- The vector registers that a VI names: VMOV has no A (R176, R177). -/
def viRegs (f : VFields) : List Nat := f.d.toNat :: (if f.fn = 0x0F then [] else [f.a.toNat]) ++ vbOf f

/-- VF (R177). -/
def execVf (t : TileRef) (g : GroupId) (gd : Guard) (f : VFields) (s : State) : Host.Outcome State Fault Refusal :=
  let vs := vfRegs f
  decoded (WellFormed.vf f && vregsOk s t vs)
    (issueGroup s t g.val .vector (srOf f) vs (fun y =>
      writeLanes y f.d.toNat (actLanes (guardOf y gd)) (fun i =>
        vfFn f.fn.toNat (vReg y f.a.toNat i) (operandV y f i) (vReg y f.c.toNat i))))

/-- VI (R177). -/
def execVi (t : TileRef) (g : GroupId) (gd : Guard) (f : VFields) (s : State) : Host.Outcome State Fault Refusal :=
  let vs := viRegs f
  decoded (WellFormed.vi f && vregsOk s t vs)
    (issueGroup s t g.val .vector (srOf f) vs (fun y =>
      writeLanes y f.d.toNat (actLanes (guardOf y gd)) (fun i =>
        viFn f.fn.toNat (vReg y f.a.toNat i) (operandV y f i))))

/-- VCVT (R178). -/
def execVcvt (t : TileRef) (g : GroupId) (gd : Guard) (fn : BitVec 6) (d a : BitVec 5) (s : State) :
    Host.Outcome State Fault Refusal :=
  let vs := [d.toNat, a.toNat]
  decoded (decide (fn.toNat ≤ 5) && vregsOk s t vs)
    (issueGroup s t g.val .vector [] vs (fun y =>
      writeLanes y d.toNat (actLanes (guardOf y gd)) (fun i => vcvtFn fn.toNat (vReg y a.toNat i))))

/-- VCMP (R179): sets bit i of p[D] for every guarded lane. -/
def execVcmp (t : TileRef) (g : GroupId) (gd : Guard) (f : VFields) (s : State) : Host.Outcome State Fault Refusal :=
  let vs := f.a.toNat :: vbOf f
  decoded (WellFormed.vcmp f && vregsOk s t vs)
    (issueGroup s t g.val .vector (srOf f) vs (fun y =>
      writePred y f.d.toNat (actLanes (guardOf y gd)) (fun i =>
        vcmpCond f.fn.toNat (vReg y f.a.toNat i) (operandV y f i))))

/-- The reduction of VSUM.CANON over the 64 lanes of v[A] (R180). -/
def vsumFn (fn : Nat) (l : List Word) : Word := if fn = 0 then canonSum l else l.foldl (· + ·) 0

/-- VSUM.CANON (R180): every lane of v[D] takes the reduction of v[A]. -/
def execVsumCanon (t : TileRef) (g : GroupId) (fn : BitVec 6) (d a : BitVec 5) (s : State) :
    Host.Outcome State Fault Refusal :=
  let vs := [d.toNat, a.toNat]
  decoded (decide (fn.toNat ≤ 1) && vregsOk s t vs)
    (issueGroup s t g.val .vector [] vs (fun y =>
      let r := vsumFn fn.toNat ((List.range 64).map (vReg y a.toNat))
      writeLanes y d.toNat (List.range 64) (fun _ => r)))

/-- A special function in every guarded lane (R181). -/
def specialFn (s : State) (t : TileRef) (g : Nat) (gd : Guard) (d a : Nat) (f : Word → Word) : State :=
  issueGroup s t g .vector [] [d, a] (fun y => writeLanes y d (actLanes (guardOf y gd)) (fun i => f (vReg y a i)))

/-- VEXP (R93, R181). -/
def execVexp (t : TileRef) (g : GroupId) (gd : Guard) (d a : BitVec 5) (s : State) : Host.Outcome State Fault Refusal :=
  decoded (vregsOk s t [d.toNat, a.toNat]) (specialFn s t g.val gd d.toNat a.toNat vexp32)

/-- VLOG (R94, R181). -/
def execVlog (t : TileRef) (g : GroupId) (gd : Guard) (d a : BitVec 5) (s : State) : Host.Outcome State Fault Refusal :=
  decoded (vregsOk s t [d.toNat, a.toNat]) (specialFn s t g.val gd d.toNat a.toNat vlog32)

/-- VRSQ (R95, R181). -/
def execVrsq (t : TileRef) (g : GroupId) (gd : Guard) (d a : BitVec 5) (s : State) : Host.Outcome State Fault Refusal :=
  decoded (vregsOk s t [d.toNat, a.toNat]) (specialFn s t g.val gd d.toNat a.toNat vrsq32)

end Sys2Proof.Machine
end

