-- ==== Sys2Proof/Machine/Dispatch.lean ====
section
/-! DEFINITION. One arm per command: a direct call of its meaning. -/

namespace Sys2Proof.Machine

def exec (i : Instr) (s : State) : Host.Outcome State Fault Refusal :=
  match i with
  | .salu t g gd f => Sys2Proof.Machine.execSalu t g gd f s
  | .scmp t g gd f => Sys2Proof.Machine.execScmp t g gd f s
  | .pred t g f => Sys2Proof.Machine.execPred t g f s
  | .ld t g gd f => Sys2Proof.Machine.execLd t g gd f s
  | .st t g gd f dm => Sys2Proof.Machine.execSt t g gd f dm s
  | .br t g gd all wide offset => Sys2Proof.Machine.execBr t g gd all wide offset s
  | .loop t g sel body imm => Sys2Proof.Machine.execLoop t g sel body imm s
  | .nop t g => Sys2Proof.Machine.execNop t g s
  | .msEnd t g => Sys2Proof.Machine.execMsEnd t g s
  | .stop t g => Sys2Proof.Machine.execStop t g s
  | .toll t g scope => Sys2Proof.Machine.execToll t g scope s
  | .sendSlot t g sid line => Sys2Proof.Machine.execSendSlot t g sid line s
  | .recvWait t g tag => Sys2Proof.Machine.execRecvWait t g tag s
  | .rngSeed t g sel imm => Sys2Proof.Machine.execRngSeed t g sel imm s
  | .cntSnap t g d imm => Sys2Proof.Machine.execCntSnap t g d imm s
  | .vf t g gd f => Sys2Proof.Machine.execVf t g gd f s
  | .vi t g gd f => Sys2Proof.Machine.execVi t g gd f s
  | .vcvt t g gd fn d a => Sys2Proof.Machine.execVcvt t g gd fn d a s
  | .vcmp t g gd f => Sys2Proof.Machine.execVcmp t g gd f s
  | .vsumCanon t g fn d a => Sys2Proof.Machine.execVsumCanon t g fn d a s
  | .vexp t g gd d a => Sys2Proof.Machine.execVexp t g gd d a s
  | .vlog t g gd d a => Sys2Proof.Machine.execVlog t g gd d a s
  | .vrsq t g gd d a => Sys2Proof.Machine.execVrsq t g gd d a s
  | .tld t g f => Sys2Proof.Machine.execTld t g f s
  | .xclr t g x kind => Sys2Proof.Machine.execXclr t g x kind s
  | .xld t g f => Sys2Proof.Machine.execXld t g f s
  | .xst t g f => Sys2Proof.Machine.execXst t g f s
  | .mma t g f kind => Sys2Proof.Machine.execMma t g f kind s
  | .rndExs t g f => Sys2Proof.Machine.execRndExs t g f s
  | .xredPack t g f => Sys2Proof.Machine.execXredPack t g f s
  | .xredAdd t g f => Sys2Proof.Machine.execXredAdd t g f s
  | .xredFsum t g d a => Sys2Proof.Machine.execXredFsum t g d a s
  | .xredFcomb t g f => Sys2Proof.Machine.execXredFcomb t g f s
  | .chkRow t g f => Sys2Proof.Machine.execChkRow t g f s
  | .chkCol t g f => Sys2Proof.Machine.execChkCol t g f s
  | .chkCmp t g x rows cols => Sys2Proof.Machine.execChkCmp t g x rows cols s
  | .engineStart t e => Sys2Proof.Machine.execEngineStart t e s
  | .engineEnd t e => Sys2Proof.Machine.execEngineEnd t e s
  | .departure t sid => Sys2Proof.Machine.execDeparture t sid s
  | .slotMissed t sid => Sys2Proof.Machine.execSlotMissed t sid s
  | .lineArrival t tag => Sys2Proof.Machine.execLineArrival t tag s
  | .ldDataReturn t req dm => Sys2Proof.Machine.execLdDataReturn t req dm s
  | .stAck t req => Sys2Proof.Machine.execStAck t req s
  | .partitionResetDone q dm => Sys2Proof.Machine.execPartitionResetDone q dm s
  | .groupSwapStart t => Sys2Proof.Machine.execGroupSwapStart t s
  | .groupSwapEnd t dm => Sys2Proof.Machine.execGroupSwapEnd t dm s
  | .pageSwapDone t page dm => Sys2Proof.Machine.execPageSwapDone t page dm s
  | .chipDone => Sys2Proof.Machine.execChipDone  s
  | .milestoneBoundary dm => Sys2Proof.Machine.execMilestoneBoundary dm s
  | .writeBackStart => Sys2Proof.Machine.execWriteBackStart  s
  | .writeBackDone dm => Sys2Proof.Machine.execWriteBackDone dm s
  | .digestHashDone dm => Sys2Proof.Machine.execDigestHashDone dm s
  | .roadworksContentDone results => Sys2Proof.Machine.execRoadworksContentDone results s
  | .jobStart => Sys2Proof.Machine.execJobStart  s
  | .restartBoundary dm => Sys2Proof.Machine.execRestartBoundary dm s
  | .waymark n w => Sys2Proof.Machine.execWaymark n w s
  | .relay n w => Sys2Proof.Machine.execRelay n w s
  | .start n w => Sys2Proof.Machine.execStart n w s
  | .hold n w => Sys2Proof.Machine.execHold n w s
  | .release n w => Sys2Proof.Machine.execRelease n w s
  | .resume => Sys2Proof.Machine.execResume  s
  | .rippleTimeout => Sys2Proof.Machine.execRippleTimeout  s
  | .hopUnitReceive h u => Sys2Proof.Machine.execHopUnitReceive h u s
  | .hopSend h => Sys2Proof.Machine.execHopSend h s
  | .creditStarved n => Sys2Proof.Machine.execCreditStarved n s
  | .flitTransmit n => Sys2Proof.Machine.execFlitTransmit n s
  | .flitReceive n via f => Sys2Proof.Machine.execFlitReceive n via f s
  | .nakTimeout n => Sys2Proof.Machine.execNakTimeout n s
  | .replayTimeout n => Sys2Proof.Machine.execReplayTimeout n s
  | .linkReplayAllowanceExpiry n => Sys2Proof.Machine.execLinkReplayAllowanceExpiry n s
  | .lossOfSignal n lane => Sys2Proof.Machine.execLossOfSignal n lane s
  | .signalLock n lane => Sys2Proof.Machine.execSignalLock n lane s
  | .ts1 n b => Sys2Proof.Machine.execTs1 n b s
  | .ts2 n b elapsedPs => Sys2Proof.Machine.execTs2 n b elapsedPs s
  | .ts3 n b => Sys2Proof.Machine.execTs3 n b s
  | .tsTest n lane b => Sys2Proof.Machine.execTsTest n lane b s
  | .pauseTimerExpiry n => Sys2Proof.Machine.execPauseTimerExpiry n s
  | .alignDone n lanesOk orderOk => Sys2Proof.Machine.execAlignDone n lanesOk orderOk s
  | .verifyComplete n => Sys2Proof.Machine.execVerifyComplete n s
  | .trainingRetryTimer n => Sys2Proof.Machine.execTrainingRetryTimer n s
  | .retrainTimeout n => Sys2Proof.Machine.execRetrainTimeout n s
  | .ownStretch d margins => Sys2Proof.Machine.execOwnStretch d margins s
  | .sympatheticStretch d port => Sys2Proof.Machine.execSympatheticStretch d port s
  | .crossingAlert d port plus => Sys2Proof.Machine.execCrossingAlert d port plus s
  | .realignment q => Sys2Proof.Machine.execRealignment q s
  | .clockLoss c => Sys2Proof.Machine.execClockLoss c s
  | .powerTick => Sys2Proof.Machine.execPowerTick  s
  | .powerSample r => Sys2Proof.Machine.execPowerSample r s
  | .powerEstimate => Sys2Proof.Machine.execPowerEstimate  s
  | .brdThrotEdge level => Sys2Proof.Machine.execBrdThrotEdge level s
  | .ptpSync p m => Sys2Proof.Machine.execPtpSync p m s
  | .followUp p m => Sys2Proof.Machine.execFollowUp p m s
  | .delayResp p m => Sys2Proof.Machine.execDelayResp p m s
  | .delayReq p m => Sys2Proof.Machine.execDelayReq p m s
  | .ptpSyncInterval p => Sys2Proof.Machine.execPtpSyncInterval p s
  | .timeWrap => Sys2Proof.Machine.execTimeWrap  s
  | .tmeOutPulse k => Sys2Proof.Machine.execTmeOutPulse k s
  | .tmeInCapture j rising => Sys2Proof.Machine.execTmeInCapture j rising s
  | .scrub hbm t2 => Sys2Proof.Machine.execScrub hbm t2 s
  | .tick => Sys2Proof.Machine.execTick  s
  | .sealComplete => Sys2Proof.Machine.execSealComplete  s
  | .sealFlashStoreDone ok => Sys2Proof.Machine.execSealFlashStoreDone ok s
  | .registerWrite src addr data => Sys2Proof.Machine.execRegisterWrite src addr data s
  | .genScratch src data => Sys2Proof.Machine.execGenScratch src data s
  | .jrnCtrlSeal src data => Sys2Proof.Machine.execJrnCtrlSeal src data s
  | .jrnCtrlSealFlash src data => Sys2Proof.Machine.execJrnCtrlSealFlash src data s
  | .jrnRetainHi src data => Sys2Proof.Machine.execJrnRetainHi src data s
  | .tmeAdj src data => Sys2Proof.Machine.execTmeAdj src data s
  | .tmeCtrlUnset src data => Sys2Proof.Machine.execTmeCtrlUnset src data s
  | .tmeOutEn src k data => Sys2Proof.Machine.execTmeOutEn src k data s
  | .topCoord src data => Sys2Proof.Machine.execTopCoord src data s
  | .topShape src data => Sys2Proof.Machine.execTopShape src data s
  | .lnkCtrlRetrain src n data => Sys2Proof.Machine.execLnkCtrlRetrain src n data s
  | .lnkCtrlTest src n data => Sys2Proof.Machine.execLnkCtrlTest src n data s
  | .lnkCtrlEnable src n data => Sys2Proof.Machine.execLnkCtrlEnable src n data s
  | .lnkCtrlDiscard src n data => Sys2Proof.Machine.execLnkCtrlDiscard src n data s
  | .clkQdFreqDiv src q data => Sys2Proof.Machine.execClkQdFreqDiv src q data s
  | .clkSscEn src data => Sys2Proof.Machine.execClkSscEn src data s
  | .hostCtrlUnbind src data => Sys2Proof.Machine.execHostCtrlUnbind src data s
  | .mgtCtrlFec src data => Sys2Proof.Machine.execMgtCtrlFec src data s
  | .bootCtrlReboot src data => Sys2Proof.Machine.execBootCtrlReboot src data s
  | .hello r => Sys2Proof.Machine.execHello r s
  | .regRead r => Sys2Proof.Machine.execRegRead r s
  | .regWrite r => Sys2Proof.Machine.execRegWrite r s
  | .load r content dm => Sys2Proof.Machine.execLoad r content dm s
  | .patch r => Sys2Proof.Machine.execPatch r s
  | .commit r dm => Sys2Proof.Machine.execCommit r dm s
  | .commitJoin r dm => Sys2Proof.Machine.execCommitJoin r dm s
  | .abort r => Sys2Proof.Machine.execAbort r s
  | .unload r => Sys2Proof.Machine.execUnload r s
  | .seed r => Sys2Proof.Machine.execSeed r s
  | .tollgate r => Sys2Proof.Machine.execTollgate r s
  | .retraceCommand r => Sys2Proof.Machine.execRetraceCommand r s
  | .detour r => Sys2Proof.Machine.execDetour r s
  | .survey r => Sys2Proof.Machine.execSurvey r s
  | .surveyFire => Sys2Proof.Machine.execSurveyFire  s
  | .shadowRead r => Sys2Proof.Machine.execShadowRead r s
  | .qpOpen r => Sys2Proof.Machine.execQpOpen r s
  | .qpClose r => Sys2Proof.Machine.execQpClose r s
  | .jrnRead r dm => Sys2Proof.Machine.execJrnRead r dm s
  | .sealRead r dm => Sys2Proof.Machine.execSealRead r dm s
  | .reportRead r => Sys2Proof.Machine.execReportRead r s
  | .imgBegin r => Sys2Proof.Machine.execImgBegin r s
  | .imgData r => Sys2Proof.Machine.execImgData r s
  | .imgVerify r dm => Sys2Proof.Machine.execImgVerify r dm s
  | .imgStore r => Sys2Proof.Machine.execImgStore r s
  | .imgStoreDone same dm => Sys2Proof.Machine.execImgStoreDone same dm s
  | .flashRead r => Sys2Proof.Machine.execFlashRead r s
  | .idKey r => Sys2Proof.Machine.execIdKey r s
  | .attest r => Sys2Proof.Machine.execAttest r s
  | .attestDone => Sys2Proof.Machine.execAttestDone  s
  | .attestRead r => Sys2Proof.Machine.execAttestRead r s
  | .rdmaWrite h p data dm => Sys2Proof.Machine.execRdmaWrite h p data dm s
  | .rdmaRead h rkey addr length dm => Sys2Proof.Machine.execRdmaRead h rkey addr length dm s
  | .arpRequest p a => Sys2Proof.Machine.execArpRequest p a s
  | .operationBetweenChips r => Sys2Proof.Machine.execOperationBetweenChips r s
  | .forwardTimeout frame => Sys2Proof.Machine.execForwardTimeout frame s
  | .i3cPrivateWrite addr data => Sys2Proof.Machine.execI3cPrivateWrite addr data s
  | .i3cPrivateReadRequest addr => Sys2Proof.Machine.execI3cPrivateReadRequest addr s
  | .i3cPrivateRead length => Sys2Proof.Machine.execI3cPrivateRead length s
  | .entdaa addr => Sys2Proof.Machine.execEntdaa addr s
  | .porstAssert => Sys2Proof.Machine.execPorstAssert  s
  | .porstRelease f => Sys2Proof.Machine.execPorstRelease f s
  | .wrstAssert => Sys2Proof.Machine.execWrstAssert  s
  | .wrstRelease f => Sys2Proof.Machine.execWrstRelease f s
  | .lpddrTrainingDone ok units => Sys2Proof.Machine.execLpddrTrainingDone ok units s
  | .imageCheckDone => Sys2Proof.Machine.execImageCheckDone  s
  | .bootReady => Sys2Proof.Machine.execBootReady  s
  | .slewEnd => Sys2Proof.Machine.execSlewEnd  s
  | .portLinkUp p => Sys2Proof.Machine.execPortLinkUp p s
  | .portLinkDown p => Sys2Proof.Machine.execPortLinkDown p s
  | .discardedFrame p f => Sys2Proof.Machine.execDiscardedFrame p f s
  | .badFrame r => Sys2Proof.Machine.execBadFrame r s
  | .i3cOtherPrivateWrite => Sys2Proof.Machine.execI3cOtherPrivateWrite  s
  | .malformedTrainingBlock n b => Sys2Proof.Machine.execMalformedTrainingBlock n b s

end Sys2Proof.Machine
end

