-- ==== Sys2Proof/Machine/Arrivals.lean ====
section
/-! DEFINITION. Operations that other chips forwarded (R416): the management engine takes them in the order in which they arrived, as if
they had come on its own port. -/

namespace Sys2Proof.Machine

/-- The row that an operation of the management port names by its OP; an opcode that the port does not have is a bad frame (R406). What
its reads of memory meet is nothing: the row's own command brings damage (log 59). -/
def commandOf (r : Req) : Instr :=
  match reqOp r with
  | 0x01 => .hello r
  | 0x02 => .regRead r
  | 0x03 => .regWrite r
  | 0x13 => .abort r
  | 0x21 => .retraceCommand r
  | 0x28 => .survey r
  | 0x29 => .shadowRead r
  | 0x40 => .jrnRead r []
  | 0x41 => .sealRead r []
  | 0x42 => .reportRead r
  | 0x50 => .imgBegin r
  | 0x51 => .imgData r
  | 0x52 => .imgVerify r []
  | 0x53 => .imgStore r
  | 0x54 => .flashRead r
  | 0x55 => .idKey r
  | 0x56 => .attest r
  | 0x57 => .attestRead r
  | _ => .badFrame r

/-- A forwarded frame as the operation of its station, whose key is the coordinate of the chip that forwarded it with the STATION of the
frame (R402, R417). -/
def forwardedReq (a : Arrived) : Req :=
  { sender := .mgt (.forwarded a.via (BitVec.ofNat 16 (num a.frame 24 2))), dport := 0, frame := a.frame }

/-- The forwarded operation that has waited longest is performed, or goes on over the links where TOP_COORD has changed since it came and it
is another chip's now (R416). -/
def serveArrived (s : State) : Host.Outcome State Fault Refusal :=
  match s.ports.arrived with
  | [] => .next s
  | a :: l =>
    let r := forwardedReq a
    if forOther s r then .next (passFrame { s with ports := { s.ports with arrived := l } } a.link a.via (reqTarget r) a.frame)
    else exec (commandOf r) s

/-- A step that finds no command waiting: a forwarded operation, if one has arrived, and then one ns. -/
def quietStep (s : State) : Host.Outcome State Fault Refusal :=
  match serveArrived s with
  | .next t => .next (idle t)
  | o => o

end Sys2Proof.Machine
end

