-- ==== Sys2Proof/Safety.lean ====
section
/-! DEFINITION. What claims call a well-kept state: device memory and its mirror are in canonical form, the keyed tables of
the state have strictly rising keys, and the journal's chain links every record to the one before it (R55). -/

namespace Sys2Proof.SMap

/-- The keys of a table strictly rise. -/
def rising {α : Type} : List (Nat × α) → Bool
  | [] => true
  | p :: r => above p.1 r && rising r

end Sys2Proof.SMap

namespace Sys2Proof.Machine

/-- Device memory and its mirror keep their canonical form: addresses rise, and no entry equals what an unlisted address reads
as, which is no value, or 0 inside a span left as zero (R311). -/
def Memory.wf (m : DevMem) : Bool :=
  SMap.wf none m.bytes && SMap.wf none m.mirror && m.bytes.all (fun p => !(decide (p.2 = some 0) && inZeroed m p.1))

/-- The registers of a group are keyed tables. -/
def Group.keyed (y : Group) : Bool := SMap.rising y.s && SMap.rising y.p && SMap.rising y.v

/-- The groups, the scratchpad, the tags and the accumulators of a tile are keyed tables. -/
def Tile.keyed (x : Tile) : Bool :=
  SMap.rising x.groups && x.groups.all (fun p => p.2.keyed) && SMap.rising x.spad && SMap.rising x.tags &&
  SMap.rising x.t && SMap.rising x.x

/-- Every retain copy holds bytes of its own block alone, by address. -/
def DevMem.copied (m : DevMem) : Bool := m.retained.all (fun c => SMap.rising c.bytes && c.bytes.all (fun p => p.1 / 4096 == c.block))

/-- No spill page is placed twice, and each of them lies in the spill space. -/
def DevMem.spilled (m : DevMem) : Bool :=
  decide (m.spill.map (·.1)).Nodup && m.spill.all (fun p => inSpill (2 ^ 21 * p.1))

/-- The tables of the state that commands read and write by key have strictly rising keys, and the retain copies and the spill pages of
device memory are in order. -/
def State.keyed (s : State) : Bool :=
  SMap.rising s.csr && SMap.rising s.cnt && SMap.rising s.tiles && s.tiles.all (fun p => p.2.keyed) &&
  SMap.rising s.links && SMap.rising s.dists && SMap.rising s.hops && SMap.rising s.seeds &&
  SMap.rising s.mem.bytes && (SMap.rising s.mem.tags && s.mem.copied && s.mem.spilled)

/-- The draft that a record was made from. -/
def Record.draft (r : Record) : Draft :=
  { milestone := r.milestone, type := r.type, srcFlags := r.srcFlags, time := r.time, a0 := r.a0, a1 := r.a1, a2 := r.a2 }

/-- Every record after the first has the next number and the chain value that R55 computes from the record before it. -/
def linked : List Record → Bool
  | a :: b :: r => decide (b.recno = a.recno + 1) && decide (b.chain = chainOf a.chain b.recno b.draft) && linked (b :: r)
  | _ => true

/-- The journal's records are linked, the last one is the chain's head, and before the first record the chain is 32 zero bytes. -/
def Journal.chained (j : Journal) : Bool :=
  linked j.records && (decide (j.next ≠ 0) || decide (j.chain = 0)) &&
  (match j.records.getLast? with
   | some r => decide (r.recno + 1 = j.next) && decide (r.chain = j.chain)
   | none => true)

end Sys2Proof.Machine

/-! ### The shapes of the claims about tiles

`s` is the state before a command and `u` the state after it. -/

namespace Sys2Proof.Claims

open Sys2Proof.Machine

/-- The counter ISSUE of the position on which a tile runs (R123). -/
def issueKey (s : State) (t : TileRef) : Nat := tileBase t.d.val (posOf s t) + 0x10

/-- One instruction of group g of tile t has issued on port p and left the context z: the slate of the cycle gains the group's slot
and the port (R101), ISSUE counts it, its power is charged (R359), and nothing else changes: no other group or tile, no other counter,
no byte of a scratchpad or of device memory, no other part of the state. -/
structure Issued (s u : State) (t : TileRef) (g : Nat) (p : Port) (z : Group) : Prop where
  group : getGroup (getTile u t) g = z
  groups : ∀ h, h ≠ g → getGroup (getTile u t) h = getGroup (getTile s t) h
  tile : getTile u t = { getTile s t with
    groups := (getTile u t).groups, slate := (getTile s t).slate ++ [((getGroup (getTile s t) g).slot, p)] }
  tiles : ∀ r, r ≠ t → getTile u r = getTile s r
  scratch : ∀ r a, SMap.get 0 (getTile u r).spad a = SMap.get 0 (getTile s r).spad a
  memory : ∀ a, memByte u a = memByte s a
  issue : getCnt u (issueKey s t) = (getCnt s (issueKey s t)).add 1
  counters : ∀ a, a ≠ issueKey s t → getCnt u a = getCnt s a
  power : u.pwr = (chargeIssue s t.d.val p).pwr
  frame : u = { s with tiles := u.tiles, cnt := u.cnt, pwr := u.pwr }

/-- z is y past its instruction (R134, R148), with `f k` in s[d][k] for the listed threads; s0 reads zero and discards writes
(R131); every other register is as before. -/
structure WritesS (y z : Group) (d : Nat) (ks : List Nat) (f : Nat → DWord) : Prop where
  new : ∀ k, k ∈ ks → d ≠ 0 → sReg z d k = f k
  old : ∀ r k, k < 32 → ¬ (r = d ∧ k ∈ ks) → sReg z r k = sReg y r k
  zero : ∀ k, sReg z 0 k = 0
  rest : z = { advance y with s := z.s }

/-- z is y past its instruction, with `f i` in lane i of v[d] for the listed lanes; every other register is as before. -/
structure WritesV (y z : Group) (d : Nat) (is : List Nat) (f : Nat → Word) : Prop where
  new : ∀ i, i ∈ is → vReg z d i = f i
  old : ∀ r i, i < 64 → ¬ (r = d ∧ i ∈ is) → vReg z r i = vReg y r i
  rest : z = { advance y with v := z.v }

/-- z is y past its instruction, with `f k` in bit k of p[d] for the listed bits and every other bit of p[d] as before; every
other register is as before. -/
structure WritesP (y z : Group) (d : Nat) (ks : List Nat) (f : Nat → Bool) : Prop where
  new : ∀ k, k ∈ ks → (pReg z d).getLsbD k = f k
  old : ∀ k, k ∉ ks → (pReg z d).getLsbD k = (pReg y d).getLsbD k
  others : ∀ r, r ≠ d → pReg z r = pReg y r
  rest : z = { advance y with p := z.p }

/-- Group g of tile t issues an instruction on port p that names the scalar registers ss and the vector registers vs: it is ready, the
issue stage takes it in this cycle, and none of the registers waits for data (R100, R101, R134). -/
abbrev Runs (s : State) (t : TileRef) (g : Nat) (p : Port) (ss vs : List Nat) : Prop :=
  s.keyed = true ∧ canIssue s t g p = true ∧ regsFree (getGroup (getTile s t) g) ss vs = true

/-- The engine instruction `op` of group g of tile t has been queued on engine e: the group, now with the context z, goes on;
the send table is `sends`; no destination of the instruction changes before it ends. -/
structure Queued (s u : State) (t : TileRef) (g : Nat) (e : EngineId) (op : EngOp) (z : Group) (sends : List SendEntry) :
    Prop where
  queue : (getTile u t).queue = (getTile s t).queue ++ [{ id := (getTile s t).nextOp, engine := e, group := g, op := op }]
  group : getGroup (getTile u t) g = z
  groups : ∀ h, h ≠ g → getGroup (getTile u t) h = getGroup (getTile s t) h
  tile : getTile u t = { getTile s t with
    queue := (getTile u t).queue, nextOp := (getTile s t).nextOp + 1, groups := (getTile u t).groups
    tags := (getTile u t).tags, tUse := (getTile u t).tUse, xUse := (getTile u t).xUse
    locks := (getTile u t).locks, sends := sends
    slate := (getTile s t).slate ++ [((getGroup (getTile s t) g).slot, portOf e)] }
  tiles : ∀ r, r ≠ t → getTile u r = getTile s r
  memory : ∀ a, memByte u a = memByte s a
  issue : getCnt u (issueKey s t) = (getCnt s (issueKey s t)).add 1
  counters : ∀ a, a ≠ issueKey s t → getCnt u a = getCnt s a
  power : u.pwr = (chargeIssue s t.d.val (portOf e)).pwr
  frame : u = { s with tiles := u.tiles, cnt := u.cnt, pwr := u.pwr }

/-- Group g of tile t can queue `op` on engine e: it can issue, the registers it names hold their data, no instruction of its own that
is still queued holds a line of it, the queue has a free entry, every page is in a frame and nothing is violated (R100, R101, R104, R106,
R107, R111, R165, R166). -/
abbrev Queues (s : State) (t : TileRef) (g : Nat) (e : EngineId) (op : EngOp) (ss vs : List Nat) : Prop :=
  Runs s t g (portOf e) ss vs ∧ ownHolds (getTile s t) g op = false ∧ (queueOf (getTile s t) e).length < queueCap e ∧
  opMissing (getTile s t) false op = [] ∧ issueCheck (getTile s t) g op = none

/-- Whether a GROUP, TILE or DISTRICT tollgate completes as group g of a primary tile reaches it (R152): no request entry of the
group, or of any group of the scope, is outstanding, and every other group of the scope has reached it. -/
def tollPasses (s : State) (t : TileRef) (g scope : Nat) : Bool :=
  let x := getTile s t
  let rest := x.groups.all (fun p => decide (p.1 = g) || atScope scope p.2)
  if scope = 0 then !holdsReq x g
  else if scope = 1 then x.reqs.isEmpty && rest
  else x.reqs.isEmpty && rest &&
    (liveTiles s t.d).all (fun r => decide (r = t) || tileAt 2 (getTile s r))

/-- The tile and the group of a tile instruction. -/
def instrTile : Instr → Option (TileRef × GroupId)
  | .salu t g _ _ => some (t, g)
  | .scmp t g _ _ => some (t, g)
  | .pred t g _ => some (t, g)
  | .ld t g _ _ => some (t, g)
  | .st t g _ _ _ => some (t, g)
  | .br t g _ _ _ _ => some (t, g)
  | .loop t g _ _ _ => some (t, g)
  | .nop t g => some (t, g)
  | .msEnd t g => some (t, g)
  | .stop t g => some (t, g)
  | .toll t g _ => some (t, g)
  | .sendSlot t g _ _ => some (t, g)
  | .recvWait t g _ => some (t, g)
  | .rngSeed t g _ _ => some (t, g)
  | .cntSnap t g _ _ => some (t, g)
  | .vf t g _ _ => some (t, g)
  | .vi t g _ _ => some (t, g)
  | .vcvt t g _ _ _ _ => some (t, g)
  | .vcmp t g _ _ => some (t, g)
  | .vsumCanon t g _ _ _ => some (t, g)
  | .vexp t g _ _ _ => some (t, g)
  | .vlog t g _ _ _ => some (t, g)
  | .vrsq t g _ _ _ => some (t, g)
  | .tld t g _ => some (t, g)
  | .xclr t g _ _ => some (t, g)
  | .xld t g _ => some (t, g)
  | .xst t g _ => some (t, g)
  | .mma t g _ _ => some (t, g)
  | .rndExs t g _ => some (t, g)
  | .xredPack t g _ => some (t, g)
  | .xredAdd t g _ => some (t, g)
  | .xredFsum t g _ _ => some (t, g)
  | .xredFcomb t g _ => some (t, g)
  | .chkRow t g _ => some (t, g)
  | .chkCol t g _ => some (t, g)
  | .chkCmp t g _ _ _ => some (t, g)
  | _ => none

/-- The port of a tile instruction (R101, R162). -/
def instrPort : Instr → Port
  | .vf _ _ _ _ => .vector
  | .vi _ _ _ _ => .vector
  | .vcvt _ _ _ _ _ _ => .vector
  | .vcmp _ _ _ _ => .vector
  | .vsumCanon _ _ _ _ _ => .vector
  | .vexp _ _ _ _ _ => .vector
  | .vlog _ _ _ _ _ => .vector
  | .vrsq _ _ _ _ _ => .vector
  | .ld _ _ _ _ => .memory
  | .st _ _ _ _ _ => .memory
  | .sendSlot _ _ _ _ => .transfer
  | .recvWait _ _ _ => .transfer
  | .xredPack _ _ _ => .transfer
  | .xredAdd _ _ _ => .transfer
  | .xredFsum _ _ _ _ => .transfer
  | .xredFcomb _ _ _ => .transfer
  | .tld _ _ _ => .matrix
  | .xclr _ _ _ _ => .matrix
  | .xld _ _ _ => .matrix
  | .xst _ _ _ => .matrix
  | .mma _ _ _ _ => .matrix
  | .rndExs _ _ _ => .matrix
  | .chkRow _ _ _ => .matrix
  | .chkCol _ _ _ => .matrix
  | .chkCmp _ _ _ _ _ => .matrix
  | _ => .scalar

/-! ### The shapes of the other claims -/

/-! ### The shapes of the claims about register writes -/

/-- A register with no behaviour of its own and no state elsewhere: a write stores its fields and starts nothing. -/
def plainReg (a : Nat) : Bool :=
  !([0x10004, 0x10040, 0x20000, 0x20004, 0x20018, 0x2001C, 0x50000, 0x50010, 0x50018, 0x50020, 0x50030, 0x50034, 0x80004,
    0x90004, 0xB0000, 0xB0004].contains a) &&
  !(decide (0x30010 ≤ a) && decide (a < 0x30050) && a % 0x10 == 0) &&
  !(decide (0x50040 ≤ a) && decide (a < 0x50080) && a % 0x10 == 0) &&
  !(decide (0x100000 ≤ a) && decide (a < 0x280000) && a % 0x10000 == 0)

/-- Every register write that waits for a boundary, or for one to be reverted or reapplied at it, is of a register without a behaviour of its
own. -/
def quietWrites (s : State) : Bool :=
  s.sch.staged.all (fun w => plainReg w.addr) && s.sch.schedule.all (fun e => plainReg e.2.1) &&
  s.sch.reapply.all (fun e => plainReg e.addr) && s.sch.effected.all (fun e => plainReg e.addr) &&
  s.sch.leftover.all (fun p => plainReg p.1.addr)

/-- The journal has room for every record that a boundary can ask for, and nothing waits for a release (R66): a boundary asks for fewer than
2,000 records beside those of the writes that wait. -/
def ampleRoom (s : State) : Bool :=
  s.jrn.kept && s.jrn.held.isEmpty && s.jrn.late.isEmpty && s.sch.leftover.isEmpty && decide (s.sch.overdue = 0) &&
  decide (occupancy s + 2000 + 2 * (s.sch.staged.length + s.sch.schedule.length + s.sch.reapply.length + s.sch.effected.length) ≤ jrnCap)

/-- The RW bits of a register (R3). -/
def rwOf (a : Nat) : Word :=
  match regInfo a with
  | some i => i.rw
  | none => 0

/-- The RW bits of register a, which read `v`, after writes in order; a rule of a register may leave some of them as they are (R3, R53). -/
def afterWrites (s : State) (a : Nat) (v : Word) (l : List (Nat × Word)) : Word :=
  l.foldl (fun v p => if p.1 = a then putMask v p.2 (rwOf a &&& ~~~ refusedBits s a p.2) else v) v

/-- What tells a WRITE record of a boundary: its type, its source and flags but for NOEFFECT, its address and its TIME (R52 to R54). -/
def writeKey (r : Record) : Byte × Byte × Word × Word := (r.type, r.srcFlags &&& 0xBF, r.a0, r.time)

/-- The key of a record of a write from `src`, with REVERT (1), REAPPLY (2) or SCHEDULED (8), to an address (R53). -/
def keyOf (src flags a : Nat) (time : Word) : Byte × Byte × Word × Word := (1, BitVec.ofNat 8 (src + 16 * flags), BitVec.ofNat 32 a, time)

/-- A write of register a is accepted and immediate, and its record can be appended at once (R43, R59, R66). -/
abbrev WritesNow (s : State) (a : Nat) : Prop :=
  s.keyed = true ∧ writeRefusal s a = none ∧ isStaged s a = false ∧ roomNow s = true

/-- A register's RW and W1C fields after a write of d (R3, R4, R53). -/
def writtenReg (s : State) (a : Nat) (d : Word) : Word :=
  match regInfo a with
  | some i => putMask (getReg s a) d (i.rw &&& ~~~ refusedBits s a d) &&& ~~~ (d &&& i.w1c)
  | none => getReg s a

/-- Beyond the journal's records `before`, u holds one WRITE record of d written to a, as s stood (R52 to R55). -/
def RecordsWrite (s u : State) (before : List Record) (src : Source) (a : Nat) (d : Word) : Prop :=
  ∃ r, u.jrn.records = before ++ [r] ∧ r.recno = s.jrn.next ∧ r.type = 1 ∧ r.a0 = BitVec.ofNat 32 a ∧
    r.a1 = readReg s a ∧ r.time = localTime s ∧ r.milestone = recordMs s ∧
    r.srcFlags = BitVec.ofNat 8 (srcCode src + 16 * (if noEffect s a d then 4 else 0)) ∧
    r.chain = chainOf s.jrn.chain r.recno r.draft ∧ u.jrn.next = s.jrn.next + 1

/-- An access of a source drops no station's holding registers: at most 64 stations hold any, this source among them (R417). -/
abbrev KeepsStations (s : State) (src : Source) : Prop :=
  ((s.holding.filter (fun h => h.src != accessSource src)).filter isStation).length +
    flag (isStation { src := accessSource src }) ≤ 64

/-- What no register write reaches: tiles, units between hops, device memory, slots and waiting writes. -/
def WriteFar (s u : State) : Prop :=
  u.tiles = s.tiles ∧ u.flights = s.flights ∧ u.mem = s.mem ∧ u.slots = s.slots ∧ u.seeds = s.seeds ∧ u.pending = s.pending ∧
  u.sch.staged = s.sch.staged ∧ u.sch.committed = s.sch.committed ∧ u.sch.milestone = s.sch.milestone

/-! ### The shapes of the claims about operations -/

/-- The frame of a command that is an operation, and its opcode (R406). -/
def operation : Instr → Option (Req × Nat)
  | .hello r => some (r, 0x01)
  | .regRead r => some (r, 0x02)
  | .regWrite r => some (r, 0x03)
  | .load r _ _ => some (r, 0x10)
  | .patch r => some (r, 0x11)
  | .abort r => some (r, 0x13)
  | .unload r => some (r, 0x14)
  | .seed r => some (r, 0x15)
  | .tollgate r => some (r, 0x20)
  | .retraceCommand r => some (r, 0x21)
  | .detour r => some (r, 0x22)
  | .survey r => some (r, 0x28)
  | .shadowRead r => some (r, 0x29)
  | .qpOpen r => some (r, 0x30)
  | .qpClose r => some (r, 0x31)
  | .jrnRead r _ => some (r, 0x40)
  | .sealRead r _ => some (r, 0x41)
  | .reportRead r => some (r, 0x42)
  | .imgBegin r => some (r, 0x50)
  | .imgData r => some (r, 0x51)
  | .imgVerify r _ => some (r, 0x52)
  | .imgStore r => some (r, 0x53)
  | .flashRead r => some (r, 0x54)
  | .idKey r => some (r, 0x55)
  | .attest r => some (r, 0x56)
  | .attestRead r => some (r, 0x57)
  | _ => none

/-- The counter of commands or operations accepted from a source (R429, R430). -/
def opCounter (src : Source) : Nat := if fromHost src then 0x80100 else 0x90100

/-- The frame of the operation `op` has reached this chip and is for it, its UDP port and MAGIC give it to the engine of its port, and
it is not still on its way to its own completion (R397, R402, R404). -/
abbrev Reaches (s : State) (r : Req) (op : Nat) : Prop :=
  s.keyed = true ∧ isFor s r op = true ∧ dispatched s r = true ∧ awaitsTollgate s r = false

/-- The operation is carried out: it repeats none, and nothing refuses it before it is looked at (R402 to R406). -/
abbrev Served (s : State) (r : Req) (op : Nat) : Prop :=
  Reaches s r op ∧ keptFor s r op = none ∧ refusal s r op = none

/-- The state in which an operation is carried out: its frame is taken, and it is counted. -/
def begun (s : State) (r : Req) : State := countOp (takeReq s r) r.sender

/-- The command c is answered with a status and a body, out of a state m that satisfies P: what completing does to m is one rule for
every operation (R402, R404, R405, R416). -/
def Answers (c : Instr) (s : State) (r : Req) (op status : Nat) (body : List Byte) (P : State → Prop) : Prop :=
  ∃ m, exec c s = .next (complete m r op status body) ∧ P m

/-- The command c is carried out by being answered, and in no other way. -/
def OnlyAnswers (c : Instr) (s : State) (r : Req) (op status : Nat) (body : List Byte) : Prop :=
  exec c s = .next (complete (begun s r) r op status body)

/-- A record of the given type, source and arguments that u has beyond s (R52 to R54). -/
def NewRecord (s u : State) (type : Byte) (src : Source) (a0 a1 a2 : Word) : Prop :=
  ∃ r, r ∈ u.jrn.records ∧ r.recno = s.jrn.next ∧ r.type = type ∧ r.srcFlags = BitVec.ofNat 8 (srcCode src) ∧ r.a0 = a0 ∧
    r.a1 = a1 ∧ r.a2 = a2 ∧ r.time = localTime s ∧ r.milestone = recordMs s

/-- An itinerary is committed from slot i with the schedule es, for the logical chip l, by a COMMIT that met the state t (R222, R273,
R412). -/
def Commits (t u : State) (i : Fin 4) (x : Slot) (es : List (Nat × Nat × Word)) (start : Word) : Prop :=
  u.sch.committed = some i ∧ u.sch.lchip = ownLogical t ∧ u.sch.startTime = start ∧ u.sch.schedule = es ∧
  (∀ n, n ∈ activeLinks t → (getLink u n).wayQ = (getLink t n).wayQ ++ [wayBytes { ownFlit u 5 with jobMs := BitVec.allOnes 48 }]) ∧
  u.sch.running = false ∧ u.sch.milestone = t.sch.milestone ∧
  (∃ y, getSlot u i = some y ∧ y.content = x.content ∧ y.bytes = x.bytes ∧ y.schedule = es) ∧
  (∀ p, p ∈ chipTiles → (getTile u p).prog = progOf x.content (ownLogical t) p) ∧
  getReg u 0x000B0008 = depMaskOf u ∧ (∀ a, a ≠ 0x000B0008 → getReg u a = getReg t a) ∧
  u.mem = { t.mem with tags := u.mem.tags } ∧ u.seeds = t.seeds ∧ u.tme = t.tme

end Sys2Proof.Claims
end

