-- ==== Sys2Proof/Certificates/Slice0/Obligations.lean ====
section
/-! DEFINITION. The statements for the provers. In each of them `s` is the state before a command and `u` the state after it. -/

open Sys2Proof Sys2Proof.Machine Sys2Proof.Claims

/-! ### The queue -/

/-- A step takes the command at the front of the queue and is exec of it with the queue's rest. With no command waiting, the operation that
another chip forwarded first is performed, if one has arrived (R416; that such a step performs it is the model's choice, log 59), and one
ns of the time domain passes (the model's choice, log 4): where no output is armed, no store runs and no measurement waits, C rises by one
and O by RATE + SLEW (R378), SLEW runs out after its Δ ns (R383), W rises when local time passes to 0 (R387) and an event of class 14 is
counted (R359); in READY the dies' clocks then move and the recoveries that end by themselves come in their turn (R215). In power-on reset
nothing counts. -/
def Obligations.StepRunsTheQueue : Prop :=
  (∀ (c : Instr) (r : List Instr) (s : State), step { s with pending := c :: r } = exec c { s with pending := r }) ∧
  (∀ (s : State) (a : Arrived) (r : List Arrived), s.pending = [] → s.ports.arrived = a :: r → forOther s (forwardedReq a) = true →
    step s = .next (idle (passFrame { s with ports := { s.ports with arrived := r } } a.link a.via (reqTarget (forwardedReq a)) a.frame))) ∧
  (∀ (s : State) (a : Arrived) (r : List Arrived), s.pending = [] → s.ports.arrived = a :: r → forOther s (forwardedReq a) = false →
    ∃ t, exec (commandOf (forwardedReq a)) s = .next t ∧ step s = .next (idle t)) ∧
  (∀ s : State, s.pending = [] → s.ports.arrived = [] → s.porstN = true → s.boot.storeBusy = false → s.tme.measured = [] →
    (∀ k : Fin 4, bit (getReg s (outBase k.val)) 31 = false) →
    ∃ v, step s = .next (if s.dev = .ready then
        settleCauses ((List.range 4).foldl dieTick (if atWork v then linkTick v else v)) else v) ∧ v.tme.c = s.tme.c + 1 ∧
      v.tme.o = s.tme.o + s.tme.rate.signExtend 64 + s.tme.slew.signExtend 64 ∧
      localTime v = v.tme.c + v.tme.o.extractLsb' 32 32 ∧
      v.tme.slewLeft = s.tme.slewLeft - 1 ∧ v.tme.slew = (if s.tme.slewLeft ≤ 1 then 0 else s.tme.slew) ∧
      v.tme.wraps = (if (localTime v).toNat < (localTime s).toNat then s.tme.wraps + 1 else s.tme.wraps) ∧
      v.sinceRecord = s.sinceRecord + ((localTime v - localTime s).toNat : Int) ∧
      v.pwr.hubFj = s.pwr.hubFj + weight s 14 ∧
      v = { s with
        sinceRecord := v.sinceRecord, pwr := { s.pwr with hubFj := v.pwr.hubFj }
        tme := { s.tme with
          age := s.tme.age + 1, c := v.tme.c, o := v.tme.o, stepped := none, slew := v.tme.slew, slewLeft := v.tme.slewLeft, wraps := v.tme.wraps } }) ∧
  (∀ s : State, s.pending = [] → s.ports.arrived = [] → s.porstN = false → step s = .next s)

/-! ### Weakan: scalar, predicate and vector instructions -/

/-- SALU (R137): each guarded thread's s[D] takes f(FN, a, b) of the table, with b the sign-extended IMM or s[IMM[5:0]]; s0 discards
the write (R131); every FN value not listed, and a MOVHI, TID, TILE or CHIP with other fields than it may have, is malformed, and the
checks of LOAD refuse a program with its word (R127). -/
def Obligations.SaluFollowsItsTable : Prop :=
  ∀ (s : State) (t : TileRef) (g : GroupId) (gd : Guard) (f : SFields),
    let y := getGroup (getTile s t) g.val
    let fn := f.fn.toNat
    let table := fun (k : Nat) (v : DWord) =>
      let a := sReg y f.a.toNat k
      let b := if f.i then f.imm.signExtend 64 else sReg y (f.imm.toNat % 64) k
      let sh := b.toNat % 64
      (fn = 0x00 → v = a + b) ∧ (fn = 0x01 → v = a - b) ∧ (fn = 0x02 → v.toNat = a.toNat * b.toNat % 2 ^ 64) ∧
      (fn = 0x03 → v = (a.signExtend 128 * b.signExtend 128).extractLsb' 64 64) ∧
      (fn = 0x04 → v.toNat = a.toNat * b.toNat / 2 ^ 64) ∧
      (fn = 0x08 → v = a &&& b) ∧ (fn = 0x09 → v = a ||| b) ∧ (fn = 0x0A → v = a ^^^ b) ∧
      (fn = 0x0C → v.toNat = a.toNat * 2 ^ sh % 2 ^ 64) ∧ (fn = 0x0D → v.toNat = a.toNat / 2 ^ sh) ∧
      (fn = 0x0E → v.toInt = a.toInt / 2 ^ sh) ∧
      (fn = 0x10 → v.toInt = min a.toInt b.toInt) ∧ (fn = 0x11 → v.toInt = max a.toInt b.toInt) ∧
      (fn = 0x12 → v.toNat = min a.toNat b.toNat) ∧ (fn = 0x13 → v.toNat = max a.toNat b.toNat) ∧
      (fn = 0x18 → v.toNat = f.imm.toNat * 2 ^ 32 + (sReg y f.d.toNat k).toNat % 2 ^ 32) ∧
      (fn = 0x1C → v.toNat = 32 * g.val + k) ∧ (fn = 0x1D → v.toNat = 8 * t.d.val + t.l.val) ∧
      (fn = 0x1E → v = BitVec.ofNat 64 s.sch.lchip)
    let listed := [0x00, 0x01, 0x02, 0x03, 0x04, 0x08, 0x09, 0x0A, 0x0C, 0x0D, 0x0E, 0x10, 0x11, 0x12, 0x13, 0x18, 0x1C, 0x1D, 0x1E]
    (WellFormed.salu f = true → Runs s t g.val .scalar (sRegs f) [] →
      ∃ u z v, exec (.salu t g gd f) s = .next u ∧ Issued s u t g.val .scalar z ∧
        WritesS y z f.d.toNat (actThreads (guardOf y gd)) v ∧ (∀ k, k < 32 → table k (v k))) ∧
    (fn ∉ listed ∨ (fn = 0x18 ∧ (f.i = false ∨ f.a ≠ 0)) ∨
        ((fn = 0x1C ∨ fn = 0x1D ∨ fn = 0x1E) ∧ (f.i = true ∨ f.a ≠ 0 ∨ f.imm ≠ 0)) →
      WellFormed.instr (.salu t g gd f) = false ∧
      (∀ w, cw w 63 56 = 0x01 → cwS w = f → wordInstr t g w = none)) ∧
    (WellFormed.salu f = true → ∀ w, cw w 63 56 = 0x01 → cwS w = f → cwGuard w = gd → w.getLsbD 32 = false →
      wordInstr t g w = some (.salu t g gd f))

/-- SCMP, VCMP and PRED (R138, R139, R179): the bits each writes into p[D]; VF, VI, VCVT, VSUM.CANON, VEXP, VLOG, VRSQ, XRED FSUM and
CNT.SNAP (R160, R177, R178, R180, R181, R186): the lanes, or the threads of s[D], that each writes; and their frame. (The model's choices:
CNT.SNAP reads its counter before its own issue is counted, log 92; VABS keeps the payload of a NaN, log 135, DEDUCED.) -/
def Obligations.PredicateAndVectorInstructionsComplete : Prop :=
  ∀ (s : State) (t : TileRef) (g : GroupId),
    let y := getGroup (getTile s t) g.val
    (∀ (gd : Guard) (f : SFields), WellFormed.scmp f = true → Runs s t g.val .scalar ((sRegs f).drop 1) [] →
      ∃ u z, exec (.scmp t g gd f) s = .next u ∧ Issued s u t g.val .scalar z ∧
        WritesP y z f.d.toNat (actThreads (guardOf y gd))
          (fun k => scmpCond f.fn.toNat (sReg y f.a.toNat k) (operandS y f k))) ∧
    (∀ (gd : Guard) (f : VFields), WellFormed.vcmp f = true → vregsOk s t (f.a.toNat :: vbOf f) = true →
      Runs s t g.val .vector (srOf f) (f.a.toNat :: vbOf f) →
      ∃ u z, exec (.vcmp t g gd f) s = .next u ∧ Issued s u t g.val .vector z ∧
        WritesP y z f.d.toNat (actLanes (guardOf y gd))
          (fun i => vcmpCond f.fn.toNat (vReg y f.a.toNat i) (operandV y f i))) ∧
    (∀ (f : SFields), WellFormed.pred f = true → Runs s t g.val .scalar [] [] →
      ∃ u z, exec (.pred t g f) s = .next u ∧ Issued s u t g.val .scalar z ∧
        WritesP y z f.d.toNat (List.range 64)
          (fun k => (predVal f.fn.toNat (pReg y f.a.toNat) (pReg y (f.imm.toNat % 64)) f.imm).getLsbD k)) ∧
    (∀ (gd : Guard) (f : VFields), let vs := vfRegs f
      WellFormed.vf f = true → vregsOk s t vs = true → Runs s t g.val .vector (srOf f) vs →
      ∃ u z, exec (.vf t g gd f) s = .next u ∧ Issued s u t g.val .vector z ∧
        WritesV y z f.d.toNat (actLanes (guardOf y gd))
          (fun i => vfFn f.fn.toNat (vReg y f.a.toNat i) (operandV y f i) (vReg y f.c.toNat i))) ∧
    (∀ (gd : Guard) (f : VFields), let vs := viRegs f
      WellFormed.vi f = true → vregsOk s t vs = true → Runs s t g.val .vector (srOf f) vs →
      ∃ u z, exec (.vi t g gd f) s = .next u ∧ Issued s u t g.val .vector z ∧
        WritesV y z f.d.toNat (actLanes (guardOf y gd))
          (fun i => viFn f.fn.toNat (vReg y f.a.toNat i) (operandV y f i))) ∧
    (∀ (gd : Guard) (fn : BitVec 6) (d a : BitVec 5), fn.toNat ≤ 5 → vregsOk s t [d.toNat, a.toNat] = true →
      Runs s t g.val .vector [] [d.toNat, a.toNat] →
      ∃ u z, exec (.vcvt t g gd fn d a) s = .next u ∧ Issued s u t g.val .vector z ∧
        WritesV y z d.toNat (actLanes (guardOf y gd)) (fun i => vcvtFn fn.toNat (vReg y a.toNat i))) ∧
    (∀ (fn : BitVec 6) (d a : BitVec 5), fn.toNat ≤ 1 → vregsOk s t [d.toNat, a.toNat] = true →
      Runs s t g.val .vector [] [d.toNat, a.toNat] →
      ∃ u z, exec (.vsumCanon t g fn d a) s = .next u ∧ Issued s u t g.val .vector z ∧
        WritesV y z d.toNat (List.range 64) (fun _ => vsumFn fn.toNat ((List.range 64).map (vReg y a.toNat)))) ∧
    (∀ (gd : Guard) (d a : BitVec 5), vregsOk s t [d.toNat, a.toNat] = true → Runs s t g.val .vector [] [d.toNat, a.toNat] →
      (∃ u z, exec (.vexp t g gd d a) s = .next u ∧ Issued s u t g.val .vector z ∧
        WritesV y z d.toNat (actLanes (guardOf y gd)) (fun i => vexp32 (vReg y a.toNat i))) ∧
      (∃ u z, exec (.vlog t g gd d a) s = .next u ∧ Issued s u t g.val .vector z ∧
        WritesV y z d.toNat (actLanes (guardOf y gd)) (fun i => vlog32 (vReg y a.toNat i))) ∧
      (∃ u z, exec (.vrsq t g gd d a) s = .next u ∧ Issued s u t g.val .vector z ∧
        WritesV y z d.toNat (actLanes (guardOf y gd)) (fun i => vrsq32 (vReg y a.toNat i)))) ∧
    (∀ (d : BitVec 6) (imm : BitVec 32), WellFormed.cntSnap imm = true → Runs s t g.val .scalar [d.toNat] [] →
      ∃ u z, exec (.cntSnap t g d imm) s = .next u ∧ Issued s u t g.val .scalar z ∧
        WritesS y z d.toNat (List.range 32) (fun _ => snapVal s t imm.toNat)) ∧
    (∀ (d a : BitVec 6), Runs s t g.val .transfer [d.toNat, a.toNat] [] →
      ∃ u z, exec (.xredFsum t g d a) s = .next u ∧ Issued s u t g.val .transfer z ∧
        WritesS y z d.toNat (List.range 32) (fun _ =>
          (canonSum ((List.range 32).map (fun k => (sReg y a.toNat k).setWidth 32))).setWidth 64))

/-! ### Weakan: control -/

/-- NOP, BR, LOOP, RNG.SEED and RECV.WAIT (R134, R147, R148, R150, R158, R159): where the group continues, what else of its
context changes, and their frame; and the loop stack: a word that ends the innermost body goes back to its first word while
passes are left, else it completes for the next entry. -/
def Obligations.ControlInstructionsComplete : Prop :=
  ∀ (s : State) (t : TileRef) (g : GroupId),
    let y := getGroup (getTile s t) g.val
    (Runs s t g.val .scalar [] [] → ∃ u, exec (.nop t g) s = .next u ∧ Issued s u t g.val .scalar (advance y)) ∧
    (∀ (gd : Guard) (all wide : Bool) (offset : BitVec 24), Runs s t g.val .scalar [] [] →
      ∃ u z, exec (.br t g gd all wide offset) s = .next u ∧ Issued s u t g.val .scalar z ∧
        (brTaken all wide (guardOf y gd) = true → z = { y with ia := ((y.ia : Int) + offset.toInt).toNat, waited := 0, needs := .none }) ∧
        (brTaken all wide (guardOf y gd) = false → z = advance y)) ∧
    (∀ (i : Bool) (body : BitVec 16) (imm : BitVec 32), WellFormed.instr (.loop t g i body imm) = true →
      Runs s t g.val .scalar (if i then [] else [imm.toNat % 64]) [] →
      let n := if i then imm.toNat else (sReg y (imm.toNat % 64) 0).toNat
      ∃ u z, exec (.loop t g i body imm) s = .next u ∧ Issued s u t g.val .scalar z ∧
        (0 < n → z = { y with ia := y.ia + 1, waited := 0, needs := .none,
                              loops := { first := y.ia + 1, last := y.ia + body.toNat, left := n } :: y.loops }) ∧
        (n = 0 → z = { y with ia := (completeWord y.loops (y.ia + body.toNat)).1, waited := 0, needs := .none,
                              loops := (completeWord y.loops (y.ia + body.toNat)).2 })) ∧
    (∀ (i : Bool) (imm : BitVec 32), WellFormed.instr (.rngSeed t g i imm) = true →
      Runs s t g.val .scalar (if i then [] else [imm.toNat % 64]) [] →
      ∃ u, exec (.rngSeed t g i imm) s = .next u ∧
        Issued s u t g.val .scalar { advance y with
          seedSlot := if i then imm.setWidth 8 else (sReg y (imm.toNat % 64) 0).setWidth 8 }) ∧
    (∀ tag : BitVec 9, Runs s t g.val .transfer [] [] →
      ∃ u z, exec (.recvWait t g tag) s = .next u ∧ Issued s u t g.val .transfer z ∧
        ((∃ e, e ∈ (getTile s t).arrivals ∧ e.tag = tag.toNat ∧ e.landed = false) →
          z = { advance y with wait := .recv tag.toNat }) ∧
        ((∀ e, e ∈ (getTile s t).arrivals → e.tag = tag.toNat → e.landed = true) → z = advance y)) ∧
    (∀ (e : LoopEntry) (r : List LoopEntry) (a : Nat),
      (a ≠ e.last → completeWord (e :: r) a = (a + 1, e :: r)) ∧
      (a = e.last → 1 < e.left → completeWord (e :: r) a = (e.first, { e with left := e.left - 1 } :: r)) ∧
      (a = e.last → e.left ≤ 1 → completeWord (e :: r) a = completeWord r a)) ∧
    (∀ z : Group, z.loops = [] → (advance z).ia = z.ia + 1 ∧ (advance z).loops = [])

/-- MS.END, STOP and TOLL (R150 to R152): the group waits; a GROUP, TILE or DISTRICT tollgate that every group it concerns has
reached, with no memory request outstanding, lets the group go on at once (a primary tile's; R318 gives a shadow's its own rule).
No register, no scratchpad byte and no byte of device memory changes. -/
def Obligations.WaitInstructionsComplete : Prop :=
  ∀ (s : State) (t : TileRef) (g : GroupId), Runs s t g.val .scalar [] [] →
    let y := getGroup (getTile s t) g.val
    let keeps := fun (u : State) =>
      (∀ r h k n, k < 32 → sReg (getGroup (getTile u r) h) n k = sReg (getGroup (getTile s r) h) n k) ∧
      (∀ r h n, pReg (getGroup (getTile u r) h) n = pReg (getGroup (getTile s r) h) n) ∧
      (∀ r h i n, vReg (getGroup (getTile u r) h) n i = vReg (getGroup (getTile s r) h) n i) ∧
      (∀ r a, SMap.get 0 (getTile u r).spad a = SMap.get 0 (getTile s r).spad a) ∧
      (∀ a, memByte u a = memByte s a) ∧
      u.pwr = (chargeIssue s t.d.val .scalar).pwr ∧
      u = { s with tiles := u.tiles, cnt := u.cnt, dists := u.dists, pwr := u.pwr }
    (∃ u, exec (.msEnd t g) s = .next u ∧ keeps u ∧
      getGroup (getTile u t) g.val = { advance y with wait := .msEnd, tollAt := s.sch.jobMs }) ∧
    (∃ u, exec (.stop t g) s = .next u ∧ keeps u ∧
      getGroup (getTile u t) g.val = { advance y with wait := .stop, tollAt := s.sch.jobMs }) ∧
    (∀ scope : BitVec 3, scope.toNat = 3 ∨ scope.toNat = 4 →
      ∃ u, exec (.toll t g scope) s = .next u ∧ keeps u ∧
        getGroup (getTile u t) g.val = { advance y with wait := .toll scope.toNat, tollAt := s.sch.jobMs }) ∧
    (∀ scope : BitVec 3, scope.toNat ≤ 2 → t.shadow = false →
      ∃ u, exec (.toll t g scope) s = .next u ∧ keeps u ∧
        getGroup (getTile u t) g.val =
          if tollPasses s t g.val scope.toNat then
            { advance y with wait := .none, tollAt := s.sch.jobMs, tolls := y.tolls + 1 }
          else { advance y with wait := .toll scope.toNat, tollAt := s.sch.jobMs })

/-! ### Weakan: memory -/

/-- LD from the scratchpad (R103, R106, R111, R140 to R143): each acting thread's s[D], or each acting lane of v[D], takes the bytes
at its effective address, zero- or sign-extended; the accesses come to their banks, and are charged by line (R359); nothing else but the
use order of the pages changes. -/
def Obligations.ScratchpadLoadCompletes : Prop :=
  ∀ (s : State) (t : TileRef) (g : GroupId) (gd : Guard) (f : MFields),
    let x := getTile s t
    let y := getGroup x g.val
    let n := accBytes f
    let acc := accesses y gd f
    let ls := acc.flatMap (fun p => linesOf p.2 n)
    WellFormed.ld f = true → vregsOk s t (memVRegs f) = true → f.space = 0 → Runs s t g.val .memory (memSRegs f) (memVRegs f) →
    (∀ l, l ∈ ls → lineCheck x g.val false none l = none ∧ engineHolds x false l = false) → missingPages x ls = [] →
    ∃ u z, exec (.ld t g gd f) s = .next u ∧ getGroup (getTile u t) g.val = z ∧
      (f.fn ≠ 8 → WritesS y z f.d.toNat (actThreads (guardOf y gd))
        (fun k => extend f.fn.toNat (spadRead x (baseAddr y f.a.toNat k f.imm / n * n) n))) ∧
      (f.fn = 8 → WritesV y z f.d.toNat (actLanes (guardOf y gd))
        (fun i => BitVec.ofNat 32 (ofLe (spadRead x (baseAddr y f.a.toNat 0 f.imm / 4 * 4 + 4 * i) 4)))) ∧
      (∀ h, h ≠ g.val → getGroup (getTile u t) h = getGroup x h) ∧
      getTile u t = { x with
        groups := (getTile u t).groups, slate := x.slate ++ [(y.slot, .memory)]
        frames := (getTile u t).frames, useClock := (getTile u t).useClock
        banks := (bookBanks x bankLdSt (ls.foldl addTo [])).banks } ∧
      (∀ r, r ≠ t → getTile u r = getTile s r) ∧ (∀ a, memByte u a = memByte s a) ∧
      (∀ a, a ≠ issueKey s t → getCnt u a = getCnt s a) ∧
      u.pwr = (charge (chargeIssue s t.d.val .memory) t.d.val 7 (ls.foldl addTo []).length).pwr ∧
      u = { s with tiles := u.tiles, cnt := u.cnt, pwr := u.pwr }

/-- ST to the scratchpad (R102, R106, R140 to R143): the bytes of every access are written, the access with the highest index
last; the lines take the group's tag; every other byte of every scratchpad and all of device memory are as before. -/
def Obligations.ScratchpadStoreCompletes : Prop :=
  ∀ (s : State) (t : TileRef) (g : GroupId) (gd : Guard) (f : MFields) (dm : Damage),
    let x := getTile s t
    let y := getGroup x g.val
    let n := accBytes f
    let acc := accesses y gd f
    let ls := acc.flatMap (fun p => linesOf p.2 n)
    WellFormed.st f = true → vregsOk s t (memVRegs f) = true → f.space = 0 → Runs s t g.val .memory (memSRegs f) (memVRegs f) →
    (∀ l, l ∈ ls → lineCheck x g.val true none l = none ∧ engineHolds x true l = false) → missingPages x ls = [] →
    ∃ u, exec (.st t g gd f dm) s = .next u ∧ getGroup (getTile u t) g.val = advance y ∧
      (∀ pre p post b, acc = pre ++ p :: post → b < n → (∀ q, q ∈ post → ¬ (q.2 ≤ p.2 + b ∧ p.2 + b < q.2 + n)) →
        SMap.get 0 (getTile u t).spad (p.2 + b) = ((storeBytes y f p.1)[b]?).getD 0) ∧
      (∀ a, (∀ p, p ∈ acc → ¬ (p.2 ≤ a ∧ a < p.2 + n)) → SMap.get 0 (getTile u t).spad a = SMap.get 0 x.spad a) ∧
      (∀ l, SMap.get 0 (getTile u t).tags l = if l ∈ ls then g.val + 1 else SMap.get 0 x.tags l) ∧
      (∀ h, h ≠ g.val → getGroup (getTile u t) h = getGroup x h) ∧
      getTile u t = { x with
        spad := (getTile u t).spad, tags := (getTile u t).tags, groups := (getTile u t).groups
        slate := x.slate ++ [(y.slot, .memory)], frames := (getTile u t).frames, useClock := (getTile u t).useClock
        banks := (bookBanks x bankLdSt (ls.foldl addTo [])).banks } ∧
      (∀ r, r ≠ t → getTile u r = getTile s r) ∧ (∀ a, memByte u a = memByte s a) ∧
      (∀ a, a ≠ issueKey s t → getCnt u a = getCnt s a) ∧
      u.pwr = (charge (chargeIssue s t.d.val .memory) t.d.val 7 (ls.foldl addTo []).length).pwr ∧
      u = { s with tiles := u.tiles, cnt := u.cnt, pwr := u.pwr }

/-- LD from device memory by a primary tile (R112, R134, R144, R292, R295, R297, R302): the instruction takes a request entry, its
destination waits, and the entry holds the bytes the addresses had, each with the address it came from, and the blocks it reads first in
the milestone; no register and no byte of memory changes yet. A first touch of a spill page places the page, in the pool of its own die
while that has room. -/
def Obligations.DeviceLoadTakesARequest : Prop :=
  ∀ (s : State) (t : TileRef) (g : GroupId) (gd : Guard) (f : MFields) (id : Nat),
    let x := getTile s t
    let y := getGroup x g.val
    let n := accBytes f
    let acc := accesses y gd f
    WellFormed.ld f = true → vregsOk s t (memVRegs f) = true → f.space = 1 → Runs s t g.val .memory (memSRegs f) (memVRegs f) →
    t.shadow = false → queueRoom s t = true → freeReq x g.val = some id → acc ≠ [] →
    (∀ p, p ∈ acc → window s p.2 n 0 ≠ none ∧ (∀ b, b ∈ blocksOf p.2 n → tagConflict s t g.val b = false)) →
    ((∀ p, p ∈ acc → inSpill p.2 = true → placeOf s (p.2 / 2 ^ 21) ≠ none) →
      ∃ u e, exec (.ld t g gd f) s = .next u ∧ (getTile u t).reqs = x.reqs ++ [e] ∧
        e.id = id ∧ e.group = g.val ∧ e.store = false ∧ e.ia = y.ia ∧ e.vec = decide (f.fn = 8) ∧ e.dest = f.d.toNat ∧ e.count = y.loads ∧
        e.puts = acc.map (fun p => (p.2, putOf f p.1 (memRead s p.2 n))) ∧
        getGroup (getTile u t) g.val = { advance y with
          loads := y.loads + 1
          pendS := if f.fn = 8 then y.pendS else addTo y.pendS f.d.toNat
          pendV := if f.fn = 8 then addTo y.pendV f.d.toNat else y.pendV } ∧
        (∀ b, b ∈ u.mem.readThis ↔ (b ∈ s.mem.readThis ∨ ∃ p, p ∈ acc ∧ b ∈ blocksOf p.2 n)) ∧
        (∀ b, b ∈ e.first ↔ (b ∉ s.mem.readThis ∧ ∃ p, p ∈ acc ∧ b ∈ blocksOf p.2 n)) ∧
        (∀ h, h ≠ g.val → getGroup (getTile u t) h = getGroup x h) ∧
        getTile u t = { x with
          reqs := (getTile u t).reqs, groups := (getTile u t).groups, slate := x.slate ++ [(y.slot, .memory)] } ∧
        (∀ r, r ≠ t → getTile u r = getTile s r) ∧ (∀ a, memByte u a = memByte s a) ∧
        u = { s with tiles := u.tiles, cnt := u.cnt, pwr := u.pwr, mem := { s.mem with readThis := u.mem.readThis } }) ∧
    (∀ k a pl, acc = [(k, a)] → inSpill a = true → placeOf s (a / 2 ^ 21) = none → choosePlace s (quadOf t.d.val) = some pl →
      ∃ u e, exec (.ld t g gd f) s = .next u ∧ (getTile u t).reqs = x.reqs ++ [e] ∧ e.id = id ∧
        u.mem.spill = s.mem.spill ++ [(a / 2 ^ 21, pl)] ∧
        (placed s (.hbm (quadOf t.d.val)) < hbmPoolPages s → pl = .hbm (quadOf t.d.val)) ∧
        getCnt u (if pl = .t2 then 0x00070198 else 0x00070190) =
          (getCnt s (if pl = .t2 then 0x00070198 else 0x00070190)).add 1 ∧
        (∀ b, memByte u b = memByte s b) ∧ (∀ r, r ≠ t → getTile u r = getTile s r))

/-- ST to device memory by a primary tile, where its retain copies and its own writes meet no error (R112, R144, R292, R298, R301, R305,
R319): the bytes of every access are written, the last of overlapping ones last, and a request entry waits for the acknowledgement; the first
write of the step to a block makes a retain copy of the block as it stood, with its check value, and counts it; every other byte of device
memory, the mirror, every scratchpad and every register are as before. -/
def Obligations.DeviceStoreCompletes : Prop :=
  ∀ (s : State) (t : TileRef) (g : GroupId) (gd : Guard) (f : MFields) (dm : Damage) (id : Nat),
    let x := getTile s t
    let y := getGroup x g.val
    let n := accBytes f
    let acc := accesses y gd f
    WellFormed.st f = true → vregsOk s t (memVRegs f) = true → f.space = 1 → Runs s t g.val .memory (memSRegs f) (memVRegs f) →
    t.shadow = false → freeReq x g.val = some id → acc ≠ [] → (∀ p, p ∈ dm → p.2 = .ok) →
    (∀ p, p ∈ acc → window s p.2 n 1 ≠ none ∧ (∀ b, b ∈ blocksOf p.2 n → tagConflict s t g.val b = false) ∧
      (inSpill p.2 = true → placeOf s (p.2 / 2 ^ 21) ≠ none)) →
    ∃ u e, exec (.st t g gd f dm) s = .next u ∧ (getTile u t).reqs = x.reqs ++ [e] ∧ e.id = id ∧ e.group = g.val ∧ e.store = true ∧
      (∀ pre p post b, acc = pre ++ p :: post → b < n → (∀ q, q ∈ post → ¬ (q.2 ≤ p.2 + b ∧ p.2 + b < q.2 + n)) →
        memByte u (p.2 + b) = ((storeBytes y f p.1)[b]?).getD 0) ∧
      (∀ a, (∀ p, p ∈ acc → ¬ (p.2 ≤ a ∧ a < p.2 + n)) → memByte u a = memByte s a) ∧
      (∀ p b, p ∈ acc → b ∈ blocksOf p.2 n →
        (getTag u b).written = true ∧ (getTag u b).milestone = s.sch.milestone ∧
        (getTag u b).tile = 8 * t.d.val + t.l.val ∧ (getTag u b).group = g.val ∧ (getTag u b).retainStep = some s.sch.stepFirst ∧
        ((getTag s b).retainStep ≠ some s.sch.stepFirst → ∃ c, c ∈ u.mem.retained ∧ c.block = b ∧ c.step = s.sch.stepFirst ∧
          c.bytes = blockOf s.mem.bytes b ∧ c.inHbm = (backingQuad s (4096 * b)).isSome ∧
          c.check = (getTag (giveCheck s b) b).check)) ∧
      (∃ l : List Retain, u.mem.retained = s.mem.retained ++ l ∧
        (∀ c, c ∈ l → c.step = s.sch.stepFirst ∧ (getTag s c.block).retainStep ≠ some s.sch.stepFirst ∧
          ∃ p, p ∈ acc ∧ c.block ∈ blocksOf p.2 n) ∧
        (l.map (·.block)).Nodup ∧
        ((getCnt s 0x00070168).n < 2 ^ 48 → getCnt u 0x00070168 = (getCnt s 0x00070168).add l.length)) ∧
      getGroup (getTile u t) g.val = { advance y with
        sig := (getGroup (getTile u t) g.val).sig, outputs := (getGroup (getTile u t) g.val).outputs } ∧
      (isSampled s t = false → getGroup (getTile u t) g.val = advance y) ∧
      (∀ h, h ≠ g.val → getGroup (getTile u t) h = getGroup x h) ∧
      getTile u t = { x with
        reqs := (getTile u t).reqs, groups := (getTile u t).groups, slate := x.slate ++ [(y.slot, .memory)] } ∧
      (∀ r, r ≠ t → getTile u r = getTile s r) ∧ u.mem.mirror = s.mem.mirror ∧ u.mem.spill = s.mem.spill ∧
      u = { s with tiles := u.tiles, cnt := u.cnt, mem := u.mem, pwr := u.pwr }

/-- LD from the descriptor window by a primary tile (R118, R145), and a shadow's LD from device memory or the descriptor window
(R318), which makes the primary's window checks and takes what its primary's matching load received: that of the same group, instruction
and count. (That the bytes of an access running past the window's end read zero is the model's choice, log 94.) -/
def Obligations.DescriptorAndShadowLoadsComplete : Prop :=
  ∀ (s : State) (t : TileRef) (g : GroupId) (gd : Guard) (f : MFields),
    let x := getTile s t
    let y := getGroup x g.val
    let n := accBytes f
    let acc := accesses y gd f
    WellFormed.ld f = true → vregsOk s t (memVRegs f) = true → Runs s t g.val .memory (memSRegs f) (memVRegs f) → acc ≠ [] →
    (f.space = 2 → t.shadow = false → queueRoom s t = true → (∀ p, p ∈ acc → p.2 < 2 ^ 15) →
      ∃ u z, exec (.ld t g gd f) s = .next u ∧ getGroup (getTile u t) g.val = z ∧
        (∀ p, p ∈ acc → f.d ≠ 0 → sReg z f.d.toNat p.1 = extend f.fn.toNat (descGet s p.2 n).1) ∧
        (∀ r k, k < 32 → ¬ (r = f.d.toNat ∧ k ∈ acc.map (·.1)) → sReg z r k = sReg y r k) ∧
        z = { advance y with s := z.s, loads := y.loads + 1 } ∧
        (∀ h, h ≠ g.val → getGroup (getTile u t) h = getGroup x h) ∧
        (∀ r a, SMap.get 0 (getTile u r).spad a = SMap.get 0 (getTile s r).spad a) ∧
        u = { s with tiles := u.tiles, cnt := u.cnt, pwr := u.pwr }) ∧
    (∀ e, f.space ≠ 0 → t.shadow = true → shadowViols s f false acc = [] →
      x.loadQ.find? (fun e => decide (e.group = g.val) && decide (e.ia = y.ia) && decide (e.count = y.loads)) = some e →
      ∃ u, exec (.ld t g gd f) s = .next u ∧ (getTile u t).loadQ = x.loadQ.erase e ∧
        getGroup (getTile u t) g.val = advance (applyPuts { y with loads := y.loads + 1 } (fromQueue f acc e.data)) ∧
        (∀ r, r ≠ t → getTile u r = getTile (roomAgain s t) r) ∧ u = { s with tiles := u.tiles, cnt := u.cnt, pwr := u.pwr })

/-- LD and ST with accesses that a rule forbids (R104, R106, R111, R118, R125, R136, R143, R145, R292, R298, R318): SPAD_BOUNDS reads zero or
writes nothing, LOCAL_CONFLICT and USE_BEFORE_ARRIVAL do not happen, each is raised with its line, and the group does not go past the
instruction; the other accesses of the instruction take effect. (The model's choices: of several checks that one line fails, the bounds come
first, then the arrival, then a tag or a lock, log 90; each access of an instruction raises its own, log 27.) -/
def Obligations.ViolatingAccessesWriteNothing : Prop :=
  ∀ (s : State) (t : TileRef) (g : GroupId) (gd : Guard) (f : MFields) (dm : Damage),
    let x := getTile s t
    let y := getGroup x g.val
    let n := accBytes f
    let acc := accesses y gd f
    let code := fun (wr : Bool) (a : Nat) =>
      if spadEnd x ≤ a / 64 * 64 then 1
      else if expected x none (a / 64) then 2
      else if otherTag x g.val (a / 64) || (wr && isLocked x (a / 64)) then 3
      else 0
    let ls := acc.flatMap (fun p => linesOf p.2 n)
    let stays := fun (u : State) (l : List (Nat × Nat)) =>
      (getTile u t).viols = x.viols ++ l.map (fun v => (v.1, g.val, v.2)) ∧ (getGroup (getTile u t) g.val).ia = y.ia ∧
      (l ≠ [] → t.shadow = false → u.sch.holds.getLsbD 0 = true) ∧
      (∀ v r, l = v :: r → t.shadow = false → bit (getReg s (tileBase t.d.val (posOf s t) + 0x60)) 31 = false →
        let w := getReg u (tileBase t.d.val (posOf s t) + 0x60)
        bit w 31 = true ∧ bits w 30 24 = v.1 % 128 ∧ bits w 23 17 = g.val ∧ bits w 16 0 = v.2 % 2 ^ 17) ∧
      (∀ h, h ≠ g.val → getGroup (getTile u t) h = getGroup x h) ∧ (∀ r, r ≠ t → r ≠ { t with shadow := !t.shadow } → getTile u r = getTile s r)
    let spads := fun (wr : Bool) =>
      (acc.filter (fun p => decide (code wr p.2 ≠ 0))).map (fun p => (code wr p.2, p.2 / 64))
    s.keyed = true → acc ≠ [] → vregsOk s t (memVRegs f) = true → Runs s t g.val .memory (memSRegs f) (memVRegs f) →
    (WellFormed.ld f = true → f.space = 0 → spads false ≠ [] → (∀ l, l ∈ ls → engineHolds x false l = false) → missingPages x ls = [] →
      ∃ u, exec (.ld t g gd f) s = .next u ∧ stays u (spads false) ∧
        (∀ p, p ∈ acc → f.fn ≠ 8 → f.d ≠ 0 → sReg (getGroup (getTile u t) g.val) f.d.toNat p.1 =
          (if code false p.2 = 0 then extend f.fn.toNat (spadRead x p.2 n)
           else if code false p.2 = 1 then 0 else sReg y f.d.toNat p.1)) ∧
        (∀ p, p ∈ acc → f.fn = 8 → vReg (getGroup (getTile u t) g.val) f.d.toNat p.1 =
          (if code false p.2 = 0 then BitVec.ofNat 32 (num (spadRead x p.2 4) 0 4)
           else if code false p.2 = 1 then 0 else vReg y f.d.toNat p.1)) ∧
        (∀ a, SMap.get 0 (getTile u t).spad a = SMap.get 0 x.spad a) ∧ (∀ a, memByte u a = memByte s a)) ∧
    (WellFormed.st f = true → f.space = 0 → spads true ≠ [] → (∀ l, l ∈ ls → engineHolds x true l = false) → missingPages x ls = [] →
      ∃ u, exec (.st t g gd f dm) s = .next u ∧ stays u (spads true) ∧
        (∀ a, (∀ p, p ∈ acc → code true p.2 = 0 → ¬ (p.2 ≤ a ∧ a < p.2 + n)) →
          SMap.get 0 (getTile u t).spad a = SMap.get 0 x.spad a) ∧
        (∀ pre p post b, acc = pre ++ p :: post → code true p.2 = 0 → b < n →
          (∀ q, q ∈ post → code true q.2 = 0 → ¬ (q.2 ≤ p.2 + b ∧ p.2 + b < q.2 + n)) →
          SMap.get 0 (getTile u t).spad (p.2 + b) = ((storeBytes y f p.1)[b]?).getD 0) ∧
        getGroup (getTile u t) g.val = y ∧ (∀ a, memByte u a = memByte s a)) ∧
    (WellFormed.ld f = true → f.space = 2 → t.shadow = false → queueRoom s t = true → (∃ p, p ∈ acc ∧ 2 ^ 15 ≤ p.2) →
      ∃ u, exec (.ld t g gd f) s = .next u ∧ stays u ((acc.filter (fun p => decide (2 ^ 15 ≤ p.2))).map (fun _ => (1, 0x1FFFF))) ∧
        (∀ p, p ∈ acc → f.d ≠ 0 → sReg (getGroup (getTile u t) g.val) f.d.toNat p.1 =
          (if 2 ^ 15 ≤ p.2 then 0 else extend f.fn.toNat (descGet s p.2 n).1)) ∧ (∀ a, memByte u a = memByte s a)) ∧
    (∀ k a id, acc = [(k, a)] → f.space = 1 → t.shadow = false → freeReq x g.val = some id →
      let conflict := (blocksOf a n).any (tagConflict s t g.val)
      (WellFormed.ld f = true → queueRoom s t = true →
        (window s a n 0 = none → ∃ u e, exec (.ld t g gd f) s = .next u ∧ stays u [(1, 0x1FFFE)] ∧ (getTile u t).reqs = x.reqs ++ [e] ∧
          e.id = id ∧ e.store = false ∧ e.puts.map (·.2) = [putOf f k (List.replicate n 0)] ∧ u.mem = s.mem) ∧
        (window s a n 0 ≠ none → conflict = true → ∃ u e, exec (.ld t g gd f) s = .next u ∧ stays u [(3, 0x1FFFD)] ∧
          (getTile u t).reqs = x.reqs ++ [e] ∧ e.id = id ∧ e.store = false ∧ e.puts = [] ∧ u.mem = s.mem)) ∧
      (WellFormed.st f = true → (∀ z, z ∈ dm → z.2 = .ok) →
        (window s a n 1 = none → ∃ u, exec (.st t g gd f dm) s = .next u ∧ stays u [(1, 0x1FFFE)] ∧ u.mem = s.mem) ∧
        (window s a n 1 ≠ none → conflict = true →
          ∃ u, exec (.st t g gd f dm) s = .next u ∧ stays u [(3, 0x1FFFD)] ∧ u.mem = s.mem))) ∧
    (f.space ≠ 0 → t.shadow = true →
      (∀ e, WellFormed.ld f = true → shadowViols s f false acc ≠ [] →
        x.loadQ.find? (fun e => decide (e.group = g.val) && decide (e.ia = y.ia) && decide (e.count = y.loads)) = some e →
        ∃ u, exec (.ld t g gd f) s = .next u ∧ stays u ((shadowViols s f false acc).map (fun v => (v.1, v.2.1))) ∧ u.mem = s.mem) ∧
      (WellFormed.st f = true → shadowViols s f true acc ≠ [] →
        ∃ u, exec (.st t g gd f dm) s = .next u ∧ stays u ((shadowViols s f true acc).map (fun v => (v.1, v.2.1))) ∧ u.mem = s.mem))

/-- SEND.SLOT (R156, R318, R319): the entry of the group becomes PENDING, its source lines become locked, and the group goes on; no line
leaves yet; once its departure cycle is over it may not be issued (R157). A shadow's entry is not performed and holds no line; of a sampled
tile the entry and its lines are the group's next output, in which the entry number is two bytes, least significant first (the model's
choice, log 23, DEDUCED). -/
def Obligations.SendSlotCompletes : Prop :=
  ∀ (s : State) (t : TileRef) (g : GroupId) (sid : BitVec 9) (line : BitVec 17) (e : SendEntry),
    let x := getTile s t
    let y := getGroup x g.val
    let ls := lineSpan line.toNat e.lines
    Runs s t g.val .transfer [] [] → usableSend s t g.val sid.toNat = some e →
    (t.shadow = false → districtCyc s t.d.val ≤ e.depart) ∧
    ((∀ l, l ∈ ls → lineCheck x g.val false none l = none ∧ engineHolds x false l = false) → missingPages x ls = [] →
     ∃ u, exec (.sendSlot t g sid line) s = .next u ∧
      (getTile u t).sends = x.sends.map (fun q => if q.sid = sid.toNat then
        { q with state := if t.shadow then .departed else .pending line.toNat line.toNat e.lines false } else q) ∧
      (getTile u t).locks =
        (if t.shadow then x.locks else x.locks ++ [{ first := line.toNat, count := e.lines, who := .send sid.toNat }]) ∧
      getGroup (getTile u t) g.val = advance
        (if isSampled s t then addOutput y (.bytes (leBytes 2 e.sid ++ spadRead x (64 * line.toNat) (64 * e.lines))) else y) ∧
      (∀ h, h ≠ g.val → getGroup (getTile u t) h = getGroup x h) ∧
      getTile u t = { x with
        sends := (getTile u t).sends, locks := (getTile u t).locks, groups := (getTile u t).groups
        slate := x.slate ++ [(y.slot, .transfer)] } ∧
      (∀ r, r ≠ t → getTile u r = getTile s r) ∧ (∀ a, memByte u a = memByte s a) ∧
      u = { s with tiles := u.tiles, cnt := u.cnt, pwr := u.pwr })

/-! ### Weakan: engines -/

/-- TLD, XCLR, XLD, XST, MMA, RND.EXS, XRED PACK, XRED ADD, XRED FCOMB, CHK.ROW, CHK.COL and CHK.CMP (R165, R169 to R174, R182 to R188):
each is queued with the scalar values it reads at issue, and the group goes on; PACK holds its send entry, of a sampled tile its block is
the group's next output (R319), and v[D] of FCOMB waits. -/
def Obligations.EngineInstructionsAreQueued : Prop :=
  ∀ (s : State) (t : TileRef) (g : GroupId),
    let x := getTile s t
    let y := getGroup x g.val
    let ok := fun (c : Instr) (e : EngineId) (op : EngOp) =>
      ∃ u, exec c s = .next u ∧ Queued s u t g.val e op (advance y) x.sends
    (∀ f : TldFields, f.fmt.toNat ≤ 0xC →
      let op := EngOp.tld f (baseAddr y f.a.toNat 0 f.imm)
      Queues s t g.val .operand op [f.a.toNat] [] → ok (.tld t g f) .operand op) ∧
    (∀ (r : BitVec 2) (kind : Bool), Queues s t g.val .operand (.xclr r.toNat kind) [] [] →
      ok (.xclr t g r kind) .operand (.xclr r.toNat kind)) ∧
    (∀ f : XmFields, let op := EngOp.xld f.x.toNat (baseAddr y f.a.toNat 0 f.imm)
      Queues s t g.val .operand op [f.a.toNat] [] → ok (.xld t g f) .operand op) ∧
    (∀ f : XmFields, let op := EngOp.xst f.x.toNat (baseAddr y f.a.toNat 0 f.imm)
      Queues s t g.val .operand op [f.a.toNat] [] → ok (.xst t g f) .operand op) ∧
    (∀ (f : PairFields) (kind : Bool), WellFormed.mma f kind = true → Queues s t g.val .array (.mma f kind) [] [] →
      ok (.mma t g f kind) .array (.mma f kind)) ∧
    (∀ f : RndFields, f.mode ≠ 3 → f.fmt.toNat ≤ 0xE →
      let op := EngOp.rnd f (sReg y f.a.toNat 0).toNat (sReg y f.c.toNat 0) (SMap.get 0 s.seeds y.seedSlot.toNat)
      Queues s t g.val .operand op [f.a.toNat, f.c.toNat] [] → ok (.rndExs t g f) .operand op) ∧
    (∀ (f : XredFields) (e : SendEntry), WellFormed.xred f = true → usableSend s t g.val f.idx.toNat = some e →
      Queues s t g.val .xred (.pack f) [] [] →
      ∃ u, exec (.xredPack t g f) s = .next u ∧
        Queued s u t g.val .xred (.pack f) (if isSampled s t then addOutput (advance y) (.block x.nextOp) else advance y) (x.sends.map (fun q =>
          if q.sid = f.idx.toNat then { q with state := .encoding x.nextOp } else q))) ∧
    (∀ f : XredFields, WellFormed.xred f = true → Queues s t g.val .xred (.add f) [] [] →
      ok (.xredAdd t g f) .xred (.add f)) ∧
    (∀ f : FcombFields, vregsOk s t [f.d.toNat, f.a.toNat] = true →
      let op := EngOp.fcomb f ((List.range 64).map (vReg y f.a.toNat))
      Queues s t g.val .xred op [] [f.d.toNat, f.a.toNat] →
      ∃ u, exec (.xredFcomb t g f) s = .next u ∧
        Queued s u t g.val .xred op { advance y with pendV := addTo y.pendV f.d.toNat } x.sends) ∧
    (∀ f : PairFields, WellFormed.chkPair f = true → Queues s t g.val .operand (.chkRow f) [] [] →
      ok (.chkRow t g f) .operand (.chkRow f)) ∧
    (∀ f : PairFields, WellFormed.chkPair f = true → Queues s t g.val .operand (.chkCol f) [] [] →
      ok (.chkCol t g f) .operand (.chkCol f)) ∧
    (∀ (r : BitVec 2) (rows cols : Bool), (rows || cols) = true → Queues s t g.val .operand (.chkCmp r.toNat rows cols) [] [] →
      ok (.chkCmp t g r rows cols) .operand (.chkCmp r.toNat rows cols))

/-- While an itinerary runs (R196, R369), ENGINE_INSTRUCTION_START and ENGINE_INSTRUCTION_END (R115, R136, R165, R169 to R173, R185, R187):
the head of a queue starts once nothing holds it up and its pages are in frames; when it ends it leaves the queue and the operand tile, the
accumulator or the check register it names takes its result; every other one, the scratchpad and device memory are as before. -/
def Obligations.EngineResultsInTileState : Prop :=
  ∀ (s : State) (t : TileRef) (e : EngineId) (q : QueuedOp), s.keyed = true →
    let x := getTile s t
    atWork s = true →
    (frozen s = false → startable x e = some q → opMissing x (imageWide x q.op) q.op = [] → startCheck x q = none →
      ∃ u, exec (.engineStart t e) s = .next u ∧
        (getTile u t).queue = x.queue.map (fun p => if p.id = q.id then { q with started := true } else p) ∧
        (getTile u t).t = x.t ∧ (getTile u t).x = x.x ∧ (getTile u t).spad = x.spad ∧ (getTile u t).groups = x.groups ∧
        (∀ r, r ≠ t → getTile u r = getTile s r) ∧ u = { s with tiles := u.tiles }) ∧
    (runningOp x e = some q → q.failed = false →
      let ends := fun (u : State) => exec (.engineEnd t e) s = .next u ∧
        (getTile u t).queue = x.queue.filter (fun p => decide (p.id ≠ q.id)) ∧ (getTile u t).spad = x.spad ∧
        (getTile u t).groups = x.groups ∧ (∀ r, r ≠ t → getTile u r = getTile s r) ∧ u = { s with tiles := u.tiles }
      let accIs := fun (r : Nat) (a : Acc) =>
        ∃ u, ends u ∧ getAcc (getTile u t) r = a ∧ (∀ k, k ≠ r → getAcc (getTile u t) k = getAcc x k) ∧
          (getTile u t).t = x.t
      (∀ f ea, q.op = .tld f ea → ∃ u, ends u ∧
        getOp (getTile u t) f.t.toNat = tileOf f.fmt.toNat (spadRead x (ea / 64 * 64) (tileBytes f.fmt.toNat)) ∧
        (∀ k, k ≠ f.t.toNat → getOp (getTile u t) k = getOp x k) ∧ (getTile u t).x = x.x) ∧
      (∀ r kind, q.op = .xclr r kind → accIs r { wide := kind }) ∧
      (∀ r ea, q.op = .xld r ea → let wide := (SMap.get 0 x.spad (ea / 64 * 64 + 4)).getLsbD 0
        accIs r (imageAcc wide (spadRead x (ea / 64 * 64) (imageSize wide)))) ∧
      (∀ f kind, q.op = .mma f kind → accIs f.x.toNat (mmaAcc x f kind)) ∧
      (∀ f, q.op = .add f → accIs f.x.toNat (addAcc x f)) ∧
      (∀ f, q.op = .chkRow f → accIs f.x.toNat (chkRowAcc x f)) ∧
      (∀ f, q.op = .chkCol f → accIs f.x.toNat (chkColAcc x f)))

/-- XST, RND.EXS, XRED PACK and XRED FCOMB when they end (R171, R175, R183, R186, R234, R319): the bytes each writes from its address
on; every other byte of every scratchpad is as before. PACK's entry is PENDING, its last line marked where it ends short of its entry; where
its entry is gone, was missed or is past its cycle, the block is written and nothing is sent, which is the model's choice (log 25, DESIGN
CHOICE: R183 is silent on it). FCOMB writes v[D] and frees it. (The zeros that fill the last line of a wire block are the model's choice,
log 95, DESIGN CHOICE, and so is the entry number that PACK folds, log 23, DEDUCED.) -/
def Obligations.EngineResultsInScratchpadAndLanes : Prop :=
  ∀ (s : State) (t : TileRef) (e : EngineId) (q : QueuedOp), s.keyed = true →
    let x := getTile s t
    atWork s = true → runningOp x e = some q → q.failed = false →
    let writes := fun (u : State) (a : Nat) (l : List Byte) =>
      exec (.engineEnd t e) s = .next u ∧
      (∀ i, i < l.length → SMap.get 0 (getTile u t).spad (a + i) = (l[i]?).getD 0) ∧
      (∀ b, ¬ (a ≤ b ∧ b < a + l.length) → SMap.get 0 (getTile u t).spad b = SMap.get 0 x.spad b) ∧
      (getTile u t).t = x.t ∧ (getTile u t).x = x.x ∧
      (getTile u t).queue = x.queue.filter (fun p => decide (p.id ≠ q.id)) ∧
      (∀ r, r ≠ t → getTile u r = getTile s r) ∧ u = { s with tiles := u.tiles }
    (∀ r ea, q.op = .xst r ea →
      ∃ u, writes u (ea / 64 * 64) (imageBytes (getAcc x r)) ∧ (getTile u t).groups = x.groups) ∧
    (∀ f ea o sd, q.op = .rnd f ea o sd →
      ∃ u, writes u (ea / 64 * 64) (rndBytes (getAcc x f.x.toNat) f o sd) ∧ (getTile u t).groups = x.groups) ∧
    (∀ f d, q.op = .pack f → sendEntry x f.idx.toNat = some d →
      let a := getAcc x f.x.toNat
      let block := wireBlock a.wide a.terms
        ((List.range (64 * (f.rn.toNat + 1))).map (fun n => accElem a (f.r0.toNat + n / 64) (n % 64)))
      let n := ceilDiv block.length 64
      let bytes := block ++ List.replicate (64 * n - block.length) 0
      (∀ op, n ≤ d.lines → d.state = .encoding op → departed s t d = false → ∃ u, writes u (64 * f.line.toNat) bytes ∧
        (getTile u t).sends = x.sends.map (fun p => if p.sid = f.idx.toNat then { p with
          state := if t.shadow then .departed else .pending f.line.toNat f.line.toNat n (decide (n < d.lines)) } else p) ∧
        (t.shadow = false →
          { first := f.line.toNat, count := n, who := .send f.idx.toNat } ∈ (getTile u t).locks) ∧
        getGroup (getTile u t) q.group = fillOutput (getGroup x q.group) q.id (leBytes 2 d.sid ++ bytes) ∧
        (∀ k, k ≠ q.group → getGroup (getTile u t) k = getGroup x k)) ∧
      (n ≤ d.lines → (departed s t d = true ∨ ∀ op, d.state ≠ .encoding op) → ∃ u, writes u (64 * f.line.toNat) bytes ∧
        (getTile u t).sends = x.sends ∧ getGroup (getTile u t) q.group = fillOutput (getGroup x q.group) q.id [] ∧
        (∀ k, k ≠ q.group → getGroup (getTile u t) k = getGroup x k))) ∧
    (∀ f l, q.op = .fcomb f l →
      let y := getGroup x q.group
      let r := spadRead x (64 * f.line.toNat) 256
      ∃ u z, exec (.engineEnd t e) s = .next u ∧ getGroup (getTile u t) q.group = z ∧
        (∀ i, i < 64 → vReg z f.d.toNat i =
          let p := (l[i]?).getD 0
          let v := BitVec.ofNat 32 (num r (4 * i) 4)
          if f.hi then fadd32 v p else fadd32 p v) ∧
        (∀ k i, i < 64 → k ≠ f.d.toNat → vReg z k i = vReg y k i) ∧
        z = { y with v := z.v, pendV := y.pendV.filter (fun k => decide (k ≠ f.d.toNat)) } ∧
        (getTile u t).spad = x.spad ∧ (∀ k, k ≠ q.group → getGroup (getTile u t) k = getGroup x k))

/-- MMA is exact (R173): element (i, j) gains the sum of the 64 products, one after another in EXS arithmetic; TERMS rises by 64;
the check register stays. -/
def Obligations.MmaAccumulatesEveryProduct : Prop :=
  ∀ (x : Tile) (f : PairFields) (kind : Bool) (i j : Nat), i < 64 → j < 64 →
    let a := if kind then widen (getAcc x f.x.toNat) else getAcc x f.x.toNat
    accElem (mmaAcc x f kind) i j =
      (List.range 64).foldl (fun e k => exsAcc a.wide e
        (product (elem (getOp x f.ta.toNat) f.fa.toNat i k) (elem (getOp x f.tb.toNat) f.fb.toNat j k))) (accElem a i j) ∧
    (mmaAcc x f kind).terms = a.terms + 64 ∧ (mmaAcc x f kind).e = a.e ∧ (mmaAcc x f kind).f = a.f ∧
    (mmaAcc x f kind).rnf = a.rnf ∧ (mmaAcc x f kind).cnf = a.cnf

/-- CHK.CMP when it ends (R188, R315, R316, R339): with every compared row and column matching only the count of skipped ones rises; on a
mismatch CHK_RES_FAIL and CHK_RES_RC, where VALID is 0, take the district, the position, the logical tile, the accumulator and the first
row and column in mismatch, the milestone is abandoned with cause 1, and the position takes a strike. -/
def Obligations.ResidueMismatchIsCaught : Prop :=
  ∀ (s : State) (t : TileRef) (e : EngineId) (q : QueuedOp) (r : Nat) (rows cols : Bool), s.keyed = true →
    let x := getTile s t
    let a := getAcc x r
    let br := if rows then badRows a else []
    let bc := if cols then badCols a else []
    let bad := br ++ bc ≠ []
    atWork s = true → runningOp x e = some q → q.failed = false → q.op = .chkCmp r rows cols →
    ∃ u, exec (.engineEnd t e) s = .next u ∧
      getCnt u 0x00060108 = (getCnt s 0x00060108).add (skipped rows a.rnf + skipped cols a.cnf) ∧
      (¬ bad → u.csr = s.csr ∧ u.sch = s.sch ∧ u.dists = s.dists) ∧
      (bad → getCnt u 0x00060100 = (getCnt s 0x00060100).add 1 ∧
        (s.sch.done = false → u.sch.causesNow.getLsbD 0 = true) ∧
        (getDist u t.d.val).strikes = (getDist s t.d.val).strikes ++ [(posOf s t, s.sch.stepFirst)] ∧
        (bit (getReg s 0x00060010) 31 = true →
          getReg u 0x00060010 = getReg s 0x00060010 ∧ getReg u 0x00060014 = getReg s 0x00060014) ∧
        (bit (getReg s 0x00060010) 31 = false → r < 4 → posOf s t < 16 →
          let v := getReg u 0x00060010
          let w := getReg u 0x00060014
          bit v 31 = true ∧ bits v 23 16 = t.d.val ∧ bits v 15 12 = posOf s t ∧
          bits v 11 8 = (if t.shadow then 15 else t.l.val) ∧ bits v 7 6 = r ∧
          bit w 15 = !br.isEmpty ∧ bit w 14 = !bc.isEmpty ∧ bits w 11 6 = br.head?.getD 0 ∧ bits w 5 0 = bc.head?.getD 0))

/-- Every tile instruction waits while its group is not ready, its port has taken what it takes in the cycle, or the scan has passed its
slot (R100, R101, R134): nothing at all changes; that commands stand for the scan's order, so that a slot the scan has passed waits, is the
model's choice (log 28). One whose fields R127 does not admit, which no committed program holds, answers the refusal `malformed` in every
state, which is the model's choice too (log 84, DEDUCED); one that it admits, with its vector registers below VREGS, always answers a next
state. -/
def Obligations.TileInstructionsWaitOrAreRefused : Prop :=
  ∀ (s : State) (t : TileRef) (g : GroupId) (c : Instr), instrTile c = some (t, g) →
    (WellFormed.instr c = false → exec c s = .refused .malformed) ∧
    (WellFormed.instr c = true → vregsOk s t (WellFormed.vregs c) = true →
      (∃ u, exec c s = .next u) ∧ (canIssue s t g.val (instrPort c) = false → exec c s = .next s))

/-! ### Tiles: departures, arrivals, returns and swaps -/

/-- DEPARTURE, SLOT_MISSED and LINE_ARRIVAL (R106, R110, R111, R156, R157, R184, R206, R207, R227): from its departure cycle on, the
lines of a PENDING entry come to the verge of the first hop of its road as far as it has room, and with the last one the entry has departed
and its lock ends; an entry that was not issued in time raises SLOT_MISSED; the next line on its way to a tag is written as the next line
of its entry, its tag clears, and the entry is LANDED with its last line; one with no entry, or beyond it, raises SLOT_COLLISION. (The
value that HOPS starts with is the model's choice, log 22, and so is that a line lands as the next of its entry, log 89.) -/
def Obligations.TransfersAtATile : Prop :=
  ∀ (s : State) (t : TileRef) (sid tag : BitVec 9), s.keyed = true → atWork s = true → s.sch.forced = false → t.shadow = false →
    let x := getTile s t
    let lands := fun (u : State) (v : Flight) => u.flights = (landFlight s v (.tile t tag.toNat)).flights ∧
      u.hops = (landFlight s v (.tile t tag.toNat)).hops ∧ (v.dests = [.tile t tag.toNat] → u.flights = s.flights.erase v) ∧
      (isStreet v.src = false → u.hops = s.hops)
    x.forced = false →
    (∀ e first line lines last, frozen s = false → sendEntry x sid.toNat = some e → departsNow s t e = true →
      e.state = .pending first line lines last →
      let hop := firstHop s t e.road
      let n := min lines (16 - (getHop s hop).verge.length)
      let units := (List.range n).map (fun i => ({
        road := BitVec.ofNat 16 e.road, ms := BitVec.ofNat 8 s.sch.jobMs,
        hops := BitVec.ofNat 8 ((roadHops s e.road).length - 1), last := last && decide (i + 1 = lines),
        data := spadRead x (64 * (line + i)) 64 } : RoadUnit))
      ∃ u, exec (.departure t sid) s = .next u ∧
        u.hops = (units.foldl (fun s v => admitUnit s hop v) s).hops ∧
        ((∀ v, v ∈ units → dropped s v = false) → (getHop u hop).verge = (getHop s hop).verge ++ units) ∧
        u.sch = s.sch ∧ u.csr = s.csr ∧ u.flights = s.flights ∧
        (getTile u t).sends = x.sends.map (fun q => if q.sid = e.sid then { q with
          state := if n = lines then .departed else .pending first (line + n) (lines - n) last } else q) ∧
        (getTile u t).locks = (if n = lines then x.locks.filter (fun p => decide (p.who ≠ .send e.sid)) else x.locks) ∧
        (∀ r a, SMap.get 0 (getTile u r).spad a = SMap.get 0 (getTile s r).spad a) ∧
        (∀ r, r ≠ t → getTile u r = getTile s r) ∧ u.mem = s.mem ∧ u.jrn = s.jrn) ∧
    (∀ e, sendEntry x sid.toNat = some e → departsNow s t e = true → e.state = .idle →
      ∃ u, exec (.slotMissed t sid) s = .next u ∧
        (getTile u t).sends = x.sends.map (fun q => if q.sid = sid.toNat then { q with state := .missed } else q) ∧
        u.sch.holds.getLsbD 0 = true ∧
        (bit (getReg s 0x000A0024) 31 = false → getReg u 0x000A0024 = 0x91000000) ∧
        (bit (getReg s 0x000A0024) 31 = true → getReg u 0x000A0024 = getReg s 0x000A0024) ∧
        (∀ r, r ≠ t → getTile u r = getTile s r) ∧ u.mem = s.mem ∧ u.hops = s.hops) ∧
    (∀ v : Flight, nextFlight s (.tile t tag.toNat) (fun _ => true) = some v → dropped s v.u = false →
      (∀ e, x.arrivals.find? (fun e => decide (e.tag = tag.toNat)) = some e → e.got.length < e.count →
        let idx := e.got.length
        let line := e.line + idx
        let landed := decide ((addTo e.got idx).length = e.count) || (v.u.last && e.mark == .wire)
        ∃ u, exec (.lineArrival t tag) s = .next u ∧ lands u v ∧
          (∀ i, i < 64 → SMap.get 0 (getTile u t).spad (64 * line + i) = ((slice v.u.data 0 64)[i]?).getD 0) ∧
          (∀ a, ¬ (64 * line ≤ a ∧ a < 64 * line + 64) → SMap.get 0 (getTile u t).spad a = SMap.get 0 x.spad a) ∧
          SMap.get 0 (getTile u t).tags line = 0 ∧
          (getTile u t).arrivals = x.arrivals.map (fun a =>
            if a.tag = e.tag then { a with got := addTo e.got idx, landed := a.landed || landed } else a) ∧
          (∀ g, getGroup (getTile u t) g = if landed = true ∧ (getGroup x g).wait = .recv e.tag
            then { getGroup x g with wait := .none } else getGroup x g) ∧
          (∀ r, r ≠ t → r ≠ { t with shadow := true } → getTile u r = getTile s r) ∧ u.mem = s.mem) ∧
      ((∀ e, x.arrivals.find? (fun e => decide (e.tag = tag.toNat)) = some e → e.count ≤ e.got.length) →
        ∃ u, exec (.lineArrival t tag) s = .next u ∧ lands u v ∧ u.sch.holds.getLsbD 0 = true ∧
          (bit (getReg s 0x000A0024) 31 = false → bits (getReg u 0x000A0024) 31 24 = 0x90) ∧
          u.tiles = s.tiles ∧ u.mem = s.mem))

/-- LD_DATA_RETURN and ST_ACKNOWLEDGEMENT (R112, R134, R144, R294, R301, R302, R304), outside FAULT: the request entry frees; the load's
registers take the bytes, a free value where their line met an error, and no longer wait; in check-value mode the blocks that it read first
in the milestone hold a check value; no other register, and where every line is sound no byte of memory and no other part of the state,
changes. -/
def Obligations.MemoryRequestsEnd : Prop :=
  ∀ (s : State) (t : TileRef) (req : Fin 128) (r : MemReq), s.keyed = true → s.dev ≠ .fault →
    let x := getTile s t
    let y := getGroup x r.group
    (∀ dm : Damage, x.reqs.find? (fun q => decide (q.id = req.val) && !q.store) = some r →
      let puts := returnedPuts s.fresh (loadDamage s r dm) r.puts
      let sounds := fun (o : MemOutcome) => o = .ok ∨ o = .corrected
      (∃ u, exec (.ldDataReturn t req dm) s = .next u ∧
        (puts.length = r.puts.length) ∧
        (∀ (i : Nat) (p : Nat × RegPut), r.puts[i]? = some p → sounds (outcomeAt (loadDamage s r dm) p.1) → puts[i]? = some p.2)) ∧
      ((∀ p, p ∈ dm → sounds p.2) →
        ∃ u, exec (.ldDataReturn t req dm) s = .next u ∧ (getTile u t).reqs = x.reqs.erase r ∧ puts = r.puts.map (·.2) ∧
        (∀ n k, sReg (getGroup (getTile u t) r.group) n k = sReg (applyPuts y puts) n k) ∧
        (∀ n i, vReg (getGroup (getTile u t) r.group) n i = vReg (applyPuts y puts) n i) ∧
        (∀ n, pReg (getGroup (getTile u t) r.group) n = pReg y n) ∧
        (r.vec = true → (getGroup (getTile u t) r.group).pendV = y.pendV.filter (fun i => decide (i ≠ r.dest))) ∧
        (r.vec = false → (getGroup (getTile u t) r.group).pendS = y.pendS.filter (fun i => decide (i ≠ r.dest))) ∧
        (∀ p h n k, (p, h) ≠ (t, r.group) → sReg (getGroup (getTile u p) h) n k = sReg (getGroup (getTile s p) h) n k) ∧
        (∀ p a, SMap.get 0 (getTile u p).spad a = SMap.get 0 (getTile s p).spad a) ∧ (∀ a, memByte u a = memByte s a) ∧
        (pathMode s ≠ 1 → u.mem = s.mem) ∧ (pathMode s = 1 → ∀ b, b ∈ r.first → (getTag u b).check ≠ none) ∧
        (∀ b, getTag u b = { getTag s b with check := (getTag u b).check }) ∧
        u = { s with
          tiles := u.tiles, cnt := u.cnt, dists := u.dists, mem := { s.mem with tags := u.mem.tags }, fresh := s.fresh + 1 })) ∧
    (x.reqs.find? (fun q => decide (q.id = req.val) && q.store) = some r →
      ∃ u, exec (.stAck t req) s = .next u ∧ (getTile u t).reqs = x.reqs.erase r ∧
        (∀ p h n k, sReg (getGroup (getTile u p) h) n k = sReg (getGroup (getTile s p) h) n k) ∧
        (∀ p a, SMap.get 0 (getTile u p).spad a = SMap.get 0 (getTile s p).spad a) ∧ (∀ a, memByte u a = memByte s a) ∧
        u = { s with tiles := u.tiles, dists := u.dists })

/-- GROUP_SWAP_START, GROUP_SWAP_END, PAGE_SWAP_DONE and PARTITION_RESET_DONE (R113 to R115, R215, R310), where device memory meets no
error and FAULT is not entered: who comes in and who leaves, after 256 cycles of not being ready, what is counted, the check values of the
blocks that the spill engine moves whole (R302), and what a partition reset leaves in MEM_STATUS. Where its first touches find every pool
full, SPAD_BOUNDS is raised, and what it reads without a place is zero: a line of the page, a register of the context (R292, R295; which
registers those are, that the control state stays, the group that the violation names and that a page raises it once are the model's choice,
log 138). (The least cycles of a swap are the model's choice,
log 44, and so is that a reset restores only while the partition is in reset, log 48, DEDUCED.) -/
def Obligations.SwapsAndPartitionResetsEnd : Prop :=
  ∀ (s : State) (t : TileRef) (dm : Damage), s.keyed = true → s.dev ≠ .fault → (∀ p, p ∈ dm → p.2 = .ok) →
    let x := getTile s t
    let base := tileBase t.d.val (posOf s t)
    let places := fun (ls : List Nat) => placeBacking (quadOf t.d.val) (pageFirsts ls) s
    let bounds := fun (u : State) (bad : List Nat) (g : Nat) => (getTile u t).viols = x.viols ++ bad.map (fun _ => (1, g, 0x1FFFE)) ∧
      (bad ≠ [] → t.shadow = false → u.sch.holds.getLsbD 0 = true)
    (∀ a b, atWork s = true → x.prog ≠ none → x.swap = none → inPreset s t = false → swapOut x = some a → swapIn x = some b →
      (notReady x a (getGroup x a) = true ∧ 256 ≤ (getGroup x a).waited ∧ holdsReq x a = false ∧ (getGroup x b).resident = false) ∧
      ∃ u, exec (.groupSwapStart t) s = .next u ∧ getTile u t = { x with swap := some { out := a, into := b } } ∧
        (∀ r, r ≠ t → getTile u r = getTile s r) ∧ u = { s with tiles := u.tiles }) ∧
    (∀ w p, x.swap = some w → x.prog = some p → w.out ≠ w.into →
      (w.cycles < 32 + ceilDiv (16512 + 256 * p.vregs) 64 → exec (.groupSwapEnd t dm) s = .next s) ∧
      (∀ v bad, 32 + ceilDiv (16512 + 256 * p.vregs) 64 ≤ w.cycles →
        let c := contextBytes p
        let ins := backingLines p (c * w.into) c
        places (backingLines p (c * w.out) c ++ ins) = (v, bad) →
        ∃ u, exec (.groupSwapEnd t dm) s = .next u ∧ (getTile u t).swap = none ∧ u.mem = { v.mem with tags := u.mem.tags } ∧
          (∀ b, b ∈ wholeBlocks (p.backing + c * w.out) c ++ wholeBlocks (p.backing + c * w.into) c → backed v (4096 * b) = true →
            (getTag u b).check ≠ none) ∧
          bounds u bad w.out ∧ (bad = [] → ins.all (backed v) = true) ∧
          getGroup (getTile u t) w.out = { getGroup x w.out with resident := false, waited := 0 } ∧
          (∀ y, y = getGroup (getTile u t) w.into →
            y = { getGroup x w.into with
              resident := true, slot := (getGroup x w.out).slot, waited := 0, s := y.s, p := y.p, v := y.v } ∧
            (ins.all (backed v) = true → y.s = (getGroup x w.into).s ∧ y.p = (getGroup x w.into).p ∧ y.v = (getGroup x w.into).v) ∧
            (∀ n k, sReg y n k = 0 ∨ sReg y n k = sReg (getGroup x w.into) n k) ∧
            (∀ n i, vReg y n i = 0 ∨ vReg y n i = vReg (getGroup x w.into) n i) ∧
            (ins.any (backed v) = false → y.s = [] ∧ y.p = [] ∧ y.v = [])) ∧
          (∀ h, h ≠ w.out → h ≠ w.into → getGroup (getTile u t) h = getGroup x h) ∧
          getCnt u (base + 0x40) = (getCnt s (base + 0x40)).add 1 ∧
          getCnt u (base + 0x48) = (getCnt s (base + 0x48)).add w.cycles ∧
          (∀ r, r ≠ t → getTile u r = getTile s r) ∧ (∀ a, memByte u a = memByte s a) ∧
          (bad = [] → u = { s with
            tiles := u.tiles, cnt := u.cnt, pwr := u.pwr
            mem := { s.mem with spill := u.mem.spill, mirror := u.mem.mirror, tags := u.mem.tags } }))) ∧
    (∀ (page : Fin 128) (m : PageMove) (p : TileProg), x.moving = some m → m.page = page.val → x.prog = some p →
      let back := match m.victim with
        | some f => if f.dirty then some f.page else none
        | none => none
      let ls := back.toList.flatMap (pageLines p) ++ pageLines p page.val
      let least := if back = none then 1056 else 2112
      (m.cycles < least → exec (.pageSwapDone t page dm) s = .next s) ∧
      (∀ v bad, least ≤ m.cycles → places ls = (v, bad) →
        ∃ u, exec (.pageSwapDone t page dm) s = .next u ∧ u.mem = { v.mem with tags := u.mem.tags } ∧ bounds u bad 0 ∧
          (∀ b, b ∈ wholeBlocks (p.backing + pageOffset p page.val) 65536 → backed v (4096 * b) = true → (getTag u b).check ≠ none) ∧
          (getTile u t).moving = none ∧
          (getTile u t).frames = x.frames ++ [{ page := page.val, pinned := false, dirty := false, lastUse := x.useClock }] ∧
          (getTile u t).pageSwaps = x.pageSwaps.filter (fun p => decide (p ≠ page.val)) ∧
          getCnt u (base + 0x50) = (getCnt s (base + 0x50)).add 1 ∧
          getCnt u (base + 0x58) = (getCnt s (base + 0x58)).add m.cycles ∧
          (∀ a, SMap.get 0 (getTile u t).spad a =
            if a / 65536 = page.val ∧ backed v (p.backing + pageOffset p page.val + a % 65536) = false then 0 else SMap.get 0 x.spad a) ∧
          (∀ r, r ≠ t → getTile u r = getTile s r) ∧ (∀ a, memByte u a = memByte s a) ∧
          (bad = [] → u = { s with
            tiles := u.tiles, cnt := u.cnt, pwr := u.pwr
            mem := { s.mem with spill := u.mem.spill, mirror := u.mem.mirror, tags := u.mem.tags } }))) ∧
    (∀ q : Fin 4, s.mem.preset.getLsbD q.val = true →
      (inTurn s 4 = false → exec (.partitionResetDone q dm) s = .next s) ∧
      (inTurn s 4 = true → ∃ u, exec (.partitionResetDone q dm) s = .next u ∧
        (∀ i, i < 4 → u.mem.preset.getLsbD i = (s.mem.preset.getLsbD i && !(partitionOf s q.val).contains i)) ∧
        (∀ i k, i ∈ partitionOf s q.val → k < 3 → u.mem.stacksOk.getLsbD (3 * i + k) = true) ∧
        u.mem.restoring = decide (u.mem.preset ≠ 0) ∧ getCnt u 0x00070180 = (getCnt s 0x00070180).add 1 ∧
        (u.mem.preset = 0 → u.sch.holds.getLsbD 4 = false) ∧ u.mem.retained.length ≤ s.mem.retained.length ∧
        u.tiles = s.tiles ∧ u.csr = s.csr ∧ u.dists = s.dists))

/-! ### Milestones -/

/-- CHIP_DONE, where no tile is sampled or a RETRACE decision ends the milestone, WRITE_BACK_START, WRITE_BACK_DONE, DIGEST_HASH_DONE and
ROADWORKS_CONTENT_DONE (R199, R201, R302, R306, R321, R334): the waymark, with TOLL_ALL and ABANDON as the chip's groups and causes say, is
queued on every active link and is round 0 of its own flags; the bit of MEM_STATUS, the blocks that reach the mirror, which are those
whose reads met nothing that stops them (which blocks move after an error is the model's choice, log 55, DEDUCED), the digest that is held,
or FAULT (R299, R301) and no digest where a line of the mirror cannot be corrected (that none is held then is the model's choice, log 37,
DESIGN CHOICE), and the outcome of each tested position whose content has begun, but in FAULT. -/
def Obligations.MilestonesEndOnTheChip : Prop :=
  ∀ s : State, s.keyed = true → Memory.wf s.mem = true →
    (s.dev = .ready → isCommitted s = true → s.sch.running = true → s.sch.done = false → chipReady s = true →
      (s.sch.forced = true ∨ ∀ d, d < 144 → (getDist s d).sample = []) →
      let f : Flags := { tollAll := tollAll s, abandon := decide (s.sch.causesNow ≠ 0), causes := s.sch.causesNow,
                         hold := decide (s.sch.holds ≠ 0) }
      let w : WayFlit := { ownFlit s 1 with flags := flagByte f, causes := f.causes.setWidth 8 }
      ∃ u, exec .chipDone s = .next u ∧ u.sch.done = true ∧
        { link := none, jobMs := s.sch.jobMs, round := 0, flags := f } ∈ u.sch.rounds ∧
        (∀ n, n ∈ activeLinks s → ∃ l, (getLink u n).wayQ = (getLink s n).wayQ ++ wayBytes w :: l) ∧
        u.sch.jobMs = s.sch.jobMs ∧ u.sch.position = s.sch.position ∧ u.sch.milestone = s.sch.milestone ∧
        u = { s with sch := u.sch, links := u.links }) ∧
    (isCommitted s = true → s.sch.running = true → s.sch.done = false → lastOfStep s = true → tilesEnded s = true →
      s.dig.busy = false → s.mem.writeback = false → s.sch.wbDone = false →
      exec .writeBackStart s = .next { s with mem := { s.mem with writeback := true } }) ∧
    (s.mem.writeback = true →
      ∀ dm : Damage, ∃ u, exec (.writeBackDone dm) s = .next u ∧ u.mem.writeback = false ∧ u.sch.wbDone = true ∧
        (∀ c a, c ∈ stepCopies s → a / 4096 = c.block → blockSound s dm c.block = true →
          SMap.get none u.mem.mirror a = SMap.get none s.mem.bytes a) ∧
        (∀ a, (∀ c, c ∈ stepCopies s → blockSound s dm c.block = true → a / 4096 ≠ c.block) →
          SMap.get none u.mem.mirror a = SMap.get none s.mem.mirror a) ∧
        (∀ a, memByte u a = memByte s a) ∧
        ((∀ p, p ∈ dm → p.2 = .ok) → (∀ c, c ∈ stepCopies s → blockSound s dm c.block = true) ∧ u.csr = s.csr ∧ u.tiles = s.tiles)) ∧
    (∀ dm : Damage, s.dig.busy = true → s.dev ≠ .fault →
      let d := digest256 (digestInput s)
      ((∀ p, p ∈ dm → p.2 ≠ .uncorrectable) →
        ∃ u, exec (.digestHashDone dm) s = .next u ∧ u.dig.busy = false ∧ u.dig.held = some d ∧
          (∀ w, w < 8 → getReg u (0x00060030 + 4 * w) = digestWord d w) ∧ (∀ a, memByte u a = memByte s a) ∧
          ((∀ a, inProtection s a = true → (a, MemOutcome.corrected) ∉ dm) → getCnt u 0x00070160 = getCnt s 0x00070160)) ∧
      (∀ a, inProtection s a = true → (a, MemOutcome.uncorrectable) ∈ dm → (∀ p, p ∈ dm → p.1 < 0x20000000000) →
        ∃ u, exec (.digestHashDone dm) s = .next u ∧ u.dev = .fault ∧ u.faultCause = 3 ∧ u.dig = s.dig)) ∧
    (∀ results : List RwResult, s.dev = .fault → exec (.roadworksContentDone results) s = .next s) ∧
    (∀ results : List RwResult, s.dev ≠ .fault →
      let rs := results.filter (fun r => underTest (getDist s r.d.val).spare)
      ∃ u, exec (.roadworksContentDone results) s = .next u ∧
        (∀ d : Fin 144, underTest (getDist s d.val).spare = true → (getDist s d.val).heating = false → (getDist s d.val).tested = none →
          (∀ r, results.filter (fun q => decide (q.d = d)) = [r] →
            (getDist u d.val).tested = some (if bit (getReg s 0x00060008) 30 then randomResult rs r else scanResult s r)) ∧
          ((∀ r, r ∈ results → r.d ≠ d) → (getDist u d.val).tested = some .incomplete)) ∧
        (∀ d : Fin 144, underTest (getDist s d.val).spare = false ∨ (getDist s d.val).heating = true →
          getDist u d.val = getDist s d.val) ∧
        u = { s with dists := u.dists, csr := u.csr })

/-- MILESTONE_BOUNDARY, JOB_START and RESTART_BOUNDARY (R192, R195 to R198, R281, R282, R307, R426, R427), with no error in what is restored,
where every register write that waits is of a register without a behaviour of its own: the milestone number, the job milestone and the
position that each leaves, and that the chip is not done with the new milestone. A boundary that rewinds gives every block with a retain copy
the bytes and the check value of its oldest copy, clears its tag and frees the copies. A boundary needs cycle L in every district, 160 cycles since the chip was done, and 32 since the last of
its other conditions was met. A relay that carries ABANDON goes back to the oldest step that has not committed; the last step's commit ends
the itinerary. A survey of KIND 1 whose target is reached, or whose job ends, fires before the boundary's work; one whose target is not
reached stays armed. That JOB_START and the restart of a join leave the milestone number as it is (log 52), and which relay acts after an
abandonment (log 53), are the model's choices. -/
def Obligations.BoundariesMoveTheCounters : Prop :=
  ∀ (s : State) (dm : Damage), s.keyed = true → quietWrites s = true → (∀ p, p ∈ dm → p.2 = .ok) →
    let held := fun (a : Nat) => match s.mem.retained.find? (fun c => decide (c.block = a / 4096)) with
      | some c => (SMap.get none c.bytes a).getD (if inZeroed s.mem a then 0 else Config.undefinedByte s.epoch a)
      | none => memByte s a
    let restored := fun (u : State) => u.mem.retained = [] ∧ (∀ a, memByte u a = held a) ∧
      (∀ b, getTag u b = match s.mem.retained.find? (fun c => decide (c.block = b)) with
        | some c => { check := c.check }
        | none => getTag s b) ∧
      getCnt u 0x00070178 = (getCnt s 0x00070178).add ((s.mem.retained.map (·.block)).foldl addTo []).length
    let surveyed := fun (u : State) (ends : Bool) => ∀ clear target, s.ports.survey = some (1, clear, target) →
      ((target.toNat ≤ s.sch.jobMs + 1 ∨ ends = true) →
        u.ports.survey = none ∧ u.ports.surveyDone = true ∧ u.ports.atEnd = ends ∧ u.ports.cleared = clear ∧
        u.ports.surveySeq = s.ports.surveySeq + 1 ∧ u.shadowCnt = (countLate s).cnt ∧
        getReg u 0x00090028 = BitVec.ofNat 32 s.sch.milestone ∧ getReg u 0x00090030 = BitVec.ofNat 32 s.sch.jobMs ∧
        getReg u 0x00090038 = localTime s) ∧
      (s.sch.jobMs + 1 < target.toNat → ends = false → u.ports.survey = s.ports.survey ∧ u.shadowCnt = s.shadowCnt)
    (boundaryReady s = true → (∀ d, d < 144 → milestoneLen s ≤ districtCyc s d) ∧ 160 ≤ s.sch.sinceDone ∧ 32 ≤ s.sch.sinceMet ∧
      s.sch.done = true ∧ heardAll s s.sch.jobMs = true) ∧
    (boundaryReady s = false → exec (.milestoneBoundary dm) s = .next s) ∧
    (boundaryReady s = true → jobEnds s = false →
      ∃ u, exec (.milestoneBoundary dm) s = .next u ∧ surveyed u false ∧
        u.sch.milestone = s.sch.milestone + 1 ∧ u.sch.jobMs = s.sch.jobMs + 1 ∧
        u.sch.running = true ∧ u.sch.done = false ∧
        (∀ f, actingFlags s = some f → f.abandon = true → u.sch.position = oldestFirst (advanceCounters s) ∧ restored u) ∧
        ((∀ f, actingFlags s = some f → f.abandon = false) → u.sch.position = s.sch.position + 1)) ∧
    (boundaryReady s = true → jobEnds s = true →
      ∃ u, exec (.milestoneBoundary dm) s = .next u ∧ surveyed u true ∧ u.sch.committed = none ∧ u.tiles = [] ∧ u.seeds = [] ∧
        u.sch.milestone = s.sch.milestone + 1) ∧
    (s.dev = .ready → isCommitted s = true → s.sch.running = false → s.sch.detour = none →
      reached s s.sch.startTime = true → frozenFor s 0 = false → startsHeard s (neighbours s) = true →
      ∃ u, exec .jobStart s = .next u ∧ u.sch.running = true ∧ u.sch.position = 0 ∧ u.sch.jobMs = 0 ∧ u.sch.done = false ∧
        u.sch.startFrom = s.sch.startAhead ∧ u.sch.startAhead = [] ∧ u.sch.milestone = s.sch.milestone ∧
        u.sch.startOwed = (maskEnds s).filter (fun e => !s.sch.startFrom.contains e)) ∧
    (∀ d, s.sch.detour = some d → restartReady s d = true →
      ∃ u, exec (.restartBoundary dm) s = .next u ∧ u.sch.running = true ∧ u.sch.jobMs = d.j ∧ u.sch.position = d.p ∧
        u.sch.done = false ∧ u.sch.detour = none ∧ u.sch.milestone = s.sch.milestone + flag s.sch.running ∧ restored u)

/-- The register writes that wait for a boundary, those of registers without a behaviour of their own, where the journal has room for their
records (R44, R45, R47, R49, R53, R54, R66, R70, R195): at a boundary the reverted writes of its position are reapplied, then the scheduled
ones of its position are made, then, if a qualifying tollgate has completed, every staged one takes effect in the order of acceptance, each
with its record, and their registers hold what these writes leave; a boundary that rewinds appends the RETRACE record before all of them and
reverts, newest first, every staged write that took effect beyond the position it goes back to, which waits to be reapplied; at the boundary
that ends the job the END record is followed by every staged write. -/
def Obligations.WaitingWritesTakeEffectInOrder : Prop :=
  ∀ (s : State) (dm : Damage), s.keyed = true → quietWrites s = true → ampleRoom s = true → (∀ p, p ∈ dm → p.2 = .ok) →
    let now := localTime s
    let stagedKeys := fun (ws : List StagedWrite) => (ws.filter (·.recorded)).map (fun w => keyOf (srcCode w.src) 0 w.addr w.time)
    let atPos := fun (p : Nat) => s.sch.reapply.filter (fun e => decide (e.pos = p))
    let plan := fun (p : Nat) => s.sch.schedule.filter (fun e => decide (e.1 = p))
    let keys := fun (p : Nat) (ws : List StagedWrite) =>
      (atPos p).map (fun e => keyOf 0 2 e.addr now) ++ (plan p).map (fun e => keyOf 0 8 e.2.1 now) ++ stagedKeys ws
    let data := fun (p : Nat) (ws : List StagedWrite) =>
      (atPos p).map (fun e => (e.addr, e.data)) ++ (plan p).map (fun e => e.2) ++ ws.map (fun w => (w.addr, w.data))
    let holds := fun (u : State) (l : List (Nat × Word)) =>
      ∀ a, plainReg a = true → getReg u a &&& rwOf a = afterWrites s a (getReg s a) l &&& rwOf a
    let writes := fun (u : State) (p : Nat) (ws : List StagedWrite) (before : List Effected) =>
      u.sch.staged = s.sch.staged.drop ws.length ∧ u.sch.schedule = s.sch.schedule ∧
      ∃ es : List Effected, u.sch.effected = before ++ atPos p ++ es ∧
        es.map (fun e => (e.pos, e.addr, e.data)) = ws.map (fun w => (p, w.addr, w.data))
    (boundaryReady s = true → jobEnds s = false →
      let ws := if gateNow s then s.sch.staged else []
      ((∀ f, actingFlags s = some f → f.abandon = false) →
        let p := s.sch.position + 1
        ∃ u pre post, exec (.milestoneBoundary dm) s = .next u ∧ u.jrn.records = s.jrn.records ++ pre ++ post ∧
          post.map writeKey = keys p ws ∧ (∀ r, r ∈ post → r.milestone = s.sch.milestone + 1) ∧ writes u p ws s.sch.effected ∧
          u.sch.reapply = s.sch.reapply.filter (fun e => decide (e.pos ≠ p)) ∧ holds u (data p ws)) ∧
      (∀ f, actingFlags s = some f → f.abandon = true →
        let p := oldestFirst (advanceCounters s)
        let gone := s.sch.effected.filter (fun e => decide (p < e.pos))
        ∃ u r pre reverts mid post, exec (.milestoneBoundary dm) s = .next u ∧
          u.jrn.records = s.jrn.records ++ r :: (pre ++ reverts ++ mid ++ post) ∧
          r.type = 0x31 ∧ r.srcFlags = 0 ∧ r.a0 = BitVec.ofNat 32 p ∧ r.a1 = BitVec.ofNat 32 (p / 2 ^ 32) ∧
          r.a2 = BitVec.ofNat 32 (lowestCause f.causes) ∧ r.milestone = s.sch.milestone + 1 ∧
          reverts.map (fun r => (writeKey r, r.a1, r.a2)) = gone.reverse.map (fun e => (keyOf 0 1 e.addr now, e.val, e.old)) ∧
          post.map writeKey = keys p ws ∧ writes u p ws (s.sch.effected.filter (fun e => decide (e.pos ≤ p))) ∧
          u.sch.reapply = gone ++ s.sch.reapply.filter (fun e => decide (e.pos ≠ p)) ∧
          holds u (gone.reverse.map (fun e => (e.addr, e.old &&& rwOf e.addr)) ++ data p ws))) ∧
    (boundaryReady s = true → jobEnds s = true →
      ∃ u pre r ws post, exec (.milestoneBoundary dm) s = .next u ∧ u.jrn.records = s.jrn.records ++ pre ++ r :: (ws ++ post) ∧
        r.type = 0x12 ∧ r.srcFlags = 0 ∧ (∀ i, s.sch.committed = some i → r.a0 = BitVec.ofNat 32 i.val) ∧ r.a1 = 0 ∧ r.a2 = 0 ∧
        ws.map writeKey = stagedKeys s.sch.staged ∧ (∀ x, x ∈ ws → x.milestone = u.sch.milestone) ∧
        u.sch.staged = [] ∧ u.sch.leftover = [] ∧ holds u (s.sch.staged.map (fun w => (w.addr, w.data)))) ∧
    (s.dev = .ready → isCommitted s = true → s.sch.running = false → s.sch.detour = none →
      reached s s.sch.startTime = true → frozenFor s 0 = false → startsHeard s (neighbours s) = true →
      let ws := if s.sch.tollgates.isEmpty then [] else s.sch.staged
      ∃ u pre post, exec .jobStart s = .next u ∧ u.jrn.records = s.jrn.records ++ pre ++ post ∧ post.map writeKey = keys 0 ws ∧
        (∀ r, r ∈ post → r.milestone = s.sch.milestone) ∧ writes u 0 ws s.sch.effected ∧
        u.sch.reapply = s.sch.reapply.filter (fun e => decide (e.pos ≠ 0)) ∧ holds u (data 0 ws))

/-- What a boundary does to the positions of a district, where the journal has room for its records and every register write that waits is of
a register without a behaviour of its own (R19, R121, R122, R325, R328, R329, R332, R335, R336): at an ordinary one a test that ends leaves
its position free, or retired where it fails, and a window that begins moves the tile of the round pointer; at one that rewinds a second
strike and a triage retire positions, with the spare for the tile of one of them, and a test in their district is abandoned. -/
def Obligations.BoundariesRetireAndTestPositions : Prop :=
  ∀ (s : State) (dm : Damage), s.keyed = true → quietWrites s = true → ampleRoom s = true → (∀ p, p ∈ dm → p.2 = .ok) →
    boundaryReady s = true → jobEnds s = false →
    let status := getReg s 0x00060008
    let ends := fun (d : Nat) => let x := getDist s d
      underTest x.spare && (x.tested.isSome || decide (x.testFrom + 2 ^ bits (getReg s 0x00060000) 20 16 ≤ s.sch.jobMs + 1))
    let result := fun (d : Nat) => (getDist s d).tested.getD .incomplete
    let counted := fun (u : State) (a : Nat) (o : RwOutcome) => (getCnt s a).n < 2 ^ 48 →
      getCnt u a = (getCnt s a).add ((List.range 144).filter (fun d => ends d && decide (result d = o))).length
    let testOver := fun (u : State) (d : Nat) => let x := getDist s d
      (getDist u d).map = x.map ∧ (getDist u d).tested = none ∧ underTest (getDist u d).spare = false ∧
      (result d ≠ .fails → (getDist u d).spare = withFree x.spare (freePos x.spare) false) ∧
      (result d = .fails → freePos (getDist u d).spare = 0xF ∧ isRetired (getDist u d).spare (freePos x.spare) = true ∧
        ∀ p, p < 9 → p ≠ freePos x.spare → isRetired (getDist u d).spare p = isRetired x.spare p)
    let same := fun (u : State) (d : Nat) => (getDist u d).map = (getDist s d).map ∧ (getDist u d).spare = (getDist s d).spare
    ((∀ f, actingFlags s = some f → f.abandon = false) →
      let due := bit (getReg s 0x00060000) 30 &&
        (s.sch.rwDue || decide ((s.sch.jobMs + 1) % 2 ^ bits (getReg s 0x00060000) 20 16 = 0))
      let n := (bits status 2 0 + flag s.sch.rwOpen) % 8
      let gives := fun (d : Nat) => let x := getDist s d
        due && decide (freePos x.spare ≠ 0xF) && (!underTest x.spare || (ends d && decide (result d ≠ .fails))) &&
        (firstOfStep (advanceCounters s) || x.sample.isEmpty)
      ∃ u, exec (.milestoneBoundary dm) s = .next u ∧
        (∀ d, d < 144 → let x := getDist s d
          (gives d = true → (getDist u d).map = moveTo x.map n (freePos x.spare) ∧ freePos (getDist u d).spare = mapPos x.map n ∧
            underTest (getDist u d).spare = true ∧ (getDist u d).testFrom = s.sch.jobMs + 1 ∧ (getDist u d).tested = none ∧
            ∀ p, p < 9 → isRetired (getDist u d).spare p = isRetired x.spare p) ∧
          (ends d = true → gives d = false → testOver u d) ∧ (ends d = false → gives d = false → same u d)) ∧
        counted u 0x00060148 .passes ∧ counted u 0x00060150 .fails ∧ counted u 0x00060158 .incomplete ∧
        bits (getReg u 0x00060008) 2 0 =
          (let k := if due then n else bits status 2 0
           if (due || s.sch.rwOpen) && u.dists.all (fun p => !underTest p.2.spare) then (k + 1) % 8 else k)) ∧
    (∀ f, actingFlags s = some f → f.abandon = true → (∀ e, e ∈ s.sch.effected → e.addr ≠ 0x00060000) →
      ∃ u, exec (.milestoneBoundary dm) s = .next u ∧
        ((getCnt s 0x00060128).n < 2 ^ 48 →
          getCnt u 0x00060128 = (getCnt s 0x00060128).add ((List.range 144).flatMap (fun d => (getDist s d).due)).length) ∧
        ∀ d, d < 144 → let x := getDist s d
          let y := getDist u d
          let moved := fun (p l : Nat) => y.map = moveTo x.map l (freePos x.spare) ∧ isRetired y.spare p = true ∧
            freePos y.spare = 0xF ∧ underTest y.spare = false
          (x.due = [] → struck x = [] → ends d = false → same u d) ∧ (x.due = [] → struck x = [] → ends d = true → testOver u d) ∧
          (∀ p, x.due = [] → struck x = [p] → isRetired x.spare p = false → (freePos x.spare = 0xF → underTest x.spare = false) →
            (∀ l, tileAtPos x.map p = some l → freePos x.spare ≠ 0xF → moved p l ∧ bit y.spare 14 = bit x.spare 14 ∧
              (underTest x.spare = true → y.tested = none)) ∧
            (∀ l, tileAtPos x.map p = some l → freePos x.spare = 0xF →
              y.map = x.map ∧ isRetired y.spare p = true ∧ bit y.spare 14 = true) ∧
            (tileAtPos x.map p = none → freePos x.spare = p →
              y.map = x.map ∧ isRetired y.spare p = true ∧ freePos y.spare = 0xF ∧ bit y.spare 14 = bit x.spare 14)) ∧
          (∀ p q l m, x.due = [] → (struck x = [p, q] ∨ struck x = [q, p]) → isRetired x.spare p = false → isRetired x.spare q = false →
            tileAtPos x.map p = some l → tileAtPos x.map q = some m → l < m → freePos x.spare ≠ 0xF → freePos x.spare < 9 →
            moved p l ∧ isRetired y.spare q = true ∧ bit y.spare 14 = true) ∧
          (∀ a b l, x.due = [(a, b)] → struck x = [] → a < 9 → b < 9 → isRetired x.spare a = false → isRetired x.spare b = false →
            tileAtPos x.map a = some l → tileAtPos x.map b = none → freePos x.spare = b → underTest x.spare = false →
            y.due = [] ∧ ∃ oa ob : RwOutcome,
              (scanReads s = false → oa = .incomplete ∧ ob = .incomplete) ∧
              (scanReads s = true → oa ≠ .incomplete ∧ ob ≠ .incomplete) ∧
              (oa = .fails → ob ≠ .fails → moved a l ∧ bit y.spare 14 = bit x.spare 14 ∧ isRetired y.spare b = false) ∧
              (oa ≠ .fails → ob = .fails → y.map = x.map ∧ isRetired y.spare b = true ∧ isRetired y.spare a = false ∧
                freePos y.spare = 0xF ∧ bit y.spare 14 = bit x.spare 14) ∧
              ((oa = .fails ↔ ob = .fails) → y.map = x.map ∧ isRetired y.spare a = true ∧ isRetired y.spare b = true ∧
                freePos y.spare = 0xF ∧ bit y.spare 14 = true)))

/-- WAYMARK, RELAY, START, HOLD, RELEASE, RESUME and RIPPLE_TIMEOUT (R196, R199, R201, R212 to R214, R246, R274): the oldest flit of
a link's buffer, from a link of the mask, leaves its flags, its START or its notice in the state; one from outside the mask is counted
and dropped. (Which START copies are a neighbour's news is the model's choice, log 110, DEDUCED.) -/
def Obligations.WayFlitsAreTakenUp : Prop :=
  ∀ (s : State) (n : LinkId) (w : WayFlit), s.keyed = true →
    let far := fun (u : State) => u.tiles = s.tiles ∧ u.mem = s.mem ∧ u.hops = s.hops ∧ u.jrn = s.jrn
    (∀ e r, (getLink s n.val).inWay = e :: r → readWay e.bytes = w →
      let takes := fun (c : Instr) (u : State) => exec c s = .next u ∧ (getLink u n.val).inWay = r ∧ far u
      (inMask s n.val = false →
        ∀ c k, (c, k) ∈ [(Instr.waymark n w, (1 : Byte)), (.relay n w, 2), (.hold n w, 3), (.release n w, 4), (.start n w, 5)] →
        w.kind = k → ∃ u, takes c u ∧ getCnt u 0x000B0010 = (getCnt s 0x000B0010).add 1 ∧ u.sch = s.sch ∧ u.csr = s.csr) ∧
      (inMask s n.val = true →
        (w.kind = 1 → w.jobMs.toNat = wayNext s n.val →
          ∃ u, takes (.waymark n w) u ∧ wayNext u n.val = w.jobMs.toNat + 1 ∧
            { link := some n.val, jobMs := w.jobMs.toNat, round := 0, flags := flagsOf w } ∈ u.sch.rounds) ∧
        (w.kind = 2 →
          ∃ u, takes (.relay n w) u ∧
            { link := some n.val, jobMs := w.jobMs.toNat, round := w.round.toNat, flags := flagsOf w } ∈ u.sch.rounds) ∧
        (w.kind = 5 →
          let e := (n.val, (getLink s n.val).partner)
          ∃ u, takes (.start n w) u ∧ u.csr = s.csr ∧
            (w.jobMs = BitVec.allOnes 48 → e ∉ s.sch.startOwed → e ∈ u.sch.startFrom ∧ u.sch.startOwed = s.sch.startOwed) ∧
            (w.jobMs = BitVec.allOnes 48 → e ∈ s.sch.startOwed → e ∉ u.sch.startOwed ∧ u.sch.startFrom = s.sch.startFrom) ∧
            (w.jobMs = BitVec.allOnes 48 → e ∉ s.sch.startOwed → e ∈ s.sch.startFrom →
              e ∈ u.sch.startAhead ∧ u.sch.startFrom = s.sch.startFrom) ∧
            (w.jobMs ≠ BitVec.allOnes 48 → u.sch = s.sch)) ∧
        (w.kind = 3 → noticeNew s w 0 = true → seenSeq s w.origin.toNat 1 ≠ w.seq.toNat + 1 →
          ∃ u, takes (.hold n w) u ∧
            { origin := w.origin.toNat, seq := w.seq.toNat, freezeFrom := w.freezeFrom.toNat } ∈ u.sch.holdSet ∧
            u.sch.holds.getLsbD 8 = true ∧ u.csr = s.csr) ∧
        (w.kind = 4 → noticeNew s w 1 = true →
          ∃ u, takes (.release n w) u ∧
            u.sch.holdSet =
              s.sch.holdSet.filter (fun h => !(decide (h.origin = w.origin.toNat) && decide (h.seq ≤ w.seq.toNat))) ∧
            u.sch.holds.getLsbD 8 = !u.sch.holdSet.isEmpty ∧ u.csr = s.csr))) ∧
    (∀ v, s.sch.resumeAt = some v → s.sch.holds &&& 0b10111111111 = 0 → reached s v = true →
      ∃ u, exec .resume s = .next u ∧ u.sch.resumeAt = none ∧ u.sch.holds = 0 ∧ u = { s with sch := u.sch }) ∧
    (isCommitted s = true → s.sch.running = true → s.sch.done = true → heardAll s s.sch.jobMs = false →
      (getReg s 0x000A0030).toNat < s.sch.sinceDone → allReached s (milestoneLen s + (getReg s 0x000A0030).toNat + 1) = true →
      ∃ u, exec .rippleTimeout s = .next u ∧ u.sch.holds.getLsbD 7 = true ∧ u.csr = s.csr ∧ far u)

/-! ### Hops -/

/-- HOP_UNIT_RECEIVE, HOP_SEND and CREDIT_STARVED (R203 to R209, R227, R344): the next unit on its way to a hop, or in the buffer of a link
ingress, enters the verge as it comes, or raises VERGE_OVERFLOW where that is full; one ahead of its milestone waits at a link ingress; the
unit at the head takes its turn once its slot has come and the slot and the output have room: it leaves with HOPS one less, to every output
and every tile its road ends at, or is discarded with the violation of the check it fails. What a road's send entry gives of its lines and
flits (log 60, DESIGN CHOICE), the clock by which slots pass (log 33, DEDUCED), that units take their turns in the order of their arrival,
so that the unit at the head of the verge is held against the entry at the head of the table (log 111, DEDUCED), and which of several
failed checks is raised (log 120, DESIGN CHOICE) are the model's choices. -/
def Obligations.HopsPassUnitsInOrder : Prop :=
  ∀ (s : State) (h : HopId) (v : RoadUnit), s.keyed = true → s.dev ≠ .fault →
    let x := getHop s h
    let raises := fun (c : Instr) (code : Nat) => ∃ u, exec c s = .next u ∧ u.sch.holds.getLsbD 0 = true ∧
      (bit (getReg s 0x000A0024) 31 = false → bits (getReg u 0x000A0024) 31 24 = 0x80 + code) ∧
      u.tiles = s.tiles ∧ u.mem = s.mem ∧ u.jrn = s.jrn
    let joins := fun (y : Hop) (w : RoadUnit) =>
      { y with verge := x.verge ++ [w], since := if x.verge.isEmpty then slotNow s h else x.since }
    let moves := fun (u : State) (g : Flight) => u.flights = (landFlight s g (.hop h)).flights ∧
      (g.dests = [.hop h] → u.flights = s.flights.erase g) ∧
      (∀ k, k ≠ h → getHop u k = { getHop s k with readAt := (getHop u k).readAt }) ∧
      (isStreet g.src = false → ∀ k, k ≠ h → getHop u k = getHop s k) ∧ u = { s with hops := u.hops, flights := u.flights }
    (∀ n, h = .linkIn n → nextIngress s n = some v → dropped s v = false →
      (aheadOfTime s v = true →
        ∃ u, exec (.hopUnitReceive h v) s = .next u ∧ getHop u h = { x with early := x.early ++ [v] } ∧
          u = { s with hops := u.hops }) ∧
      (aheadOfTime s v = false → x.verge.length < 16 →
        ∃ u, exec (.hopUnitReceive h v) s = .next u ∧ getHop u h = joins x v ∧
          (∀ k, k ≠ h → getHop u k = getHop s k) ∧ u = { s with hops := u.hops }) ∧
      (aheadOfTime s v = false → 16 ≤ x.verge.length → mayWait s h n = false → raises (.hopUnitReceive h v) 0x14)) ∧
    (∀ g, (∀ n, h ≠ .linkIn n) → (∀ n, h ≠ .linkTx n) → nextFlight s (.hop h) (fun w => w == v) = some g → g.src ≠ h →
      dropped s v = false →
      (x.verge.length < 16 →
        ∃ u, exec (.hopUnitReceive h v) s = .next u ∧ getHop u h = joins x v ∧ moves u g) ∧
      (16 ≤ x.verge.length → raises (.hopUnitReceive h v) 0x14)) ∧
    (∀ n g, h = .linkTx n → nextFlight s (.hop h) (fun w => w == v) = some g → (∀ m, g.src ≠ .linkIn m) → g.src ≠ h →
      dropped s v = false →
      let p := packLine x (roadLines s v.road.toNat) v
      (p.2 = [] → ∃ u, exec (.hopUnitReceive h v) s = .next u ∧ getHop u h = p.1 ∧ moves u g) ∧
      (∀ w, p.2 = [w] → dropped s w = false → x.verge.length < 16 →
        ∃ u, exec (.hopUnitReceive h v) s = .next u ∧ getHop u h = joins p.1 w ∧ moves u g)) ∧
    (∀ r e, atWork s = true → frozen s = false → x.verge = v :: r → dropped s v = false → turnEntry x.table = some e →
      unitFault s (some e) v = none →
      let w := { v with hops := v.hops - 1 }
      let slot := scheduledSlot h e
      let now := slotNow s h
      let room := decide (x.slot ≠ now) || decide (x.used < if (match h with | .bridge _ _ => true | _ => false) then 44 else 1)
      let sent := { x with
        verge := r, table := useTurn x.table v.last, slot := now, used := if x.slot = now then x.used + 1 else 1 }
      let goes := fun (ds : List Dest) (y : RoadUnit) => ({ src := h, dests := ds, u := y, wrote := streetTurn s h } : Flight)
      let ends := e.ends.map (fun k => goes [.tile k.1 k.2] v)
      (now < slot ∨ room = false ∨ outputFree s h = false → exec (.hopSend h) s = .next s) ∧
      (slot ≤ now → room = true → outputFree s h = true →
        ((∀ n, h ≠ .linkTx n) → (∀ n, h ≠ .linkIn n) →
          let near := e.outs.filter takesLines
          let cut := fun (o : HopId) => match o with
            | .linkTx n => decide (1 < e.outs.length) && linkDiscards s n.val
            | _ => false
          let far := e.outs.filter (fun o => !takesLines o && !cut o)
          ∃ u, exec (.hopSend h) s = .next u ∧ getHop u h = { sent with lateness := now - slot, since := now + 1 } ∧
            (∀ k, k ≠ h → getHop u k = getHop s k) ∧
            u.flights = s.flights ++ (if near.isEmpty then [] else [goes (near.map Dest.hop) w]) ++
              far.map (fun o => goes [.hop o] w) ++ ends ∧
            ((∀ o, o ∈ e.outs → cut o = false) → u.cnt = s.cnt) ∧
            u = { s with hops := u.hops, flights := u.flights, pwr := u.pwr, cnt := u.cnt }) ∧
        (∀ n, h = .linkTx n → linkDiscards s n.val = false → (getLink s n.val).waiting = [] →
          ∃ u, exec (.hopSend h) s = .next u ∧ getHop u h = sent ∧
            (getLink u n.val).schQ = [{ payload := schPayload w, last := v.last, slot := slot }] ∧
            u = { s with hops := u.hops, links := u.links }) ∧
        (∀ n o, h = .linkIn n → e.outs = [o] → takesLines o = true → x.early = [] →
          let lines := unpackFlit x (roadLines s v.road.toNat) w
          ∃ u, exec (.hopSend h) s = .next u ∧
            getHop u h = { sent with packs := lines.1.packs, lateness := now - slot, since := now + 1 } ∧
            u.flights = s.flights ++ lines.2.map (fun y => goes [.hop o] y) ++ ends ∧
            (getLink u n.val).inSch = (getLink s n.val).inSch.erase v ∧
            u = { s with hops := u.hops, flights := u.flights, links := u.links }))) ∧
    (∀ r, atWork s = true → frozen s = false → x.verge = v :: r → dropped s v = false → ∀ code slot,
      unitFault s (turnEntry x.table) v = some (code, slot) → code < 0x40 →
      (∀ e, turnEntry x.table = some e → turnNow s h e = true) → raises (.hopSend h) code) ∧
    (∀ n p r, (getLink s n.val).schQ = p :: r → linkActive s n.val = true → creditOk (getLink s n.val) 0 = false →
      64 < (getLink s n.val).starved → isCommitted s = true → frozen s = false → raises (.creditStarved n) 0x13)

/-! ### Links: flits -/

/-- FLIT_TRANSMIT (R205, R232, R234 to R243): one flit leaves in a flit time, its units on the lanes of the link's set in turn; a flit of
the replay in progress first, else WAY before SCH before MGT before LINK, each where it may leave; a sequenced flit takes the next number,
spends its credits and stays in the replay buffer; an SCH flit leaves its hop as late as it trails its slot, and a WAY flit that takes the
place of one makes the hop a slot later. In FAULT nothing leaves (R472). (The model's choices: TIME of a WAY flit is stamped as it leaves,
log 18, and the clock by which the lateness counts, log 33, both DEDUCED.) -/
def Obligations.OneFlitLeavesByPriority : Prop :=
  ∀ (s : State) (n : LinkId), s.keyed = true → linkActive s n.val = true →
    (s.dev = .fault → exec (.flitTransmit n) s = .next s) ∧ (s.dev ≠ .fault →
    let l := getLink s n.val
    let hop := getHop s (.linkTx n)
    let sends := fun (u : State) (cls : Nat) (again last : Bool) (p : List Byte) (q : BitVec 16) =>
      exec (.flitTransmit n) s = .next u ∧
      (∃ lanes : List Nat, u.out = s.out ++ [.flit n (flitBytes (flitHeader cls again (piggyback l) last) p q) lanes] ∧
        lanes.length = 64 ∧ (∀ k, k < 64 → lanes[k]? = some (((laneList l.lanes)[k % (laneList l.lanes).length]?).getD 0))) ∧
      (getLink u n.val).flitTime = l.flitTime + 1 ∧ (getLink u n.val).nakDue = false ∧
      u.pwr.hubFj = s.pwr.hubFj + weight s 11 ∧ (∀ m, m ≠ n.val → getLink u m = getLink s m) ∧
      (∀ h, h ≠ .linkTx n → getHop u h = getHop s h) ∧
      u = { s with links := u.links, out := u.out, cnt := u.cnt, hops := u.hops, pwr := { s.pwr with hubFj := u.pwr.hubFj } }
    let keeps := fun (u : State) (cls : FlitClass) (last : Bool) (p : List Byte) =>
      (getLink u n.val).unacked = l.unacked ++ [{ seq := l.txNext, cls := cls, last := last, payload := p }] ∧
      (getLink u n.val).txNext = l.txNext + 1 ∧ (getLink u n.val).credits = (spendCredit l (classNo cls)).credits ∧
      getCnt u (lnkBase n.val + 0x40) = (getCnt s (lnkBase n.val + 0x40)).add 1
    let way := !l.wayQ.isEmpty && mayLeave l 1
    let sch := !l.schQ.isEmpty && mayLeave l 0 && !frozen s
    let mgt := !l.mgtQ.isEmpty && mayLeave l 2 && !oldLink l
    (∀ f, replayFlit l = some f →
      ∃ u, sends u (classNo f.cls) true f.last f.payload f.seq ∧ (getLink u n.val).txNext = l.txNext ∧
        (getLink u n.val).unacked = l.unacked.map (fun g => if g.seq = f.seq then { g with replays := g.replays + 1 } else g) ∧
        getCnt u (lnkBase n.val + 0x58) = (getCnt s (lnkBase n.val + 0x58)).add 1 ∧ u.hops = s.hops) ∧
    (replayFlit l = none → l.replaySlots = 0 →
      (∀ p r, l.wayQ = p :: r → way = true →
        ∃ u, sends u 1 false false (stampWay s p) l.txNext ∧ keeps u .way false (stampWay s p) ∧ (getLink u n.val).wayQ = r ∧
          getHop u (.linkTx n) = { hop with lateness := if l.schQ.isEmpty then hop.lateness else hop.lateness + 1 }) ∧
      (∀ p r, way = false → l.schQ = p :: r → sch = true →
        ∃ u, sends u 0 false p.last p.payload l.txNext ∧ keeps u .sch p.last p.payload ∧ (getLink u n.val).schQ = r ∧
          getHop u (.linkTx n) = { hop with lateness := slotNow s (.linkTx n) - p.slot, since := slotNow s (.linkTx n) + 1 }) ∧
      (∀ p r, way = false → sch = false → l.mgtQ = p :: r → mgt = true →
        ∃ u, sends u 2 false false p l.txNext ∧ keeps u .mgt false p ∧ (getLink u n.val).mgtQ = r ∧ u.hops = s.hops) ∧
      (way = false → sch = false → mgt = false →
        ∃ u, sends u 3 false false [] l.txNext ∧ (getLink u n.val).unacked = l.unacked ∧ (getLink u n.val).txNext = l.txNext ∧
          u.hops = s.hops)))

/-- FLIT_RECEIVE, NAK_TIMEOUT, REPLAY_TIMEOUT and LINK_REPLAY_ALLOWANCE_EXPIRY (R199, R212, R218, R235 to R240, R244, R249, R391): a flit
whose check fits the expected number is accepted once and in order, with its acknowledgement; a WAY flit is kept with the local time at
which it passed, unless a byte that R200 leaves zero is not; an MGT flit frees its credits and joins the fragments of its frame, and a
frame that it makes whole for this chip waits for the management engine (R246, R416); the first flit whose check does not fit asks for a
replay. -/
def Obligations.FlitsAreAcceptedInOrder : Prop :=
  ∀ (s : State) (n : LinkId) (via : Word) (f : List Byte), s.keyed = true → linkActive s n.val = true →
    let l := getLink s n.val
    let h : Word := BitVec.ofNat 32 (num f 0 4)
    let cls := bits h 31 30
    let v : BitVec 16 := BitVec.ofNat 16 (bits h 24 9)
    let p := slice f 4 244
    let good := flitCrc l.rxExpect f = BitVec.ofNat 64 (num f 248 8)
    let only := fun (u : State) => (∀ m, m ≠ n.val → getLink u m = getLink s m) ∧ u = { s with links := u.links, cnt := u.cnt, pwr := u.pwr }
    (good → badHeader cls h = false → bits h 28 25 = 0 → ackValid l v = true → cls ≤ 1 → hasRoom s n.val cls = true →
      (cls = 1 → wayWellFormed p = true) →
      ∃ u, exec (.flitReceive n via f) s = .next u ∧ (getLink u n.val).rxExpect = l.rxExpect + 1 ∧
        (getLink u n.val).nakState = false ∧ (getLink u n.val).unacked = (ackTo l v).unacked ∧
        (cls = 0 → (getLink u n.val).inSch = l.inSch ++ [unitOf (bit h 8) p]) ∧
        (cls = 1 → (getLink u n.val).inWay = l.inWay ++ [{ bytes := p, stamp := localTime s, replayed := bit h 29 }]) ∧
        getCnt u (lnkBase n.val + 0x48) = (getCnt s (lnkBase n.val + 0x48)).add 1 ∧ only u) ∧
    (good → badHeader cls h = false → bits h 28 25 = 0 → ackValid l v = true → cls = 2 → oldLink l = false → hasRoom s n.val 2 = true →
      let part := addPart s n.val via p
      let accepts := fun (u : State) => exec (.flitReceive n via f) s = .next u ∧ (getLink u n.val).rxExpect = l.rxExpect + 1 ∧
        (getLink u n.val).nakState = false ∧ (getLink u n.val).unacked = (ackTo l v).unacked ∧
        (getLink u n.val).credits = (freeCredit l 2).credits ∧ (getLink u n.val).inSch = l.inSch ∧ (getLink u n.val).inWay = l.inWay ∧
        getCnt u (lnkBase n.val + 0x48) = (getCnt s (lnkBase n.val + 0x48)).add 1 ∧ (∀ m, m ≠ n.val → getLink u m = getLink s m) ∧
        u = { s with links := u.links, cnt := u.cnt, pwr := u.pwr, ports := u.ports }
      (part.2 = none → ∃ u, accepts u ∧ u.ports = part.1.ports) ∧
      (∀ b, part.2 = some b → (sameChip (BitVec.ofNat 32 (num b 20 4)) (coord s) = true ∨ num b 20 4 = 0xFFFFFFFF) →
        num b 4 2 % 2 = 0 → ∃ u, accepts u ∧ u.ports = { part.1.ports with arrived := s.ports.arrived ++ [⟨n.val, via, b⟩] })) ∧
    (good → badHeader cls h = false → bits h 28 25 = 0 → cls = 1 → hasRoom s n.val 1 = true → wayWellFormed p = false →
      inMask s n.val = true → ackValid l v = true →
      ∃ u, exec (.flitReceive n via f) s = .next u ∧ (getLink u n.val).inWay = l.inWay ∧ u.sch.holds.getLsbD 0 = true ∧
        (getLink u n.val).rxExpect = l.rxExpect + 1 ∧ u.tiles = s.tiles ∧ u.mem = s.mem) ∧
    (good → badHeader cls h = false → bits h 28 25 = 0 → ackValid l v = true → cls = 3 →
      ∃ u, exec (.flitReceive n via f) s = .next u ∧ getLink u n.val = ackTo l v ∧ only u) ∧
    (¬ good → l.nakState = false →
      ∃ u, exec (.flitReceive n via f) s = .next u ∧ getLink u n.val = { l with nakState := true, nakDue := true } ∧
        getCnt u (lnkBase n.val + 0x50) = (getCnt s (lnkBase n.val + 0x50)).add 1 ∧ only u) ∧
    (¬ good → l.nakState = true → exec (.flitReceive n via f) s = .next s) ∧
    (l.nakState = true →
      ∃ u, exec (.nakTimeout n) s = .next u ∧ getLink u n.val = { l with nakDue := true } ∧
        getCnt u (lnkBase n.val + 0x60) = (getCnt s (lnkBase n.val + 0x60)).add 1 ∧ only u) ∧
    (l.unacked ≠ [] → (∀ g, g ∈ l.unacked → g.replays < 8) →
      ∃ u, exec (.replayTimeout n) s = .next u ∧
        getLink u n.val = { l with replayAt := some (oldestSeq l), replayFrom := oldestSeq l } ∧
        getCnt u (lnkBase n.val + 0x68) = (getCnt s (lnkBase n.val + 0x68)).add 1 ∧ only u) ∧
    ((getReg s 0x000A0034).toNat < l.replaySlots →
      ∃ u, exec (.linkReplayAllowanceExpiry n) s = .next u ∧ u.sch.holds.getLsbD 2 = true ∧ u.csr = s.csr ∧ u.tiles = s.tiles)

/-! ### Links: training -/

/-- What leaves on a link reads back (R204, R250): n lines of 64 bytes fill ceil(64n / 240) flits, the last one filled with zeros, and the
flits come apart into the same n lines; where the mark END ends a transfer short and its lines are a wire block, the mark goes with the last
flit and comes out on the last line of the block, and no line of the fill follows it (R183, R184); a training block passes the checks of a received block, and carries the type, the lane, INIT, ACK,
the width and rate asked for, the lanes received, the coordinate, EXPECT and T_TURN. (The zeros that fill the last flit are the model's
choice, log 60, and so is that a link ingress tells the lines of an ended block by its own COUNT and descriptors.) -/
def Obligations.WhatALinkSendsReadsBack : Prop :=
  (∀ (x y : Hop) (us : List RoadUnit) (road : BitVec 16) (ms hops : BitVec 8),
    let fill := fun (z : Hop × List RoadUnit) (u : RoadUnit) => let p := packLine z.1 us.length u; (p.1, z.2 ++ p.2)
    let empty := fun (z : Hop × List RoadUnit) (u : RoadUnit) => let p := unpackFlit z.1 us.length u; (p.1, z.2 ++ p.2)
    let flits := (us.foldl fill (x, [])).2
    us ≠ [] → (∀ u, u ∈ us → u.road = road ∧ u.ms = ms ∧ u.hops = hops ∧ u.last = false ∧ u.data.length = 64) →
    (∀ p, p ∈ x.packs ++ y.packs → ¬ (p.road = road ∧ p.ms = ms)) →
    flits.length = ceilDiv (64 * us.length) 240 ∧
    (∀ w, w ∈ flits → w.road = road ∧ w.ms = ms ∧ w.hops = hops ∧ w.last = false ∧ w.data.length = 240) ∧
    flits.flatMap (·.data) = us.flatMap (·.data) ++ List.replicate (240 * flits.length - 64 * us.length) 0 ∧
    (us.foldl fill (x, [])).1 = x ∧ (flits.foldl empty (y, [])).2 = us ∧ (flits.foldl empty (y, [])).1 = y) ∧
  (∀ (x y : Hop) (us : List RoadUnit) (road : BitVec 16) (ms hops : BitVec 8) (total : Nat),
    let fill := fun (z : Hop × List RoadUnit) (u : RoadUnit) => let p := packLine z.1 total u; (p.1, z.2 ++ p.2)
    let empty := fun (z : Hop × List RoadUnit) (u : RoadUnit) => let p := unpackFlit z.1 total u; (p.1, z.2 ++ p.2)
    let ended := markLast true us
    let flits := (ended.foldl fill (x, [])).2
    us ≠ [] → us.length ≤ total → (∀ u, u ∈ us → u.road = road ∧ u.ms = ms ∧ u.hops = hops ∧ u.last = false ∧ u.data.length = 64) →
    (∀ p, p ∈ x.packs ++ y.packs → ¬ (p.road = road ∧ p.ms = ms)) → announcedLines (flits.flatMap (·.data)) = some us.length →
    flits.length = ceilDiv (64 * us.length) 240 ∧ flits.map (·.last) = List.replicate (flits.length - 1) false ++ [true] ∧
    (flits.foldl empty (y, [])).2 = ended ∧ (flits.foldl empty (y, [])).1 = y) ∧
  (∀ (s : State) (n type turn lane : Nat),
    let l := getLink s n
    let b := tsBlock s n type turn lane
    1 ≤ type → type ≤ 5 → lane < 4 → l.askWidth ≠ 3 → l.askRate ≠ 3 →
    (∀ c, l.chosen = some c → c.width ≠ 3 ∧ c.rate ≠ 3) →
    blockError b = none ∧ tsType b = type ∧ tsBits b 9 8 = lane ∧ tsInit b = l.full ∧
    tsAck b = (l.ackSent && decide (type = 2)) ∧ tsBits b 13 12 = l.askWidth.toNat ∧ tsBits b 15 14 = l.askRate.toNat ∧
    tsBits b 19 16 = l.lanesOk.toNat ∧ tsBits b 27 20 = bits (getReg s 0x0000000C) 31 24 ∧
    tsBits b 35 28 = bits (getReg s 0x0000000C) 23 16 ∧ tsCoord b = coord s ∧ tsBits b 83 68 = l.rxExpect.toNat ∧
    tsBits b 99 84 = turn % 2 ^ 16 ∧ (∀ c, l.chosen = some c → tsChosen b = c))

/-- SIGNAL_LOCK, TS1, PAUSE_TIMER_EXPIRY, ALIGN_DONE, TRAINING_RETRY_TIMER, TS3 and TS_TEST (R230, R250, R251, R255, R257 to R259, R262):
the state each leads to and what is sent. PAUSE ends when TS1 has gone out for its 64 ns and the partner's TS1 has come, whichever is the
later (R258). TS1 in ACTIVE starts a retrain; in NEGOTIATE or VERIFY it ends the attempt with PARTNER_ABORT, and
the next one begins at once; a block with INIT in ACTIVE or in a retrain makes the link follow into a full initialisation. -/
def Obligations.TrainingAdvances : Prop :=
  ∀ (s : State) (n : LinkId) (b : BitVec 128), s.keyed = true → s.dev ≠ .fault →
    let l := getLink s n.val
    let sends1 := fun (u : State) => Out.training n (getLink u n.val).askRate ((List.range 4).map (tsBlock u n.val 1 0)) ∈ u.out
    let frozenBy := fun (u : State) => (getLink u n.val).raised = true ∧ u.sch.holds.getLsbD 1 = true
    let far := fun (u : State) => u.csr = s.csr ∧ u.tiles = s.tiles ∧ u.mem = s.mem ∧ u.jrn = s.jrn ∧
      (∀ m, m ≠ n.val → (getLink u m).state = (getLink s m).state)
    let sent := fun (u : State) (type : Nat) =>
      u.out = s.out ++ [.training n l.askRate ((List.range 4).map (tsBlock u n.val type 0))]
    let only := fun (u : State) => (∀ m, m ≠ n.val → getLink u m = getLink s m) ∧ u = { s with links := u.links, out := u.out }
    (∀ lane : Fin 4, (l.state = .detect ∨ l.state = .align) → l.failedWait = false →
      ∃ u, exec (.signalLock n lane) s = .next u ∧ u.out = s.out ∧
        getLink u n.val = { l with state := .align, locked := l.locked ||| (1 <<< lane.val) } ∧ only u) ∧
    (blockError b = none → tsInit b = false → (l.state = .pause ∨ l.state = .detect ∨ l.state = .align) →
      ∃ u, exec (.ts1 n b) s = .next u ∧ u.out = s.out ∧
        getLink u n.val = { l with ts1Seen := true, state := if l.pauseOver && !l.failedWait then .align else l.state } ∧ only u) ∧
    (blockError b = none → tsInit b = false → l.state = .active →
      ∃ u, exec (.ts1 n b) s = .next u ∧ (getLink u n.val).state = .pause ∧ (getLink u n.val).ts1Seen = true ∧
        (getLink u n.val).full = false ∧ (getLink u n.val).unacked = l.unacked ∧ (getLink u n.val).txNext = l.txNext ∧
        (getLink u n.val).rxExpect = l.rxExpect ∧ (getLink u n.val).askWidth = l.width ∧ (getLink u n.val).askRate = l.rate ∧
        getCnt u (lnkBase n.val + 0x70) = (getCnt s (lnkBase n.val + 0x70)).add 1 ∧ frozenBy u ∧ sends1 u ∧ far u) ∧
    (blockError b = none → (tsInit b = false ∨ l.full = true) → (l.state = .negotiate ∨ l.state = .verify) → l.failedWait = false →
      let now := s.tme.age
      let times := if l.full then l.failTimes else (l.failTimes ++ [now]).filter (fun t => decide (now - t ≤ 10000000))
      ∃ u, exec (.ts1 n b) s = .next u ∧ (getLink u n.val).failCause = 8 ∧
        getCnt u (lnkBase n.val + 0x78) = (getCnt s (lnkBase n.val + 0x78)).add 1 ∧
        (l.full = true ∨ times.length < 3 → (getLink u n.val).state = (if l.full then .detect else .pause) ∧
          (getLink u n.val).full = l.full ∧ (getLink u n.val).failTimes = times ∧
          (getLink u n.val).failedWait = false ∧ (getLink u n.val).ts1Seen = true ∧ (getLink u n.val).unacked = l.unacked ∧ sends1 u) ∧
        (l.full = false → 3 ≤ times.length → (getLink u n.val).state = .down ∧ (getLink u n.val).unacked = []) ∧ far u) ∧
    (blockError b = none → tsInit b = true →
      l.state = .active ∨ (l.full = false ∧ (l.state = .pause ∨ l.state = .align ∨ l.state = .negotiate ∨ l.state = .verify)) →
      ∀ c, c ∈ [Instr.ts1 n b, .ts2 n b 0, .ts3 n b] →
      ∃ u, exec c s = .next u ∧ (getLink u n.val).state = .detect ∧ (getLink u n.val).full = true ∧ (getLink u n.val).unacked = [] ∧
        (getLink u n.val).inSch = [] ∧ (getLink u n.val).inWay = [] ∧ (getLink u n.val).txNext = 0 ∧ (getLink u n.val).rxExpect = 0 ∧
        frozenBy u ∧ sends1 u ∧ far u) ∧
    (l.state = .pause → l.failedWait = false →
      ∃ u, exec (.pauseTimerExpiry n) s = .next u ∧ u.out = s.out ∧
        getLink u n.val = { l with pauseOver := !l.ts1Seen, state := if l.ts1Seen then .align else .pause } ∧ only u) ∧
    (∀ lanesOk, l.state = .align → l.failedWait = false →
      ∃ u, exec (.alignDone n lanesOk true) s = .next u ∧ sent u 2 ∧
        getLink u n.val = { l with state := .negotiate, lanesOk := lanesOk } ∧ only u) ∧
    (l.failedWait = true → l.state ≠ .test → l.state ≠ .disabled → l.state ≠ .down →
      ∃ u, exec (.trainingRetryTimer n) s = .next u ∧ sent u 1 ∧
        (getLink u n.val).state = (if l.full then .detect else .pause) ∧ (getLink u n.val).failedWait = false ∧
        (getLink u n.val).full = l.full ∧ (getLink u n.val).unacked = l.unacked ∧ only u) ∧
    (blockError b = none → tsInit b = false → exec (.ts3 n b) s = .next s) ∧
    (∀ lane : Fin 4, l.state = .test → l.failedWait = false → (List.range 8).all (parityOk b) = false →
      ∃ u, exec (.tsTest n lane b) s = .next u ∧
        getLink u n.val = { l with failedWait := true, failLane := BitVec.ofNat 2 lane.val } ∧
        getCnt u (lnkBase n.val + 0x88) = (getCnt s (lnkBase n.val + 0x88)).add 1 ∧
        u = { s with links := u.links, cnt := u.cnt })

/-- TS2 and VERIFY_COMPLETE (R250 to R256, R258, R264): the chip with the lower coordinate leads and chooses; the other copies the choice,
unless it was narrowed against its AUTO_NARROW; both measure the delay; VERIFY leads to ACTIVE with the chosen lanes, width, rate and
version, and TS_DONE carries INIT where the attempt is a full initialisation. LNKnn_PARTNER keeps the coordinate of the last block, whatever
comes of it. -/
def Obligations.NegotiationReachesActive : Prop :=
  ∀ (s : State) (n : LinkId) (b : BitVec 128) (elapsed : Nat), s.keyed = true → s.dev ≠ .fault →
    let l := getLink s n.val
    let version := if l.full then pickVersion s b else some l.version
    let delay := (elapsed - 125 * tsBits b 99 84) / 2
    let all := fun (u : State) (type turn : Nat) => Out.training n l.askRate ((List.range 4).map (tsBlock u n.val type turn))
    let chosen := fun (u : State) (c : Chosen) (type : Nat) =>
      Out.training n c.rate ((laneList c.laneSet).map (tsBlock u n.val type 0))
    (blockError b = none → (tsInit b = false ∨ l.full = true) → l.state = .negotiate → l.failedWait = false →
      (∃ u, exec (.ts2 n b elapsed) s = .next u ∧ (getLink u n.val).partner = tsCoord b) ∧
      (tsCoord b = coord s → ∃ u, exec (.ts2 n b elapsed) s = .next u ∧ (getLink u n.val).failCause = 5)) ∧
    (∀ v l', blockError b = none → (tsInit b = false ∨ l.full = true) → l.state = .negotiate → l.failedWait = false →
      version = some v → takeExpect l b = some l' →
      ((coord s).toNat < (tsCoord b).toNat →
        (∀ c, l.chosen = none → choose s n.val b v = some c →
          ∃ u, exec (.ts2 n b elapsed) s = .next u ∧ u.out = s.out ++ [all u 2 0] ∧
            (getLink u n.val).chosen = some c ∧ (getLink u n.val).ackSent = true ∧ (getLink u n.val).leader = true ∧
            (getLink u n.val).partner = tsCoord b ∧
            (getLink u n.val).state = .negotiate ∧ (getLink u n.val).unacked = l'.unacked) ∧
        (l.chosen = none → choose s n.val b v = none →
          ∃ u, exec (.ts2 n b elapsed) s = .next u ∧ (getLink u n.val).failCause = 6) ∧
        (∀ c, l.chosen = some c → l.ackSent = true → tsAck b = true → tsChosen b = c →
          ∃ u, exec (.ts2 n b elapsed) s = .next u ∧ u.out = s.out ++ [chosen u c 3] ∧ (getLink u n.val).state = .verify ∧
            (getLink u n.val).delayPs = BitVec.ofNat 32 delay ∧
            (getLink u n.val).rttPs = BitVec.ofNat 32 (2 * delay + 64000))) ∧
      ((tsCoord b).toNat < (coord s).toNat → tsAck b = true →
        let c := tsChosen b
        (askedWidth l b < c.width.toNat → autoNarrow s n.val = false →
          ∃ u, exec (.ts2 n b elapsed) s = .next u ∧ (getLink u n.val).failCause = 6) ∧
        (c.width.toNat ≤ askedWidth l b ∨ autoNarrow s n.val = true →
          let turn := if l.firstTs2At then (elapsed - l.turnPs) / 125 else 0
          ∃ u, exec (.ts2 n b elapsed) s = .next u ∧ u.out = s.out ++ [all u 2 turn, chosen u c 3] ∧
            (getLink u n.val).state = .verify ∧ (getLink u n.val).chosen = some c ∧
            (getLink u n.val).leader = false ∧ (getLink u n.val).partner = tsCoord b ∧
            (getLink u n.val).delayPs = BitVec.ofNat 32 delay))) ∧
    (∀ c, l.chosen = some c → l.state = .verify → l.failedWait = false →
      ∃ u, exec (.verifyComplete n) s = .next u ∧
        u.out = s.out ++ [chosen (setLink u n.val { getLink u n.val with full := l.full }) c 4] ∧ (getLink u n.val).full = false ∧
        (getLink u n.val).state = .active ∧ (getLink u n.val).width = c.width ∧ (getLink u n.val).rate = c.rate ∧
        (getLink u n.val).lanes = c.laneSet ∧ (getLink u n.val).version = c.version ∧ (getLink u n.val).raised = false ∧
        (getLink u n.val).unacked = l.unacked.map (fun f => { f with replays := 0 }) ∧
        (l.unacked ≠ [] → (getLink u n.val).replayAt = some (oldestSeq l)) ∧
        ((∀ m, m < 24 → m ≠ n.val → (getLink s m).raised = false) → u.sch.holds.getLsbD 1 = false) ∧
        u.csr = s.csr ∧ u.tiles = s.tiles ∧ u.jrn = s.jrn)

/-- LOSS_OF_SIGNAL, RETRAIN_TIMEOUT and MALFORMED_TRAINING_BLOCK (R250, R251, R257 to R260, R265): a retrain freezes the chip with
LINK_RETRAIN and sends TS1; a failed attempt is counted and reported; the third failed retrain within any 10 ms marks the link down, and
attempts at full initialisation neither count towards it nor undo what was counted. -/
def Obligations.RetrainsAndFailures : Prop :=
  ∀ (s : State) (n : LinkId), s.keyed = true → s.dev ≠ .fault →
    let l := getLink s n.val
    let now := s.tme.age
    let times := if l.full then l.failTimes else (l.failTimes ++ [now]).filter (fun t => decide (now - t ≤ 10000000))
    let fails := fun (c : Instr) (cause : Nat) => ∃ u, exec c s = .next u ∧
      (getLink u n.val).failCause = BitVec.ofNat 6 cause ∧
      getCnt u (lnkBase n.val + 0x78) = (getCnt s (lnkBase n.val + 0x78)).add 1 ∧
      (l.full = true ∨ times.length < 3 → (getLink u n.val).failedWait = true ∧ (getLink u n.val).state = l.state ∧
        (getLink u n.val).failTimes = times ∧ (getLink u n.val).askRate = nextRate s n.val l ∧
        u.ports.reportSeq = s.ports.reportSeq + 1) ∧
      (l.full = false → 3 ≤ times.length → (getLink u n.val).state = .down ∧ (getLink u n.val).down = true ∧
        (getLink u n.val).unacked = [] ∧ (getLink u n.val).schQ = [] ∧ (getLink u n.val).raised = false) ∧
      u.csr = s.csr ∧ u.tiles = s.tiles ∧ u.mem = s.mem
    (∀ lane : Fin 4, linkActive s n.val = true → l.lanes.getLsbD lane.val = true →
      ∃ u, exec (.lossOfSignal n lane) s = .next u ∧ (getLink u n.val).state = .pause ∧ (getLink u n.val).full = false ∧
        (getLink u n.val).raised = true ∧ u.sch.holds.getLsbD 1 = true ∧ (getLink u n.val).unacked = l.unacked ∧
        (getLink u n.val).txNext = l.txNext ∧ (getLink u n.val).rxExpect = l.rxExpect ∧
        (getLink u n.val).askWidth = l.width ∧ (getLink u n.val).askRate = l.rate ∧
        getCnt u (lnkBase n.val + 0x70) = (getCnt s (lnkBase n.val + 0x70)).add 1 ∧
        .training n l.rate ((List.range 4).map (tsBlock u n.val 1 0)) ∈ u.out ∧ u.csr = s.csr ∧ u.tiles = s.tiles) ∧
    (attempting l = true → l.full = false → fails (.retrainTimeout n) 3) ∧
    (∀ b c, blockError b = some c → attempting l = true → fails (.malformedTrainingBlock n b) c)

/-! ### Clocks and power -/

/-- OWN_STRETCH, SYMPATHETIC_STRETCH, CROSSING_ALERT, REALIGNMENT and CLOCK_LOSS (R345 to R348, R355, R357, R358): the margins that
are read, the event that is taken and counted with its quarters of a period, the crossing FIFO that stops, what a realignment resets, the
entries of the crossing FIFOs that it delivers, in order, to the verges of their hops, and the FAULT, at which the journal changes only
where a low word that is held has no record yet (the model's reading of R6, log 121, DEDUCED). -/
def Obligations.ClockCommandsComplete : Prop :=
  ∀ (s : State) (d : Fin 144), s.keyed = true →
    let q := quadOf d.val
    let x := getDist s d.val
    let takes := fun (u : State) (cnt : Nat) (deep : Bool) => (getDist u d.val).event = x.event + 1 ∧
      (getDist u d.val).stretched = x.stretched + 1 ∧ (getDist u d.val).lag = x.lag + (if deep then 2 else 1) ∧
      (getDist u d.val).deep.getLsbD x.event.toNat = deep ∧
      getCnt u (dstBase d.val + cnt) = (getCnt s (dstBase d.val + cnt)).add 1
    let far := fun (u : State) => u.tiles = s.tiles ∧ u.mem = s.mem ∧ u.jrn = s.jrn
    (∀ margins, clocksRun s q = true →
      ∃ u, exec (.ownStretch d margins) s = .next u ∧ getReg u (dstBase d.val + 0xF104) = margins ∧
        (getDist u d.val).minNow = minMargins x.minNow margins ∧
        (leastMargin margins < bits (getReg s 0x00030008) 15 8 →
          takes u 0xF118 (decide (leastMargin margins < bits (getReg s 0x00030008) 7 0))) ∧
        (¬ leastMargin margins < bits (getReg s 0x00030008) 15 8 → getDist u d.val = { x with minNow := (getDist u d.val).minNow }) ∧
        u.sch = s.sch ∧ u.hops = s.hops ∧ far u) ∧
    (∀ (port : Fin 4) (n : Nat), clocksRun s q = true → streetNeighbour d.val port.val = some n →
      eventAhead (getDist s n).event x.event = true →
      ∃ u, exec (.sympatheticStretch d port) s = .next u ∧ takes u 0xF120 ((getDist s n).deep.getLsbD x.event.toNat) ∧
        u.sch = s.sch ∧ u.hops = s.hops ∧ far u) ∧
    (∀ (port : Fin 4) (plus : Bool), clocksRun s q = true → streetNeighbour d.val port.val ≠ none → port.val ∉ x.stopped →
      ∃ u, exec (.crossingAlert d port plus) s = .next u ∧ (getDist u d.val).stopped = x.stopped ++ [port.val] ∧
        u.sch.holds.getLsbD 3 = true ∧ bit (getReg u (clkBase q + 4)) 31 = true ∧
        bits (getReg u (clkBase q + 4)) 15 8 = d.val ∧ bits (getReg u (clkBase q + 4)) 7 6 = port.val ∧
        u.hops = s.hops ∧ u.flights = s.flights ∧ far u) ∧
    (∀ k : Fin 4, clocksRun s k.val = true → frozen s = true → dieStopped s k.val = true → inTurn s 3 = true →
      ∃ u, exec (.realignment k) s = .next u ∧
        (∀ e, e ∈ dieDistricts k.val → getDist u e = { getDist s e with
          delta := [], stopped := [], event := (getDist s (36 * k.val + 14)).event }) ∧
        (∀ e, e ∉ dieDistricts k.val → getDist u e = getDist s e) ∧
        (∀ g, g ∈ u.flights → onStreet k.val g = true → g.isRead = true ∧ ∀ d, d ∈ g.dests → toTile d = true) ∧
        (∀ g, onStreet k.val g = false → (g ∈ u.flights ↔ g ∈ s.flights)) ∧
        (∀ h, (∀ n, h ≠ .linkTx n) →
          let units := (s.flights.filter (onStreet k.val)).flatMap (fun g => (g.dests.filter (fun d => d == .hop h)).map (fun _ => g.u))
          (∀ v, v ∈ units → dropped s v = false) → (getHop s h).verge.length + units.length ≤ 16 →
          (getHop u h).verge = (getHop s h).verge ++ units ∧ (getHop u h).table = (getHop s h).table) ∧
        ((∀ g, g ∈ s.flights → onStreet k.val g = false) → u.hops = s.hops ∧ u.csr = s.csr) ∧
        getCnt u (0x00030108 + 0x10 * k.val) = (getCnt s (0x00030108 + 0x10 * k.val)).add 1 ∧ far u) ∧
    (∀ c : ClockSource, s.porstN = true → s.dev ≠ .fault →
      ∃ u, exec (.clockLoss c) s = .next u ∧ u.dev = .fault ∧ u.faultCause = 2 ∧
        ((∀ h, h ∈ s.holding → h.owed = none) → u.jrn = s.jrn ∧ u.sch = s.sch) ∧
        (∀ b, lockBit c = some b → u.clk.locks.getLsbD b = false) ∧ (c = .refclk → u.clk.refOk = false) ∧
        (c = .timeclk → u.clk.timeOk = false) ∧ u.csr = s.csr ∧ u.hops = s.hops ∧ u.tiles = s.tiles ∧ u.mem = s.mem)

/-- POWER_TICK, POWER_SAMPLE, POWER_ESTIMATE and BRD_THROT_N_EDGE (R359, R360, R362, R363, R366, R369, R376, R377): a die's activity is its
weighted count of the tick with the ballast, which counts under class 10 in its districts, or, while its clock is stopped, in the cells
outside them (R364); its budget stays from 8 to 64 and moves by at
most one a tick; the sensed temperatures reach their registers, a heating pattern ends (R333), and a district at the trip temperature in
two consecutive samples is a FAULT; the energy of every estimate is counted with nothing lost. (The unit of 1/562,500 nW, the rounding of
the ballast down to whole cycles and how a die's districts share it are the model's choices, log 36, DEDUCED.) -/
def Obligations.PowerControllerKeepsItsBounds : Prop :=
  ∀ s : State, s.keyed = true →
    (controls s = true → (∀ q, q < 4 → 8 ≤ (getDie s q).budget ∧ (getDie s q).budget ≤ 64) → SMap.rising s.pwr.dies = true →
      ∃ u, exec .powerTick s = .next u ∧
        (∀ q, q < 4 → 8 ≤ (getDie u q).budget ∧ (getDie u q).budget ≤ 64 ∧ (getDie u q).budget ≤ (getDie s q).budget + 1 ∧
          (getDie s q).budget ≤ (getDie u q).budget + 1 ∧
          (getDie u q).act64 = 64 * ((getDie s q).tickFj + ballastCycles s q * weight s 10) ∧
          (getDie u q).tickFj = 0 ∧ (getDie u q).removed = false) ∧
        (SMap.rising s.pwr.districtFj = true → ∀ d, d < 144 →
          let k := if 0 < SMap.get 0 s.clk.stop (quadOf d) then 0 else ballastCycles s (quadOf d)
          SMap.get 0 u.pwr.districtFj d =
            SMap.get 0 s.pwr.districtFj d + (k / 36 + (if d % 36 < k % 36 then 1 else 0)) * weight s 10) ∧
        u = { s with pwr := u.pwr, csr := u.csr, cnt := u.cnt, fresh := s.fresh + 1 }) ∧
    (∀ r, controls s = true →
      let hot := (List.range 144).filter (fun d =>
        decide (bits (getReg s 0x00040010) 15 8 ≤ min 255 ((r.districtC[d]?).getD 0)))
      ∃ u, exec (.powerSample r) s = .next u ∧
        (∀ d, d < 144 → tempOf u d = min 255 ((r.districtC[d]?).getD 0)) ∧ u.pwr.hot = hot ∧
        u.pwr.hubFj = 0 ∧ u.pwr.districtFj = [] ∧
        (∀ d, d < 144 → (getDist u d).heating = ((getDist s d).heating &&
          !(decide (min (tempOf u d + min 15 (bits (getReg s 0x00060004) 7 0)) 105 ≤ Config.ownSensor s.fresh d) ||
            (List.range 144).any (fun e => decide (105 ≤ tempOf u e))))) ∧
        ((∃ d, d ∈ hot ∧ d ∈ s.pwr.hot) → u.dev = .fault ∧ u.faultCause = 1) ∧
        ((∀ d, d ∈ hot → d ∉ s.pwr.hot) → u.dev = .ready) ∧ u.tiles = s.tiles ∧ u.mem = s.mem ∧ u.sch = s.sch) ∧
    (controls s = true →
      let p := twicePackage s
      ∃ u, exec .powerEstimate s = .next u ∧ u.pwr.estimates = lastOf 500 (s.pwr.estimates ++ [p]) ∧
        u.pwr.uj < 562500 * 1000000000 ∧
        getCnt u 0x00040130 = (getCnt s 0x00040130).add ((s.pwr.uj + p) / (562500 * 1000000000)) ∧
        (s.pwr.uj + p) / (562500 * 1000000000) * (562500 * 1000000000) + u.pwr.uj = s.pwr.uj + p ∧
        bits (getReg u 0x00040018) 15 0 = min 65535 (p / (2 * watt)) ∧
        u = { s with pwr := u.pwr, csr := u.csr, cnt := u.cnt, fresh := s.fresh + 1 }) ∧
    (∀ level, exec (.brdThrotEdge level) s = .next { s with throtN := level })

/-! ### Time, scrub, journal -/

/-- DELAY_RESP (R383, R384, R385, R390): the answer that completes an exchange makes a measurement θ of the PTP slave, which waits for the
end of its ns. In the ns of a step it is discarded, whichever of them came first. While local time is not set it is a step; beyond
TME_JUMP_LIMIT it is refused; else it is counted and, with an earlier measurement 0 < Δ < 2^31 ns before, sets SLEW for Δ ns, and RATE. A
response that answers another port's request changes nothing (R386). (Which θ PTP computes from the stamps is R390's formula; its rounding
to whole ns and the bytes of a port's identity are the model's choice, log 70, PRESUMED.) -/
def Obligations.MeasurementsSteerTheClock : Prop :=
  ∀ (s : State) (p : PortId) (m : PtpMsg) (before after : List Exchange) (e : Exchange) (t1 : Nat), s.keyed = true →
    takesAsSlave s p m = true → s.tme.exchanges = before ++ e :: after →
    e.port = p → e.reqId = m.seqId → e.t1 = some t1 → e.resp = none →
    (∀ x, x ∈ before ++ after → ¬ (x.port = p ∧ x.reqId = m.seqId) ∧ completeExchange x = false) →
    let rest := { s.tme with exchanges := before ++ after, measured := [] }
    let d := ptpTheta t1 e.cS e.t2 e.t3 m.stamp m.correction
    let t : Word := BitVec.ofInt 32 (e.t2.fdiv 10)
    let limit := (getReg s 0x0005001C).toNat
    let far := fun (u : State) => u.jrn = s.jrn ∧ u.sch = s.sch ∧ u.tiles = s.tiles ∧ u.mem = s.mem ∧ u.links = s.links
    let noted : State := { s with tme := { rest with measured := s.tme.measured ++
      [{ theta := d, t := t, full := some (t1 + e.cS + (localTime s - t).toNat) }] } }
    (m.requester ≠ ownIdentity s p → exec (.delayResp p m) s = .next s) ∧
    (m.requester = ownIdentity s p → exec (.delayResp p m) s = .next noted) ∧ (s.porstN = true → idle noted = idle (settleMeasures noted)) ∧
    (s.tme.measured = [] → s.tme.stepped ≠ none → settleMeasures noted = { s with tme := rest }) ∧
    (s.tme.measured = [] → s.tme.stepped = none →
      (s.tme.isSet = false →
        ∃ u, settleMeasures noted = u ∧ u.tme.isSet = true ∧ u.tme.prev = none ∧ u.tme.exchanges = rest.exchanges ∧
          localTime u = localTime s + BitVec.ofInt 32 d ∧ u.tme.rate = s.tme.rate ∧ u.tme.slew = s.tme.slew ∧
          u.tme.stepped = some d ∧ far u) ∧
      (s.tme.isSet = true → limit < d.natAbs →
        ∃ u, settleMeasures noted = u ∧ u.tme = { rest with locked := false } ∧
          bit (getReg u 0x00050004) 29 = true ∧ getCnt u 0x00050108 = (getCnt s 0x00050108).add 1 ∧
          u.ports.reportSeq = s.ports.reportSeq + 1 ∧ far u) ∧
      (s.tme.isSet = true → d.natAbs ≤ limit →
        ∃ u, settleMeasures noted = u ∧ getReg u 0x00050024 = BitVec.ofInt 32 d ∧
          getCnt u 0x00050100 = (getCnt s 0x00050100).add 1 ∧ u.tme.prev = some t ∧ u.tme.exchanges = rest.exchanges ∧
          localTime u = localTime s ∧ u.tme.locked = decide (d.natAbs ≤ 50) ∧
          (∀ q, s.tme.prev = some q → 0 < (t - q).toNat → (t - q).toNat < 2 ^ 31 →
            let gap := ((t - q).toNat : Int)
            u.tme.slew.toInt = max (-(2 ^ 26)) (min (2 ^ 26) ((d * 2 ^ 32).tdiv gap)) ∧ u.tme.slewLeft = (t - q).toNat ∧
            u.tme.rate.toInt = max (-(2 ^ 20)) (min (2 ^ 20)
              (s.tme.rate.toInt + (d * 2 ^ 32).tdiv (gap * 2 ^ bits (getReg s 0x00050020) 18 16)))) ∧
          ((∀ q, s.tme.prev = some q → (t - q).toNat = 0 ∨ 2 ^ 31 ≤ (t - q).toNat) →
            u.tme.slew = s.tme.slew ∧ u.tme.rate = s.tme.rate) ∧ u.out = s.out ∧ far u))

/-- PTP_SYNC, FOLLOW_UP, DELAY_REQ and PTP_SYNC_INTERVAL (R386, R388, R389, R390): what a slave keeps of a Sync and sends for it; what a
master answers and sends, each message in the configured domain and transport, with its own number, in a frame whose checksums are computed
over what leaves. (The messages, their types and fields and the bytes of their frames are taken from IEEE 1588-2019, which the spec names:
log 70, PRESUMED. An Announce with each Sync is the model's choice, log 119.) -/
def Obligations.PtpMessagesAreAnswered : Prop :=
  ∀ (s : State) (p : PortId) (m : PtpMsg),
    let origin := ptpStamp s (txCorrection s p)
    let sent := if runsTwoStep s p then 0 else origin
    let msg := fun (type : Byte) (seq : BitVec 16) (stamp : Nat) => ({
      type := type, transport := BitVec.ofNat 2 (bits (ptpCfg s) 17 16), domain := BitVec.ofNat 8 (bits (ptpCfg s) 31 24),
      seqId := seq, stamp := stamp } : PtpOut)
    let sends := fun (x : PtpOut) => Out.ptp p x (ptpFrame s p x)
    (takesAsSlave s p m = true →
      (let n := s.tme.seqId + 1
       ∃ u, exec (.ptpSync p m) s = .next u ∧ u.out = s.out ++ [sends (msg 1 n sent)] ∧ u.tme.seqId = n ∧
        u.tme.exchanges = s.tme.exchanges.filter (fun e => decide (e.reqId ≠ n)) ++ [{
          port := p, syncId := m.seqId, t1 := if m.twoStep then none else some m.stamp, t2 := stamp10 s (rxCorrection s p),
          cS := m.correction, reqId := n, t3 := stamp10 s (txCorrection s p), resp := none }] ∧
        localTime u = localTime s ∧ u = { s with tme := u.tme, out := u.out }) ∧
      (∀ before after e, s.tme.exchanges = before ++ e :: after → e.port = p → e.syncId = m.seqId → e.t1 = none → e.resp = none →
        (∀ x, x ∈ before ++ after → ¬ (x.port = p ∧ x.syncId = m.seqId) ∧ completeExchange x = false) →
        exec (.followUp p m) s = .next { s with tme := { s.tme with
          exchanges := before ++ { e with t1 := some m.stamp, cS := e.cS + m.correction } :: after } })) ∧
    (isMaster s p = true →
      (m.domain.toNat = bits (ptpCfg s) 31 24 →
        exec (.delayReq p m) s = .next { s with
          out := s.out ++ [sends { msg 9 m.seqId (ptpStamp s (rxCorrection s p)) with requester := some m.source }] }) ∧
      (let n := s.tme.syncId + 1
       let a := s.tme.announceId + 1
       let t := { s.tme with syncId := n, announceId := a }
       let hello := { msg 0xB a 0 with quality := some (248, 128, 128) }
       (runsTwoStep s p = false →
         exec (.ptpSyncInterval p) s = .next { s with tme := t, out := s.out ++ [sends hello, sends (msg 0 n origin)] }) ∧
       (runsTwoStep s p = true →
         exec (.ptpSyncInterval p) s = .next { s with
           tme := t, out := s.out ++ [sends hello, sends { msg 0 n 0 with twoStep := true }, sends (msg 8 n origin)] })))

/-- TIME_WRAP, SLEW_END, TME_OUT_PULSE and TME_IN_CAPTURE (R378, R383, R385, R387, R393, R394): the ns in which local time passes from
0xFFFF_FFFF to 0 by counting raises W, and with the last of its Δ ns SLEW is 0; in any other ns neither event is there (the model's
choice, log 45, DEDUCED). An armed output whose NEXT is reached drives its pulse, and NEXT advances or EN clears; where the NEXT it advances
to is reached already, that pulse is driven at once, and is late; an armed input takes local time, as it was before a step in the
same ns, less 20 ns, once. -/
def Obligations.TimeEventsComplete : Prop :=
  (∀ s : State, s.porstN = true →
    let v := settleMeasures s
    (wrapsNext s = true →
      ∃ u, exec .timeWrap s = .next u ∧ u = idle s ∧ u.tme.wraps = v.tme.wraps + 1 ∧
        u.tme.c = s.tme.c + 1 ∧ (localTime u).toNat < (localTime v).toNat) ∧
    (wrapsNext s = false → exec .timeWrap s = .next s) ∧
    (v.tme.slewLeft = 1 →
      ∃ u, exec .slewEnd s = .next u ∧ u = idle s ∧ u.tme.slew = 0 ∧ u.tme.slewLeft = 0 ∧
        u.tme.o = v.tme.o + v.tme.rate.signExtend 64 + v.tme.slew.signExtend 64) ∧
    (v.tme.slewLeft ≠ 1 → exec .slewEnd s = .next s)) ∧
  (∀ s : State, s.keyed = true → s.porstN = true → s.wrstN = true →
    (∀ k : Fin 4,
      let b := outBase k.val
      let c := getReg s b
      let period := getReg s (b + 8)
      let next := getReg s (b + 12) + period
      let pulse := Out.pulse k (!bit c 30) (bits c 15 0)
      bit c 31 = true → reached s (getReg s (b + 12)) = true →
      ∃ u, exec (.tmeOutPulse k) s = .next u ∧
        (period = 0 → u.out = s.out ++ [pulse] ∧ getReg u b = c &&& 0x7FFFFFFF ∧ (∀ a, a ≠ b → getReg u a = getReg s a)) ∧
        (period ≠ 0 → reached s next = false → u.out = s.out ++ [pulse] ∧ getReg u (b + 12) = next ∧
          (∀ a, a ≠ b + 12 → getReg u a = getReg s a)) ∧
        (period ≠ 0 → reached s next = true → (∃ l, u.out = s.out ++ pulse :: pulse :: l) ∧
          bit (getReg u 0x00050004) (24 + k.val) = true ∧ getReg u b = c ∧
          (∀ a, a ≠ b + 12 → a ≠ 0x00050004 → getReg u a = getReg s a)) ∧
        u = { s with csr := u.csr, out := u.out }) ∧
    (∀ (j : Fin 2) (rising : Bool),
      let b := 0x00050080 + 0x10 * j.val
      let c := getReg s b
      bit c 31 = true → bit c (if rising then 0 else 1) = true →
      (bit c 30 = false →
        ∃ u, exec (.tmeInCapture j rising) s = .next u ∧ getReg u b = c ||| 0x40000000 ∧
          getReg u (b + 4) = localTime s - BitVec.ofInt 32 (s.tme.stepped.getD 0) - 20 ∧
          (∀ a, a ≠ b → a ≠ b + 4 → getReg u a = getReg s a) ∧ u = { s with csr := u.csr }) ∧
      (bit c 30 = true →
        ∃ u, exec (.tmeInCapture j rising) s = .next u ∧
          getCnt u (0x00050110 + 8 * j.val) = (getCnt s (0x00050110 + 8 * j.val)).add 1 ∧ u = { s with cnt := u.cnt })))

/-- SCRUB (R299 to R302): it always answers a next state; while HOURS is not 0 it reads the next line of each tier that is in service, an
HBM3E stack or the trained LPDDR5X, and goes round; a corrected line is counted; a block that it has read to its last line holds a check
value; one that fails is a path failure; an uncorrectable line is logged with source 4 and begins a partition reset, or is a FAULT in
LPDDR5X. A line of a spill pool goes by the address of the page that lies there (R295; that pages lie in a pool in the order of their
placement is the model's choice, log 13, DESIGN CHOICE). -/
def Obligations.ScrubVisitsEveryLine : Prop :=
  ∀ (s : State) (hbm t2 : MemOutcome), s.keyed = true →
    let a := s.mem.scrubHbm
    let la := knownAs s a
    let lb := knownAs s (0x10000000000 + s.mem.scrubT2)
    let size := usableT2 s
    let visits := fun (x : Nat) => 4096 * x + 4032 = la ∨ (4096 * x + 4032 = lb ∧ size ≠ 0 ∧ s.mem.trained = 1)
    let moved := fun (u : State) => { s.mem with scrubHbm := (a + 64) % 0x9000000000, scrubT2 := u.mem.scrubT2, tags := u.mem.tags }
    let tagged := fun (u : State) => (la % 4096 = 4032 → (getTag u (la / 4096)).check ≠ none) ∧
      (∀ x, getTag u x = { getTag s x with check := (getTag u x).check }) ∧ (∀ x, ¬ visits x → getTag u x = getTag s x) ∧
      (∀ x, (getTag s x).check ≠ none → getTag u x = getTag s x)
    (∃ u, exec (.scrub hbm t2) s = .next u ∧ (∀ x, memByte u x = memByte s x) ∧ u.mem.mirror = s.mem.mirror ∧
      ((∀ h, h ∈ s.holding → h.owed = none) → u.jrn = s.jrn)) ∧
    (bits (getReg s 0x00070014) 15 0 = 0 → exec (.scrub hbm t2) s = .next s) ∧
    (s.porstN = true → s.wrstN = true → bits (getReg s 0x00070014) 15 0 ≠ 0 →
      (∃ u, exec (.scrub hbm t2) s = .next u ∧ u.mem.scrubHbm = (a + 64) % 0x9000000000 ∧
        (size ≠ 0 → s.mem.trained = 1 → u.mem.scrubT2 = (s.mem.scrubT2 + 64) % size)) ∧
      (s.mem.stacksOk.getLsbD (stackOf a) = true → a < 0x9000000000 → t2 = .ok →
        (hbm = .ok → ∃ u, exec (.scrub hbm t2) s = .next u ∧ tagged u ∧ u = { s with mem := moved u, pwr := u.pwr }) ∧
        (hbm = .corrected →
          ∃ u, exec (.scrub hbm t2) s = .next u ∧ tagged u ∧
            getCnt u (0x00070100 + 8 * stackOf a) = (getCnt s (0x00070100 + 8 * stackOf a)).add 1 ∧
            u = { s with cnt := u.cnt, mem := moved u, pwr := u.pwr }) ∧
        (hbm = .checkFail → (getTag s (la / 4096)).check ≠ none →
          ∃ u, exec (.scrub hbm t2) s = .next u ∧ tagged u ∧ getCnt u 0x00070188 = (getCnt s 0x00070188).add 1 ∧
            u.ports.reportSeq = s.ports.reportSeq + 1 ∧ u.mem = moved u ∧ u.csr = s.csr ∧ u.tiles = s.tiles) ∧
        (hbm = .uncorrectable →
          ∃ u, exec (.scrub hbm t2) s = .next u ∧ getReg u 0x00070018 = BitVec.ofNat 32 la ∧
            getReg u 0x0007001C = BitVec.ofNat 32 (la / 2 ^ 32) ∧
            bits (getReg u 0x00070020) 30 28 = 4 ∧ bits (getReg u 0x00070020) 27 24 = stackOf a ∧
            u.mem.preset.getLsbD (a / 0x2400000000) = true ∧
            (s.mem.preset.getLsbD (a / 0x2400000000) = false → u.sch.holds.getLsbD 4 = true))) ∧
      (s.mem.trained = 1 → size ≠ 0 → hbm = .ok → s.mem.scrubT2 < 2 ^ 40 →
        (t2 = .corrected →
          ∃ u, exec (.scrub hbm t2) s = .next u ∧ getCnt u 0x00070160 = (getCnt s 0x00070160).add 1 ∧
            u = { s with cnt := u.cnt, mem := moved u, pwr := u.pwr }) ∧
        (t2 = .checkFail → (getTag s (lb / 4096)).check ≠ none →
          ∃ u, exec (.scrub hbm t2) s = .next u ∧ getCnt u 0x00070188 = (getCnt s 0x00070188).add 1 ∧
            u.ports.reportSeq = s.ports.reportSeq + 1 ∧ u.mem = moved u ∧ u.csr = s.csr ∧ u.tiles = s.tiles) ∧
        (t2 = .uncorrectable → s.dev ≠ .fault →
          ∃ u, exec (.scrub hbm t2) s = .next u ∧ u.dev = .fault ∧ u.faultCause = 3 ∧
            bits (getReg u 0x00070020) 27 24 = 0xF)))

/-- TICK, SEAL_COMPLETE and SEAL_FLASH_STORE_DONE (R57, R61, R62, R66): a TICK falls due 2^31 ns after the last record; a seal that
completes is kept and followed by its SEAL record; its store ends FLASH_BUSY, or sets FLASH_ERR. (That every seal is kept, with no bound of
512 slots, is the model's choice, log 114, DESIGN CHOICE.) -/
def Obligations.JournalEngineCommandsComplete : Prop :=
  ∀ s : State, s.jrn.kept = true →
    (tickDue s = false → exec .tick s = .next s) ∧
    (tickDue s = true → roomNow s = true →
      ∃ u r, exec .tick s = .next u ∧ u.jrn.records = s.jrn.records ++ [r] ∧ r.type = 0x40 ∧ r.recno = s.jrn.next ∧
        r.a0 = 1 ∧ r.a1 = 0 ∧ r.a2 = 0 ∧ r.time = localTime s ∧ r.srcFlags = 0 ∧ u.sinceRecord = 0 ∧
        u.csr = s.csr ∧ u.tiles = s.tiles ∧ u.mem = s.mem) ∧
    (tickDue s = true → ∀ l e, s.jrn.held = l ++ [e] → e.type = 0x40 →
      ∃ u e', exec .tick s = .next u ∧ u.jrn.held = l ++ [e'] ∧ e'.type = 0x40 ∧ e'.a0 = e.a0 + 1 ∧ e'.time = localTime s ∧
        u.jrn.records = s.jrn.records ∧ u = { s with jrn := u.jrn, sinceRecord := 0 }) ∧
    (∀ j, s.jrn.running = some j → roomNow s = true →
      ∃ u r x, exec .sealComplete s = .next u ∧ u.jrn.records = s.jrn.records ++ [r] ∧ r.type = 0x41 ∧
        r.a0 = BitVec.ofNat 32 (num j.header 8 8) ∧ r.a1 = BitVec.ofNat 32 j.covered ∧ r.recno = s.jrn.next ∧
        u.jrn.seals = s.jrn.seals ++ [x] ∧ x.number = num j.header 8 8 ∧ x.covered = j.covered ∧ x.header = j.header ∧
        u.jrn.sealed = some j.covered ∧ u.csr = s.csr ∧ u.tiles = s.tiles ∧ u.mem = s.mem) ∧
    (∀ x r ok, s.jrn.flashWait = x :: r → s.boot.storeBusy = false →
      ∃ u, exec (.sealFlashStoreDone ok) s = .next u ∧ u.jrn.flashWait = r ∧ u.jrn.records = s.jrn.records ∧
        (r = [] → storeAhead s = false → u.jrn.flashBusy = false) ∧
        (ok = true → flashUsable s = true → u.jrn.flashErr = s.jrn.flashErr ∧
          u.boot = flashPut s.boot (sealBase s) 65536 (x.header ++ signatureOf s x.signature x.header)) ∧
        (ok = false → u.jrn.flashErr = true) ∧ u = { s with jrn := u.jrn, boot := u.boot, fresh := u.fresh })

/-! ### Register writes -/

/-- REGISTER_WRITE and GEN_SCRATCH (R3, R7 to R9, R33, R43, R46, R53, R58, R59): a write that is refused changes nothing; one that waits
for a boundary is staged, its W1C part apart; any other stores its RW and W1C fields, leaves every other register, and is recorded; the
two words of a pair commit together, from the holding of their source; a low word of a pair that waits for its boundary and is replaced
before the high word comes, or dropped with its station as a 65th needs room (R417), is recorded then, with the time and the old value of
its own write. (The model's choices: how a pair counts among the 4,096 staged writes, log 87, DESIGN CHOICE; when such a low word is
recorded, log 121, DEDUCED.) -/
def Obligations.RegisterWritesAreRefusedStagedOrDone : Prop :=
  ∀ (s : State) (src : Source) (w d : Word),
    let a := w.toNat
    let h := getHolding s src
    let others := fun (u : State) => ∀ e, accessSource e ≠ accessSource src → isStation { src := accessSource e } = false →
      getHolding u e = getHolding s e
    let plainly := fun (c : Instr) (b : Nat) => ∃ u, exec c s = .next u ∧ getReg u b = writtenReg s b d ∧
      (∀ e, e ≠ b → getReg u e = getReg s e) ∧ RecordsWrite s u s.jrn.records src b d ∧ WriteFar s u ∧
      u.hops = s.hops ∧ u.tme = s.tme ∧ u.dists = s.dists ∧ u.clk = s.clk ∧ u.pwr = s.pwr
    let staged := fun (l : List StagedWrite) => { s with sch := { s.sch with staged := s.sch.staged ++ l } }
    (a % 4 ≠ 0 ∨ regInfo a = none ∨ writeRefusal s a ≠ none →
      exec (.registerWrite src w d) s = .next s ∧ (writeAccess s src w d).2 ≠ stOk) ∧
    (∀ i, regInfo a = some i → pairHalf a = none → writeRefusal s a = none → isStaged s a = true →
      (i.w1c = 0 → s.sch.staged.length < 4096 →
        exec (.registerWrite src w d) s = .next (staged [{ addr := a, data := d, src := src, time := localTime s }])) ∧
      (i.w1c ≠ 0 → s.sch.staged.length < 4096 → plainReg a = true → s.keyed = true →
        ∃ u, exec (.registerWrite src w d) s = .next u ∧
          u.sch.staged = s.sch.staged ++ [{ addr := a, data := d &&& ~~~ i.w1c, src := src, time := localTime s }] ∧
          getReg u a = getReg s a &&& ~~~ (d &&& i.w1c) ∧ (∀ e, e ≠ a → getReg u e = getReg s e)) ∧
      (4096 ≤ s.sch.staged.length → exec (.registerWrite src w d) s = .next s)) ∧
    (∀ i, regInfo a = some i → pairHalf a = none → WritesNow s a → plainReg a = true → plainly (.registerWrite src w d) a) ∧
    (WritesNow s 0x24 → plainly (.genScratch src d) 0x24) ∧
    (∀ i, regInfo a = some i → pairHalf a = some false → h.owed = none → KeepsStations s src →
      (WritesNow s a →
        ∃ u r, exec (.registerWrite src w d) s = .next u ∧ (getHolding u src).low = some d ∧ (getHolding u src).owed = none ∧
          (getHolding u src).high = h.high ∧ others u ∧ u.csr = s.csr ∧ u.jrn.records = s.jrn.records ++ [r] ∧ r.type = 1 ∧
          r.recno = s.jrn.next ∧ r.a0 = w ∧ r.a1 = readReg s a ∧ (i.rw ≠ 0 → r.a2 = d) ∧ r.time = localTime s ∧ WriteFar s u) ∧
      (writeRefusal s a = none → isStaged s a = true →
        ∃ u, exec (.registerWrite src w d) s = .next u ∧
          getHolding u src = { h with low := some d, lowAt := localTime s, lowWas := readReg s a, owed := some a } ∧ others u ∧
          u = { s with holding := u.holding })) ∧
    (∀ i j old b v, regInfo a = some i → pairHalf a = some false → writeRefusal s a = none → isStaged s a = true → roomNow s = true →
      (old = h ∧ KeepsStations s src ∨
        ¬ KeepsStations s src ∧ h.owed = none ∧ s.holding.find? (fun x => x.src != accessSource src && isStation x) = some old) →
      old.owed = some b → old.low = some v → regInfo b = some j → j.rw ≠ 0 →
      ∃ u r, exec (.registerWrite src w d) s = .next u ∧ (getHolding u src).low = some d ∧ (getHolding u src).owed = some a ∧
        u.jrn.records = s.jrn.records ++ [r] ∧ r.type = 1 ∧ r.recno = s.jrn.next ∧ r.a0 = BitVec.ofNat 32 b ∧ r.a1 = old.lowWas ∧
        r.a2 = v ∧ r.time = old.lowAt ∧ u.csr = s.csr ∧ WriteFar s u) ∧
    (∀ i l, regInfo a = some i → pairHalf a = some true → h.low = some l → KeepsStations s src →
      (WritesNow s a → plainReg a = true → h.owed = none →
        ∃ u, exec (.registerWrite src w d) s = .next u ∧ getReg u (a - 4) = writtenReg s (a - 4) l ∧
          getReg u a = writtenReg s a d ∧ (∀ e, e ≠ a → e ≠ a - 4 → getReg u e = getReg s e) ∧
          u.jrn.next = s.jrn.next + 1 ∧ (∀ e, getHolding u e = getHolding s e) ∧ WriteFar s u) ∧
      (writeRefusal s a = none → isStaged s a = true → (h.owed = none ∨ h.owed = some (a - 4)) →
        (s.sch.staged.length + 2 ≤ 4096 →
          ∃ u, exec (.registerWrite src w d) s = .next u ∧ (getHolding u src).owed = none ∧
            u = { staged [
                { addr := a - 4, data := l, src := src, time := if h.owed = none then localTime s else h.lowAt,
                  recorded := decide (h.owed = some (a - 4)) },
                { addr := a, data := d, src := src, time := localTime s }] with holding := u.holding }) ∧
        (4096 < s.sch.staged.length + 2 → exec (.registerWrite src w d) s = .next s)))

/-- JRN_CTRL.SEAL, JRN_CTRL.SEAL_FLASH and JRN_RETAIN_HI (R61, R62, R64, R448): a seal starts over the write's own record, or waits, and at
most one waits; a release removes the records below V, or is refused with RELEASE_ERR. (The model's choices: one write of both bits asks for
one seal, stored in flash, log 86, DEDUCED; a waiting seal takes its place behind the requests that came before it, in R448's order of
arrival, and a later request merges with it, its wish for flash too, log 47, DEDUCED.) -/
def Obligations.SealsAndReleases : Prop :=
  ∀ (s : State) (src : Source) (d : Word), WritesNow s 0x20000 → s.jrn.next % 4096 ≠ 4095 →
    let seals := fun (c : Instr) (flash : Bool) => ∃ u, exec c s = .next u ∧
      RecordsWrite s u s.jrn.records src 0x20000 d ∧ WriteFar s u ∧
      (flash = true → u.jrn.flashBusy = true) ∧ u.jrn.seals = s.jrn.seals ∧
      (s.jrn.waits = none → s.boot.signQ = [] →
        ∃ j, u.jrn.running = some j ∧ j.covered = s.jrn.next ∧ j.flash = flash ∧ num j.header 8 8 = s.jrn.sealNumber % 2 ^ 64 ∧
          u.jrn.sealNumber = s.jrn.sealNumber + 1 ∧ u.boot.signQ = [.journalSeal]) ∧
      (s.jrn.waits = none → s.boot.signQ ≠ [] →
        u.jrn.waits = some flash ∧ u.jrn.running = s.jrn.running ∧ u.boot.signQ = s.boot.signQ ++ [.journalSeal]) ∧
      (∀ f, s.jrn.waits = some f → u.jrn.waits = some (f || flash) ∧ u.jrn.running = s.jrn.running ∧ u.boot.signQ = s.boot.signQ)
    (bit d 1 = true → bit d 2 = false → seals (.jrnCtrlSeal src d) false) ∧
    (bit d 2 = true → seals (.jrnCtrlSealFlash src d) true) ∧
    (∀ l, (getHolding s src).low = some l → (getHolding s src).owed = none → s.sch.leftover = [] → KeepsStations s src →
      (runOrHold s = true ∨ ∀ x, x ∈ s.holding → x.owed = none) →
      let v := d.toNat * 2 ^ 32 + l.toNat
      (releaseOk s v = true →
        ∃ u, exec (.jrnRetainHi src d) s = .next u ∧ u.jrn.retain = v ∧ u.jrn.releaseErr = s.jrn.releaseErr ∧
          (∃ r, u.jrn.records = s.jrn.records.filter (fun r => decide (v ≤ r.recno)) ++ [r] ∧ r.recno = s.jrn.next ∧
            r.type = 1 ∧ r.a0 = 0x2001C ∧ r.a2 = d) ∧
          u.jrn.seals = s.jrn.seals.filter (fun x => decide (v ≤ x.covered)) ∧ u.csr = s.csr ∧ WriteFar s u) ∧
      (releaseOk s v = false →
        ∃ u, exec (.jrnRetainHi src d) s = .next u ∧ u.jrn.retain = s.jrn.retain ∧ u.jrn.releaseErr = true ∧
          u.jrn.seals = s.jrn.seals ∧ (∃ r, u.jrn.records = s.jrn.records ++ [r] ∧ r.recno = s.jrn.next ∧ r.type = 1 ∧
            r.srcFlags = BitVec.ofNat 8 (srcCode src + 64)) ∧ u.csr = s.csr ∧ WriteFar s u))

/-- TOP_COORD, TOP_SHAPE, LNKnn_CTRL.RETRAIN, .TEST, .ENABLE and .DISCARD (R251, R257, R258, R260, R262, R268, R269): the registers
written, the state that each write puts its link, or every link that is not DOWN, into, and the blocks that a link in TEST sends. (That a
link in DOWN is no longer down once ENABLE is written 0 is the model's choice, log 125, DEDUCED.) -/
def Obligations.TopologyAndLinkWritesComplete : Prop :=
  ∀ (s : State) (src : Source) (d : Word), linksLive s = true →
    let places := fun (c : Instr) (a : Nat) => ∃ u, exec c s = .next u ∧ getReg u a = writtenReg s a d ∧
      (∀ e, e ≠ a → getReg u e = getReg s e) ∧ RecordsWrite s u s.jrn.records src a d ∧ WriteFar s u ∧
      (ownValid s = true → ownValid u = false →
        ∀ n, n < 24 → (getLink s n).state ≠ .down → (getLink u n).state = .disabled) ∧
      (ownValid u = true → (ownValid s = false ∨ coord u ≠ coord s) → ∀ n, n < 24 → (getLink s n).state ≠ .down →
        ((getLink s n).state ≠ .disabled ∨ lnkEnabled s n = true) →
        (getLink u n).state = .detect ∧ (getLink u n).full = true ∧ (getLink u n).unacked = []) ∧
      ((ownValid s = false → ownValid u = false) → coord u = coord s → (ownValid s = true → ownValid u = true) →
        ∀ n, (getLink u n).state = (getLink s n).state)
    let writes := fun (c : Instr) (n : LinkId) (q : State → Prop) => ∃ u, exec c s = .next u ∧
      getReg u (lnkBase n.val) = writtenReg s (lnkBase n.val) d ∧ (∀ e, e ≠ lnkBase n.val → getReg u e = getReg s e) ∧
      RecordsWrite s u s.jrn.records src (lnkBase n.val) d ∧ WriteFar s u ∧
      (∀ m, m ≠ n.val → (getLink u m).state = (getLink s m).state) ∧
      (∀ h, h ≠ .linkTx n → h ≠ .linkIn n → getHop u h = getHop s h) ∧ q u
    (WritesNow s 0xB0000 → isCommitted s = false → s.sch.draining = false → places (.topCoord src d) 0xB0000) ∧
    (WritesNow s 0xB0004 → isCommitted s = false → s.sch.draining = false → places (.topShape src d) 0xB0004) ∧
    (∀ n : LinkId, WritesNow s (lnkBase n.val) →
      let c := lnkCtrl s n.val
      let l := getLink s n.val
      (bit d 16 = true → bit c 31 = bit d 31 → bit c 29 = false → bit d 29 = false → l.state = .active →
        writes (.lnkCtrlRetrain src n d) n (fun u => (getLink u n.val).state = .pause ∧ (getLink u n.val).full = false ∧
          (getLink u n.val).unacked = l.unacked ∧ (getLink u n.val).txNext = l.txNext ∧ u.sch.holds.getLsbD 1 = true ∧
          getCnt u (lnkBase n.val + 0x70) = (getCnt s (lnkBase n.val + 0x70)).add 1)) ∧
      (bit d 16 = false → bit c 31 = bit d 31 → bit d 29 = true → l.state ≠ .down →
        (l.state ≠ .disabled ∨ ownValid s = true) →
        writes (.lnkCtrlTest src n d) n (fun u => (getLink u n.val).state = .test ∧
          (l.state ≠ .test → ∃ bs, Out.training n (BitVec.ofNat 2 (bits (lnkCtrl u n.val) 25 24)) bs ∈ u.out ∧
            bs.length = 4 / 2 ^ bits (lnkCtrl u n.val) 27 26 ∧ (∀ b, b ∈ bs → tsType b = 5 ∧ (List.range 8).all (parityOk b) = true)))) ∧
      (bit d 16 = false → bit c 31 = bit d 31 → bit c 29 = true → bit d 29 = false → l.state = .test →
        writes (.lnkCtrlTest src n d) n (fun u => (getLink u n.val).state = .pause ∧
          getCnt u (lnkBase n.val + 0x70) = (getCnt s (lnkBase n.val + 0x70)).add 1)) ∧
      (bit d 16 = false → bit c 29 = false → bit d 29 = false → bit c 31 = true → bit d 31 = false →
        writes (.lnkCtrlEnable src n d) n (fun u => (getLink u n.val).state = .disabled ∧ (getLink u n.val).down = false ∧
          (getLink u n.val).unacked = [])) ∧
      (bit d 16 = false → bit c 29 = false → bit d 29 = false → bit c 31 = false → bit d 31 = true → l.state = .disabled → ownValid s = true →
        writes (.lnkCtrlEnable src n d) n (fun u => (getLink u n.val).state = .detect ∧ (getLink u n.val).full = true ∧
          (getLink u n.val).txNext = 0 ∧ (getLink u n.val).rxExpect = 0)) ∧
      (bit d 16 = false → bit c 29 = bit d 29 → (bit d 29 = true → l.state = .test ∨ l.state = .down) → bit c 31 = bit d 31 →
        writes (.lnkCtrlDiscard src n d) n (fun u => lnkDiscard u n.val = bit d 28 ∧ (getLink u n.val).state = l.state ∧
          (getLink u n.val).unacked = l.unacked)))

/-- TME_ADJ, TME_CTRL.UNSET and TME_OUTk_CFG.EN (R57, R384, R385, R393): a step, its refusal beyond TME_JUMP_LIMIT, the next measurement
made a step, and an output that is armed at START. CLK_QDq_FREQ.DIV, CLK_SSC.EN, HOST_CTRL.UNBIND, MGT_CTRL.FEC and BOOT_CTRL.REBOOT (R350, R352, R396, R403, R431, R443, R448, R461): the
divider in use follows at once where no itinerary is committed, the clock stopping for at most 2 µs and starting with a whole period; the
binding ends; the management port drops its link, but not while it runs under its recovery settings; a reboot is a pulse of WRST_N, after
which the boot ROM has taken the flash that the last release found (the model's choice, log 41), and has no effect while a flash store
runs. -/
def Obligations.TimeAndOtherWritesComplete : Prop :=
  ∀ (s : State) (src : Source) (d : Word),
    (WritesNow s 0x50018 → (s.tme.isSet = false ∨ d.toInt.natAbs ≤ (getReg s 0x5001C).toNat) →
      ∃ u, exec (.tmeAdj src d) s = .next u ∧ localTime u = localTime s + d ∧ u.tme.isSet = true ∧ u.tme.slew = 0 ∧
        u.tme.slewLeft = 0 ∧ u.tme.stepped = some (s.tme.stepped.getD 0 + d.toInt) ∧ u.tme.prev = none ∧
        u.tme.rate = s.tme.rate ∧ u.sinceRecord = d.toInt ∧ RecordsWrite s u s.jrn.records src 0x50018 d ∧ WriteFar s u) ∧
    (WritesNow s 0x50018 → s.tme.isSet = true → (getReg s 0x5001C).toNat < d.toInt.natAbs →
      ∃ u, exec (.tmeAdj src d) s = .next u ∧ u.tme = { s.tme with locked := false } ∧ bit (getReg u 0x50004) 29 = true ∧
        getCnt u 0x50108 = (getCnt s 0x50108).add 1 ∧ RecordsWrite s u s.jrn.records src 0x50018 d ∧
        noEffect s 0x50018 d = true ∧ WriteFar s u) ∧
    (WritesNow s 0x50000 → isCommitted s = false → s.sch.draining = false → bit d 0 = true →
      ∃ u, exec (.tmeCtrlUnset src d) s = .next u ∧ u.tme = { s.tme with isSet := false } ∧
        RecordsWrite s u s.jrn.records src 0x50000 d ∧ (∀ a, getReg u a = getReg s a) ∧ u.hops = s.hops ∧ WriteFar s u) ∧
    (∀ k : Fin 4, let b := outBase k.val
      WritesNow s b → bit (getReg s b) 31 = false → bit d 31 = true → reached s (getReg s (b + 4)) = false →
      ∃ u, exec (.tmeOutEn src k d) s = .next u ∧ getReg u b = writtenReg s b d ∧ bit (getReg u b) 31 = true ∧
        getReg u (b + 12) = getReg s (b + 4) ∧ (∀ a, a ≠ b → a ≠ b + 12 → getReg u a = getReg s a) ∧
        u.tme = s.tme ∧ u.hops = s.hops ∧ RecordsWrite s u s.jrn.records src b d ∧ WriteFar s u) ∧
    (∀ q : Fin 4, let b := clkBase q.val
      WritesNow s b → isCommitted s = false → 8 ≤ bits d 4 0 → bits d 4 0 ≤ 16 →
      ∃ u, exec (.clkQdFreqDiv src q d) s = .next u ∧ bits (getReg u b) 4 0 = bits d 4 0 ∧
        curDiv u q.val = max (bits d 4 0) (bits (getReg s b) 20 16) ∧ (∀ a, a ≠ b → getReg u a = getReg s a) ∧
        (curDiv u q.val ≠ curDiv s q.val →
          getCnt u (0x30100 + 0x10 * q.val) = (getCnt s (0x30100 + 0x10 * q.val)).add 1 ∧
          getCnt u (0x30108 + 0x10 * q.val) = (getCnt s (0x30108 + 0x10 * q.val)).add 1 ∧
          (SMap.rising s.clk.phase = true → SMap.get 0 u.clk.phase q.val = 0) ∧
          (SMap.rising s.clk.stop = true → SMap.get 0 u.clk.stop q.val ≤ 2000)) ∧
        (curDiv u q.val = curDiv s q.val → u.clk = s.clk) ∧
        RecordsWrite s u s.jrn.records src b d ∧ u.hops = s.hops ∧ WriteFar s u) ∧
    (WritesNow s 0x30004 →
      ∃ u, exec (.clkSscEn src d) s = .next u ∧ getReg u 0x30004 = putMask (getReg s 0x30004) d 1 ∧
        (∀ a, a ≠ 0x30004 → getReg u a = getReg s a) ∧ RecordsWrite s u s.jrn.records src 0x30004 d ∧ u.hops = s.hops ∧
        WriteFar s u) ∧
    (WritesNow s 0x80004 → bit d 31 = true →
      ∃ u, exec (.hostCtrlUnbind src d) s = .next u ∧ u.ports.bound = none ∧ u.ports.session = 0 ∧ u.ports.qps = [] ∧
        u.holding = s.holding ∧ (∀ a, a ≠ 0x80004 → getReg u a = getReg s a) ∧
        RecordsWrite s u s.jrn.records src 0x80004 d ∧ u.hops = s.hops ∧ WriteFar s u) ∧
    (WritesNow s 0x90004 →
      ∃ u, exec (.mgtCtrlFec src d) s = .next u ∧ getReg u 0x90004 = writtenReg s 0x90004 d ∧
        (mgtRecovery s = false → bit (getReg s 0x90004) 31 ≠ bit d 31 → u.ports.mgtUp = false ∧ u.ports.fecOn = false) ∧
        (mgtRecovery s = true ∨ bit (getReg s 0x90004) 31 = bit d 31 →
          u.ports.mgtUp = s.ports.mgtUp ∧ u.ports.fecOn = s.ports.fecOn) ∧
        (∀ a, a ≠ 0x90004 → getReg u a = getReg s a) ∧ RecordsWrite s u s.jrn.records src 0x90004 d ∧ u.hops = s.hops ∧
        WriteFar s u) ∧
    (WritesNow s 0x10004 → bit d 0 = true →
      (s.boot.storeBusy = false → s.jrn.flashBusy = false →
        ∃ u, exec (.bootCtrlReboot src d) s = .next u ∧ u.wrstN = s.wrstN ∧ u.porstN = s.porstN ∧ u.dev = .boot ∧
          u.boot.step = 4 ∧ u.epoch = s.epoch + 1 ∧ u.csr = [] ∧ u.tiles = [] ∧ u.slots = [] ∧ u.hops = [] ∧ u.links = [] ∧
          u.jrn.kept = false ∧ u.jrn.records = [] ∧ u.mem.bytes = [] ∧ u.ports.bound = none ∧ localTime u = localTime s ∧
          u.mem.trained = s.mem.trained ∧ u.mem.installed = s.mem.installed ∧
          u.boot.flashMode = usableMode s.boot.sfdp ∧ u.boot.flashMiB = s.boot.sfdp.mib ∧
          (SMap.rising s.boot.flash = true → ∀ a, a < imageSlot u → flashByte u a = flashByte s a)) ∧
      (s.boot.storeBusy = true ∨ s.jrn.flashBusy = true →
        ∃ u, exec (.bootCtrlReboot src d) s = .next u ∧ u.wrstN = s.wrstN ∧ u.dev = s.dev ∧
          RecordsWrite s u s.jrn.records src 0x10004 d ∧ noEffect s 0x10004 d = true ∧ WriteFar s u))

/-! ### Host and management operations -/

/-- Every operation of R406, and BAD_FRAME (R397, R402 to R406, R442): a frame that is another row's, or for another chip, does nothing
here; one that the dispatch does not give to its engine is discarded and counted; a repeat is answered from what is kept, with the
REPEAT flag, and not executed; what refuses an operation before it is looked at is its completion's status, a body that breaks its layout
is BAD_FRAME, and nothing of either is carried out. HELLO (R403) binds the host port and starts a session with nothing of an earlier one;
another address is PEER_BOUND; ranges that share no version are BAD_VERSION; a management station is only answered. (The model's choices
here: HOST_DUP_CNT counts the repeats of both ports and a HELLO repeats a HELLO only, log 57; a repeat of an operation that is not answered
yet does nothing, log 58; every operation brings the bytes of its frame and is performed by the row that its OP names, log 59; which frames
are counted as accepted, log 100; PEER_BOUND comes before BAD_VERSION, and the order of the fields of HELLO's completion, log 73.) -/
def Obligations.OperationsAreAdmittedAndHelloBinds : Prop :=
  ∀ (s : State) (r : Req),
    let meets := fun (c : Instr) (op : Nat) (layout : Bool) =>
      (isFor s r op = false → exec c s = .next s) ∧
      (isFor s r op = true → dispatched s r = false → exec c s = .next (discardFrame (takeReq s r) (fromHost r.sender))) ∧
      (isFor s r op = true → dispatched s r = true →
        (∀ k, keptFor s r op = some k → exec c s = .next (answer (bump (takeReq s r) 0x80108 1) r k true)) ∧
        (keptFor s r op = none → awaitsTollgate s r = true → exec c s = .next (takeReq s r)) ∧
        (keptFor s r op = none → awaitsTollgate s r = false →
          (∀ e, refusal s r op = some e → exec c s = .next (complete (takeReq s r) r op e [])) ∧
          (refusal s r op = none → layout = false → exec c s = .next (complete (takeReq s r) r op stBadFrame []))))
    (∀ c op, operation c = some (r, op) → meets c op (bodyOk op (reqBody r))) ∧
    (∀ (dm : Damage) (join : Bool), let c : Instr := if join then .commitJoin r dm else .commit r dm
      (isForm r join = true → meets c 0x12 (bodyOk 0x12 (reqBody r))) ∧ (isForm r join = false → exec c s = .next s)) ∧
    (wellFramed r = false → meets (.badFrame r) (reqOp r) false) ∧
    (wellFramed r = true → exec (.badFrame r) s = .next s) ∧
    (wellFramed r = false → bodyOk (reqOp r) (reqBody r) = true → refusal s r (reqOp r) = some stBadFrame) ∧
    (∀ lo hi : Byte, bodyHello (reqBody r) = some (lo, hi) → Served s r 0x01 →
      let v := chooseVersion (versionRange s r.sender) lo hi
      (∀ a n, r.sender = .host a → (s.ports.bound = none ∨ s.ports.bound = some a) → v = some n →
        Answers (.hello r) s r 0x01 stOk (helloBody s n (Config.sessionNumber s.fresh)) (fun m =>
          m.ports.bound = some a ∧ m.ports.version = BitVec.ofNat 8 n ∧ m.ports.session = Config.sessionNumber s.fresh ∧
          m.ports.qps = [] ∧ m.ports.keptHost = [] ∧ getCnt m (opCounter r.sender) = (getCnt s (opCounter r.sender)).add 1 ∧
          m = { s with ports := m.ports, cnt := m.cnt, fresh := s.fresh + 1 })) ∧
      (∀ a b, r.sender = .host a → s.ports.bound = some b → b ≠ a → OnlyAnswers (.hello r) s r 0x01 stPeerBound []) ∧
      (v = none → (∀ a, r.sender = .host a → s.ports.bound = none ∨ s.ports.bound = some a) →
        OnlyAnswers (.hello r) s r 0x01 stBadVersion []) ∧
      (∀ k n, r.sender = .mgt k → v = some n → OnlyAnswers (.hello r) s r 0x01 stOk (helloBody s n 0)))

/-- Completions (R272, R402, R404, R405, R416): one goes to where its command came from; that of an operation which another chip forwarded
goes back on the link by which the operation came, in MGT flits; the last 1,024 of the host session and the last 256 of each management
source are kept, and a command with the TAG of a kept one repeats it. A source is an address: a station's UDP port is no part of it. (That
the frames which this chip sends on count up by one is the model's choice, log 11, DESIGN CHOICE.) -/
def Obligations.CompletionsAreSentAndKept : Prop :=
  ∀ (s : State) (r : Req) (op status : Nat) (body : List Byte),
    let u := complete s r op status body
    let o := addressOf r.sender
    let k : Kept := { from_ := o, tag := reqTag r, op := BitVec.ofNat 8 op, status := status, body := body }
    ((∀ c n, r.sender ≠ .mgt (.forwarded c n)) →
      u.out = s.out ++ [.completion r.sender (answerFrame r k false)] ∧ u = { s with out := u.out, ports := u.ports }) ∧
    (∀ c n l, s.keyed = true → r.sender = .mgt (.forwarded c n) → pathOf s c n = some l →
      (getLink u l).mgtQ = (getLink s l).mgtQ ++ fragments s.ports.nextFrame (answerFrame r k false) ∧
      u.ports.nextFrame = s.ports.nextFrame + 1 ∧ u.out = s.out ∧ ∀ m, m ≠ l → getLink u m = getLink s m) ∧
    (∀ a, r.sender = .host a → s.ports.bound = some a → reqSession r = s.ports.session → s.ports.keptHost.length ≤ 1024 →
      u.ports.keptHost.length ≤ 1024 ∧ u.ports.keptHost.getLast? = some k ∧ u.ports.keptHost <:+ s.ports.keptHost ++ [k] ∧
      (s.ports.keptHost.length < 1024 → u.ports.keptHost = s.ports.keptHost ++ [k]) ∧
      ((∀ x, x ∈ s.ports.keptHost → x.tag ≠ reqTag r) → keptFor u r op = some k) ∧ u.ports.keptMgt = s.ports.keptMgt) ∧
    (∀ x, r.sender = .mgt x →
      let of := fun (v : State) (y : Source) => v.ports.keptMgt.filter (fun z => z.from_ == y)
      ((of s o).length ≤ 256 → (of u o).length ≤ 256) ∧ (of u o).getLast? = some k ∧
      of u o <:+ of s o ++ [k] ∧ ((of s o).length < 256 → of u o = of s o ++ [k]) ∧
      (∀ y, y ≠ o → of u y = of s y) ∧ u.ports.keptHost = s.ports.keptHost ∧
      (∀ ip p q, r.sender = .mgt (.direct ip p) → addressOf (.mgt (.direct ip q)) = o) ∧
      ((∀ z, z ∈ of s o → z.tag ≠ reqTag r) → keptFor u r op = some k))

/-- REG_READ, REG_WRITE, SHADOW_READ, SURVEY and SURVEY_FIRE (R7, R407, R425 to R428): each word is one access, in order, with its own
status, and one that resets the device is the last; a survey is armed once, and copies every counter when it fires. (Where a read
makes a 65th station use holding registers, those of the oldest go, and a low word they held with no record yet is recorded, R6, R417.) -/
def Obligations.RegisterOperationsComplete : Prop :=
  ∀ (s : State) (r : Req),
    let t := begun s r
    (∀ addr n, bodyRead (reqBody r) = some (addr, n) → Served s r 0x02 →
      let x := fun (i : Nat) => (readWords r.sender i addr t []).1
      ∃ l : List Byte, l.length = 8 * n ∧
        (∀ i, i < n → let z := readAccess (x i) r.sender (addr + BitVec.ofNat 32 (4 * i))
          slice l (8 * i) 8 = leBytes 4 z.2.2.toNat ++ leBytes 2 z.2.1 ++ [0, 0] ∧ x (i + 1) = z.1) ∧ x 0 = t ∧
        Answers (.regRead r) s r 0x02 stOk l (fun m => m = x n ∧ m.mem = s.mem ∧ m.tiles = s.tiles ∧
          ((s.holding.filter isStation).length < 64 → m.jrn = s.jrn ∧ m.sch = s.sch))) ∧
    (∀ ps, bodyWrite (reqBody r) = some ps → Served s r 0x03 →
      let x := fun (i : Nat) => (writeWords r.sender (ps.take i) t []).1
      ((x ps.length).epoch = s.epoch →
        ∃ l : List Byte, l.length = 2 * ps.length ∧
          (∀ i p, ps[i]? = some p → let z := writeAccess (x i) r.sender p.1 p.2
            slice l (2 * i) 2 = leBytes 2 z.2 ∧ x (i + 1) = z.1) ∧ x 0 = t ∧
          Answers (.regWrite r) s r 0x03 stOk l (fun m => m = x ps.length)) ∧
      ((x ps.length).epoch ≠ s.epoch → exec (.regWrite r) s = .next (x ps.length))) ∧
    (∀ addr n, bodyRead (reqBody r) = some (addr, n) → Served s r 0x29 →
      ∃ l : List Byte, l.length = 8 * n ∧ OnlyAnswers (.shadowRead r) s r 0x29 stOk l ∧
        (∀ i, i < n → let a := (addr + BitVec.ofNat 32 (4 * i)).toNat
          (∀ base, counterAt a = some (base, false) →
            slice l (8 * i) 8 = leBytes 4 ((SMap.get {} s.shadowCnt base).n % 2 ^ 32) ++ [0, 0, 0, 0]) ∧
          (∀ base, counterAt a = some (base, true) →
            slice l (8 * i) 8 = leBytes 4 (cntHi (SMap.get {} s.shadowCnt base)).toNat ++ [0, 0, 0, 0]) ∧
          (counterAt a = none → slice l (8 * i) 8 = [0, 0, 0, 0, 2, 0, 0, 0]))) ∧
    (∀ (kind : Byte) (clear : Bool) (target : DWord), bodySurvey (reqBody r) = some (kind, clear, target) → Served s r 0x28 →
      let arms := Answers (.survey r) s r 0x28 stOk [] (fun m => m.ports.survey = some (kind, clear, target) ∧
        m.ports.surveyDone = false ∧ m = { s with cnt := m.cnt, ports := m.ports })
      (s.ports.survey = none → kind = 1 → isCommitted s = true → s.sch.jobMs < target.toNat → arms) ∧
      (s.ports.survey = none → kind = 1 → isCommitted s = true → target.toNat ≤ s.sch.jobMs →
        OnlyAnswers (.survey r) s r 0x28 stTooLate []) ∧
      (s.ports.survey = none → kind = 2 → arms) ∧
      (s.ports.survey ≠ none → kind = 3 →
        Answers (.survey r) s r 0x28 stOk [] (fun m => m.ports.survey = none ∧ m = { s with cnt := m.cnt, ports := m.ports })) ∧
      ((s.ports.survey ≠ none ∧ kind ≠ 3) ∨ (s.ports.survey = none ∧ (kind = 3 ∨ (kind = 1 ∧ isCommitted s = false))) →
        OnlyAnswers (.survey r) s r 0x28 stBadState [])) ∧
    (∀ clear target, s.keyed = true → s.ports.survey = some (2, clear, target) → reached s (half target false) = true →
      ∃ u, exec .surveyFire s = .next u ∧ u.shadowCnt = s.cnt ∧ u.cnt = (if clear then [] else s.cnt) ∧
        u.ports.survey = none ∧ u.ports.surveyDone = true ∧ u.ports.surveySeq = s.ports.surveySeq + 1 ∧
        getReg u 0x90038 = localTime s ∧ getReg u 0x90028 = BitVec.ofNat 32 s.sch.milestone ∧
        getReg u 0x90030 = BitVec.ofNat 32 s.sch.jobMs ∧ u.sch = s.sch ∧ u.jrn = s.jrn ∧ u.out = s.out)

/-- LOAD, PATCH, UNLOAD and SEED (R54, R159, R409 to R411): the slot takes the bytes of device memory and the result of its checks; a patch
writes its values at their sites, or none of them; a slot empties; a seed slot takes its value. Each of LOAD and SEED appends its records.
A block that a LOAD reads whole has a check value from then on (R302); of the lines it reads, the first that cannot be corrected ends it
(R299, R301). (The model's choices here: the LOAD command
brings the decoded content of the sections whose layout the spec leaves open, log 5; the KiB rounded up and the window that a source
needs, log 74; NOT_FOUND for an empty slot, and the port as source of the records, log 77. That overlapping patch sites refuse a LOAD is
one too, log 102, and is not stated.) -/
def Obligations.LoadingOperationsComplete : Prop :=
  ∀ (s : State) (r : Req), s.dev = .ready →
    (∀ (i : Fin 4) (a n : Nat) (c : ItinContent), bodyLoad (reqBody r) = some (i, a, n) →
      Served s r 0x10 → s.sch.committed ≠ some i → n ≤ storeRoom s i →
      copyAllowed s a n = true → appendRefusal s = none → s.jrn.held = [] →
      ∀ dm : Damage,
      (sitesOverlap (copiedSlot (memRead s a n) c) = false → (∀ z, z ∈ dm → lineIn a n z.1 = true → z.2 ≠ .uncorrectable) →
        ∃ x : Slot, x.length = n ∧ x.content = c ∧ (∀ k, k < n → SMap.get 0 x.bytes k = memByte s (a + k)) ∧
          x.patchedBase = [] ∧ x.patchedCoord = [] ∧
          (x.failRule = 0 ↔ loadFail { x with failRule := 0, failOffset := 0 } = none) ∧
          Answers (.load r c dm) s r 0x10 stOk (leBytes 4 x.failRule ++ leBytes 4 x.failOffset.toNat) (fun m =>
            getSlot m i = some x ∧ (∀ j, j ≠ i → getSlot m j = getSlot s j) ∧ m.jrn.next = s.jrn.next + 9 ∧
            NewRecord s m 0x10 (.host 0) (BitVec.ofNat 32 i.val) (BitVec.ofNat 32 (header x 4 1)) (BitVec.ofNat 32 (ceilDiv n 1024)) ∧
            (∀ b, b ∈ wholeBlocks a n → (getTag m b).check ≠ none) ∧ (∀ b, b ∉ wholeBlocks a n → getTag m b = getTag s b) ∧
            (∀ b, getTag m b = { getTag s b with check := (getTag m b).check }) ∧
            m.csr = s.csr ∧ m.mem = { s.mem with tags := m.mem.tags } ∧ m.tiles = s.tiles)) ∧
      (∀ before z after, dm.filter (fun y => lineIn a n y.1) = before ++ z :: after → (∀ y, y ∈ before → y.2 ≠ .uncorrectable) →
        z.2 = .uncorrectable →
        Answers (.load r c dm) s r 0x10 stDataError [] (fun m =>
          getSlot m i = none ∧ (∀ j, j ≠ i → getSlot m j = getSlot s j) ∧
          ((∀ h, h ∈ s.holding → h.owed = none) → m.jrn = s.jrn) ∧
          getReg m 0x70018 = BitVec.ofNat 32 z.1 ∧ getReg m 0x7001C = BitVec.ofNat 32 (z.1 / 2 ^ 32)))) ∧
    (∀ (i : Fin 4) (es : List PatchEntry) x, bodyPatch (reqBody r) = some (i, es) → Served s r 0x11 → s.sch.committed ≠ some i →
      getSlot s i = some x →
      (∀ e p, es = [e] → (sitesOfKind x e.coord)[e.index]? = some p → e.value.toNat < 2 ^ (8 * p.width) →
        SMap.rising x.bytes = true →
        ∃ y, (∀ k, k < p.width → SMap.get 0 y.bytes (p.offset + k) = BitVec.ofNat 8 (e.value.toNat / 256 ^ k)) ∧
          (∀ b, (b < p.offset ∨ p.offset + p.width ≤ b) → SMap.get 0 y.bytes b = SMap.get 0 x.bytes b) ∧
          e.index ∈ (if e.coord then y.patchedCoord else y.patchedBase) ∧ y.length = x.length ∧
          Answers (.patch r) s r 0x11 stOk [] (fun m => getSlot m i = some y ∧ (∀ j, j ≠ i → getSlot m j = getSlot s j) ∧
            m = { s with slots := m.slots, cnt := m.cnt, ports := m.ports })) ∧
      ((∀ e, e ∈ es → entryRefusal x e = none) →
        Answers (.patch r) s r 0x11 stOk [] (fun m => getSlot m i = some (es.foldl applyPatch x))) ∧
      (∀ before e after q, es = before ++ e :: after → (∀ z, z ∈ before → entryRefusal x z = none) → entryRefusal x e = some q →
        OnlyAnswers (.patch r) s r 0x11 q [])) ∧
    (∀ i, bodySlot (reqBody r) = some i → Served s r 0x14 → s.sch.committed ≠ some i →
      (getSlot s i ≠ none →
        Answers (.unload r) s r 0x14 stOk [] (fun m => getSlot m i = none ∧ (∀ j, j ≠ i → getSlot m j = getSlot s j) ∧
          m = { s with slots := m.slots, cnt := m.cnt, ports := m.ports })) ∧
      (getSlot s i = none → OnlyAnswers (.unload r) s r 0x14 stNotFound [])) ∧
    (∀ (slot : Byte) (v : DWord), bodySeed (reqBody r) = some (slot, v) → Served s r 0x15 → isCommitted s = false →
      appendRefusal s = none → s.jrn.held = [] →
      Answers (.seed r) s r 0x15 stOk [] (fun m => SMap.get 0 m.seeds slot.toNat = v ∧
        (∀ k, k ≠ slot.toNat → SMap.get 0 m.seeds k = SMap.get 0 s.seeds k) ∧
        NewRecord s m 0x20 (.host 0) (BitVec.ofNat 32 slot.toNat) (half v false) (half v true) ∧ m.csr = s.csr ∧
        m.slots = s.slots ∧ m.mem = s.mem ∧ m.tiles = s.tiles))

/-- COMMIT in both forms, and ABORT (R47, R216, R222, R273, R282, R407, R412): the map is written; the first check that fails refuses;
else the slot is committed, with its tiles, its schedule, its dependency mask and its records, and START is sent; ABORT ends it. A
schedule and the slot in the itinerary store are read line by line, and blocks of the schedule that are read whole hold check values (R299,
R301, R302). (The model's choices here: DATA_ERROR for a line that cannot be corrected, log 37, DESIGN CHOICE; START sent as COMMIT accepts,
log 51, DEDUCED; what the end of a job clears, log 61; ITIN_MISMATCH for a schedule outside every window, and the hops emptied, log 75; the
port as the source of the records of COMMIT and ABORT, log 77; BAD_STATE while an image store runs, log 143, both DEDUCED.) -/
def Obligations.CommitAndAbort : Prop :=
  ∀ (s : State) (r : Req),
    (∀ (join : Bool) (b : CommitBody) (dm : Damage) x, bodyCommit (reqBody r) = some (join, b) → Served s r 0x12 →
      let cmd : Instr := if join then .commitJoin r dm else .commit r dm
      let t := mapWrites r.sender b.map 0 (begun s r)
      let a := b.schedAddr.toNat
      let n := 16 * b.schedCount
      let es := if b.schedule then scheduleEntries (memRead t a n) b.schedCount else []
      (b.schedule = true → 0x11 ≤ s.ports.version.toNat) →
      appendRefusal s = none → appendRefusal t = none → t.jrn.held = [] → getSlot t b.slot = some x →
      (stateCode t ≠ 2 ∨ degraded t = true ∨ t.boot.storeBusy = true → Answers cmd s r 0x12 stBadState [] (fun m => m = t)) ∧
      (stateCode t = 2 → degraded t = false → t.boot.storeBusy = false →
      let reads := fun (p : Nat) => (b.schedule && lineIn a n p) || slotLine t p
      let tagged := fun (m : State) => { t with pwr := m.pwr, cnt := m.cnt, mem := { t.mem with tags := m.mem.tags } }
      ((b.schedule = true → copyAllowed t a n = true) → (∀ z, z ∈ dm → reads z.1 = true → z.2 ≠ .uncorrectable) →
        (commitRefusal t x es = none →
          Answers cmd s r 0x12 stOk [] (fun m => Commits t m b.slot x es b.start ∧
            (∀ k (h : k < b.map.length), getReg m (roadmapAddr k) = b.map[k]) ∧ m.jrn.next = t.jrn.next + 9 ∧
            NewRecord t m 0x11 (.host 0) (BitVec.ofNat 32 b.slot.val) 0 0 ∧ (m.sch.detour.isSome ↔ join = true))) ∧
        (∀ e, commitRefusal t x es = some e →
          Answers cmd s r 0x12 e [] (fun m => m = tagged m ∧ (b.schedule = false → m.mem = t.mem)))) ∧
      (b.schedule = true → copyAllowed t a n = false → Answers cmd s r 0x12 stItinMismatch [] (fun m => m = t)) ∧
      ((b.schedule = true → copyAllowed t a n = true) → (∃ z, z ∈ dm ∧ reads z.1 = true ∧ z.2 = .uncorrectable) →
        Answers cmd s r 0x12 stDataError [] (fun m => m.sch.committed = none ∧ m.slots = t.slots ∧
          ((∀ h, h ∈ t.holding → h.owed = none) → m.jrn = t.jrn))))) ∧
    (∀ (b : CommitBody) (join : Bool) (dm : Damage), bodyCommit (reqBody r) = some (join, b) → Served s r 0x12 →
      b.schedule = true → s.ports.version.toNat < 0x11 →
      OnlyAnswers (if join then .commitJoin r dm else .commit r dm) s r 0x12 stBadVersion []) ∧
    (∀ code : Byte, bodyAbort (reqBody r) = some code → Served s r 0x13 →
      (runOrHold s = true → appendRefusal s = none → s.jrn.held = [] → s.sch.staged = [] →
        (∀ d, underTest (getDist s d).spare = false) →
        ∃ i, s.sch.committed = some i ∧ Answers (.abort r) s r 0x13 stOk [] (fun m => m.sch.committed = none ∧
          m.sch.milestone = s.sch.milestone + (if s.sch.running then 1 else 0) ∧ m.tiles = [] ∧ m.flights = [] ∧
          getReg m 0x000B0008 = 0 ∧ (∀ a, a ≠ 0x000B0008 → a ≠ 0x00060008 → getReg m a = getReg s a) ∧ m.slots = s.slots ∧
          (m.sch.holds.getLsbD 0 || m.sch.holds.getLsbD 7 || m.sch.holds.getLsbD 8 || m.sch.holds.getLsbD 10) = false ∧
          NewRecord s m 0x13 r.sender (BitVec.ofNat 32 i.val) 0 (code.setWidth 32))) ∧
      (runOrHold s = false → OnlyAnswers (.abort r) s r 0x13 stBadState []))

/-- TOLLGATE, RETRACE and DETOUR (R154, R215, R216, R279, R280, R405, R407, R414): a TOLLGATE waits for the boundary; RETRACE abandons the
milestone with cause 6, makes the chip done with it, and clears VIOLATION in its turn; an accepted DETOUR holds the chip and abandons
with cause 5, one that R280 refuses does nothing. (The model's choices: that they answer BAD_STATE in
FAULT, log 72, and that the units of an abandoned milestone leave every verge and early list at once, log 122, DEDUCED.) -/
def Obligations.JobOperationsComplete : Prop :=
  ∀ (s : State) (r : Req),
    (bodyNone (reqBody r) = some () → Served s r 0x20 →
      (s.dev = .ready → isCommitted s = true →
        ∃ u, exec (.tollgate r) s = .next u ∧ u.sch = { s.sch with tollgates := s.sch.tollgates ++ [r] } ∧
          u = { begun s r with sch := u.sch }) ∧
      (s.dev = .ready → isCommitted s = false → OnlyAnswers (.tollgate r) s r 0x20 stOk []) ∧
      (s.dev ≠ .ready → OnlyAnswers (.tollgate r) s r 0x20 stBadState [])) ∧
    (bodyNone (reqBody r) = some () → Served s r 0x21 →
      (runOrHold s = true → appendRefusal s = none →
        Answers (.retraceCommand r) s r 0x21 stOk [] (fun m =>
          (inTurn s 0 = true → m.sch.holds.getLsbD 0 = false) ∧
          (inTurn s 0 = false → m.sch.holds.getLsbD 0 = s.sch.holds.getLsbD 0 ∧ m.sch.decided = s.sch.holds.getLsbD 0) ∧
          (s.sch.done = false → m.sch.causesNow.getLsbD 5 = true) ∧ (s.sch.done = true → m.sch.causesNext.getLsbD 5 = true) ∧
          (s.sch.running = true → s.sch.done = false → m.sch.forced = true ∧ s.sch.jobMs ∈ m.sch.dropMs ∧
            (∀ p e, e ∈ (getTile m p).sends → e.state = .departed ∨ e.state = .missed) ∧
            (∀ h v, v ∈ (getHop m h).verge ++ (getHop m h).early → v.ms ≠ msByte s.sch.jobMs)) ∧
          m.csr = s.csr ∧ m.mem = s.mem ∧ m.jrn = s.jrn)) ∧
      (runOrHold s = false → OnlyAnswers (.retraceCommand r) s r 0x21 stBadState [])) ∧
    (∀ (b : DetourBody) x, bodyDetour (reqBody r) = some b → Served s r 0x22 → committedSlot s = some x → s.dev = .ready →
      appendRefusal s = none →
      (detourRefused s x b = false →
        ∃ d : Detour, d.join = false ∧ d.substs = b.substs ∧ d.j = b.j.toNat ∧ d.p = b.p.toNat ∧ d.g = b.g.toNat ∧ d.t0 = b.t0 ∧
          d.map = newMap (roadMap s) b.substs ∧
          Answers (.detour r) s r 0x22 stOk [] (fun m => m.sch.detour = some d ∧
            (s.sch.running = true → s.sch.done = false → m.sch.causesNow.getLsbD 4 = true) ∧
            (detourReady m d = false → m.sch.holds.getLsbD 10 = true) ∧ m.sch.holds.getLsbD 7 = false ∧
            (∀ n, n < 24 → (∃ z, z ∈ b.substs ∧ closesLink s n z = true) → lnkDiscard m n = true) ∧
            m.tiles = s.tiles ∧ m.mem = s.mem ∧ m.slots = s.slots)) ∧
      (detourRefused s x b = true → OnlyAnswers (.detour r) s r 0x22 stRefused []))

/-- JRN_READ, SEAL_READ, REPORT_READ, FLASH_READ, ID_KEY, ATTEST, ATTEST_DONE and ATTEST_READ (R299, R301, R359, R418, R423, R444, R448,
R449): what each answers, and that reading changes nothing, but for the power of the lines that JRN_READ and SEAL_READ read and the errors
they meet. (The model's choices: a damaged record ends the answer, with a count of 0 where it is the first, log 81, and a line of a seal
that cannot be corrected is answered DATA_ERROR, log 37, both DESIGN CHOICE.) -/
def Obligations.ExportsAndAttestation : Prop :=
  ∀ (s : State) (r : Req),
    (∀ first n x l, bodyJrnRead (reqBody r) = some (first, n) → Served s r 0x40 →
      (s.jrn.records.filter (fun x => decide (first ≤ x.recno))).take n = x :: l →
      let body := fun (k : List Record) => leBytes 8 x.recno ++ leBytes 2 k.length ++ List.replicate 6 0 ++ k.flatMap recordBytes
      let line := fun (y : Record) => recordAddr y.recno
      ∀ dm : Damage, noRepeat (dm.map (·.1)) = true →
      ((∀ y, y ∈ x :: l → outcomeAt dm (line y) = .ok) →
        Answers (.jrnRead r dm) s r 0x40 stOk (body (x :: l)) (fun m =>
          m.pwr.hubFj = s.pwr.hubFj + (x :: l).length * weight s 13 ∧ m = { begun s r with pwr := m.pwr })) ∧
      ((∀ y, y ∈ x :: l → outcomeAt dm (line y) ≠ .uncorrectable) →
        Answers (.jrnRead r dm) s r 0x40 stOk (body (x :: l)) (fun m => m = { begun s r with pwr := m.pwr, cnt := m.cnt })) ∧
      (∀ good z rest, x :: l = good ++ z :: rest → (∀ y, y ∈ good → outcomeAt dm (line y) ≠ .uncorrectable) →
        outcomeAt dm (line z) = .uncorrectable →
        Answers (.jrnRead r dm) s r 0x40 stDataError (body good) (fun m =>
          m.dev = .fault ∧ ((∀ h, h ∈ s.holding → h.owed = none) → m.jrn = s.jrn) ∧ m.slots = s.slots))) ∧
    (∀ k off n x, bodySealRead (reqBody r) = some (k, off, n) → Served s r 0x41 → off + n ≤ 29920 →
      s.jrn.seals.find? (fun x => x.number == k) = some x →
      let met := fun (z : Nat × MemOutcome) => lineIn (sealAddr k + off) n z.1 = true
      let body := slice (x.header ++ signatureOf s x.signature x.header) off n
      ∀ dm : Damage,
      ((∀ z, z ∈ dm → met z → z.2 = .ok) →
        Answers (.sealRead r dm) s r 0x41 stOk body (fun m => m = { begun s r with pwr := m.pwr })) ∧
      ((∀ z, z ∈ dm → met z → z.2 ≠ .uncorrectable) →
        Answers (.sealRead r dm) s r 0x41 stOk body (fun m => m = { begun s r with pwr := m.pwr, cnt := m.cnt })) ∧
      ((∃ z, z ∈ dm ∧ met z ∧ z.2 = .uncorrectable) →
        Answers (.sealRead r dm) s r 0x41 stDataError [] (fun m =>
          m.dev = .fault ∧ ((∀ h, h ∈ s.holding → h.owed = none) → m.jrn = s.jrn) ∧ m.slots = s.slots))) ∧
    (∀ seq n x l, bodyReportRead (reqBody r) = some (seq, n) → Served s r 0x42 →
      (s.ports.reports.filter (fun p => decide (seq ≤ p.1))).take n = x :: l →
      OnlyAnswers (.reportRead r) s r 0x42 stOk ((x :: l).flatMap (·.2))) ∧
    (∀ off n, bodySpan (reqBody r) = some (off, n) → Served s r 0x54 → s.dev ≠ .boot → off + n ≤ flashSize s →
      OnlyAnswers (.flashRead r) s r 0x54 stOk (flashBytes s off n)) ∧
    (bodyNone (reqBody r) = some () → Served s r 0x55 → s.dev ≠ .boot →
      OnlyAnswers (.idKey r) s r 0x55 stOk (leBytes 64 s.boot.pk.toNat)) ∧
    (∀ nonce, bodyAttest (reqBody r) = some nonce → Served s r 0x56 → s.dev ≠ .boot →
      (s.boot.attestBusy = false →
        Answers (.attest r) s r 0x56 stOk [] (fun m => m.boot.attestBusy = true ∧ m.boot.attestReady = false ∧
          m.boot.signQ = s.boot.signQ ++ [.attest nonce] ∧ (s.boot.signQ = [] → m.boot.attestText = attestText s nonce) ∧
          m = { s with boot := m.boot, cnt := m.cnt, ports := m.ports })) ∧
      (s.boot.attestBusy = true → OnlyAnswers (.attest r) s r 0x56 stBadState [])) ∧
    (∀ nonce q, s.boot.signQ = .attest nonce :: q →
      ∃ u, exec .attestDone s = .next u ∧ u.boot.attestBusy = false ∧ u.boot.attestReady = true ∧ u.boot.signQ = q ∧
        u.boot.attestSig = s.fresh ∧ (q = [] → u.boot.attestText = s.boot.attestText ∧ u.jrn = s.jrn) ∧
        u = { s with boot := u.boot, jrn := u.jrn, fresh := u.fresh }) ∧
    (∀ off n, bodySpan (reqBody r) = some (off, n) → Served s r 0x57 → s.dev ≠ .boot →
      (s.boot.attestReady = true → off + n ≤ 29920 →
        OnlyAnswers (.attestRead r) s r 0x57 stOk
          (slice (s.boot.attestText ++ signatureOf s s.boot.attestSig s.boot.attestText) off n)) ∧
      (s.boot.attestReady = false → OnlyAnswers (.attestRead r) s r 0x57 stNotFound []))

/-- IMG_BEGIN, IMG_DATA, IMG_VERIFY, IMG_STORE and IMG_STORE_DONE (R436, R440, R445, R446, R448): one session of a source address with an
empty staging buffer, its bytes, the cause of the checks of step 5, the flash first, with the digest, and the store of a verified image:
the sectors are erased in ascending order, then the pages programmed from the highest down to page 0. A line of the staged bytes that
cannot be corrected is a FAULT (R301). (The model's choices: how far a store is at each moment, and that a read-back which differs leaves
the covered sectors undefined, log 31; that such a line answers IMG_VERIFY with DATA_ERROR and counts as a difference of a store, log 37;
all DESIGN CHOICE.) -/
def Obligations.ImageSessionRuns : Prop :=
  ∀ (s : State) (r : Req),
    let o := addressOf r.sender
    let far := fun (m : State) => m = { s with boot := m.boot, cnt := m.cnt, ports := m.ports }
    (∀ total, bodyImgBegin (reqBody r) = some total → Served s r 0x50 → stagingState s = true →
      (s.boot.session = none ∨ ∃ n, s.boot.session = some (o, n)) →
      (total ≤ min (imageSlot s) (2 ^ 26) →
        Answers (.imgBegin r) s r 0x50 stOk [] (fun m => m.boot.session = some (o, total) ∧ m.boot.stage = [] ∧
          m.boot.verified = false ∧ m.boot.flash = s.boot.flash ∧ far m)) ∧
      (min (imageSlot s) (2 ^ 26) < total → OnlyAnswers (.imgBegin r) s r 0x50 stRefused [])) ∧
    (∀ off data total, bodyImgData (reqBody r) = some (off, data) → Served s r 0x51 → stagingState s = true →
      s.boot.session = some (o, total) →
      (off + data.length ≤ total → SMap.rising s.boot.stage = true →
        Answers (.imgData r) s r 0x51 stOk [] (fun m => (∀ k (h : k < data.length), stageByte m (off + k) = data[k]) ∧
          (∀ a, (a < off ∨ off + data.length ≤ a) → stageByte m a = stageByte s a) ∧
          m.boot.verified = false ∧ m.boot.session = s.boot.session ∧ far { m with pwr := s.pwr })) ∧
      (total < off + data.length → OnlyAnswers (.imgData r) s r 0x51 stRefused [])) ∧
    (∀ total, bodyNone (reqBody r) = some () → Served s r 0x52 → stagingState s = true → s.boot.session = some (o, total) →
      let c := stepFiveCause s (stageByte s)
      (flashUsable s = false → c = 1) ∧ (flashUsable s = true → headerOk (stageByte s) (imageSlot s) = false → c = 2) ∧
      ∀ dm : Damage,
      ((∀ z, z ∈ dm → lineIn stageAddr total z.1 = true → z.2 ≠ .uncorrectable) →
        Answers (.imgVerify r dm) s r 0x52 stOk
          ([c] ++ List.replicate 7 0 ++ leBytes 32 (digest256 (imgBytes (stageByte s) 0 (min (imgLength (stageByte s)) total))).toNat)
          (fun m => m.boot.verified = decide (c = 0) ∧ m.boot.stage = s.boot.stage ∧
            m = { s with boot := m.boot, cnt := m.cnt, ports := m.ports, pwr := m.pwr })) ∧
      (∀ z, z ∈ dm → lineIn stageAddr total z.1 = true → total ≤ 2 ^ 26 → z.2 = .uncorrectable →
        Answers (.imgVerify r dm) s r 0x52 stDataError [] (fun m => m.dev = .fault ∧ m.boot.verified = s.boot.verified))) ∧
    (∀ total, bodyNone (reqBody r) = some () → Served s r 0x53 → (stateCode s = 1 ∨ stateCode s = 2) → s.boot.storeBusy = false →
      s.jrn.flashBusy = false → s.boot.session = some (o, total) →
      (s.boot.verified = true →
        Answers (.imgStore r) s r 0x53 stOk [] (fun m => m.boot.storeBusy = true ∧ m.boot.storeSectors = 0 ∧ m.boot.storePages = 0 ∧
          m.boot.stage = s.boot.stage ∧ m.boot.flash = s.boot.flash ∧ m.boot.torn = s.boot.torn ∧ far m))) ∧
    (bodyNone (reqBody r) = some () → Served s r 0x53 → (stateCode s = 1 ∨ stateCode s = 2) → s.boot.storeBusy = false →
      s.jrn.flashBusy = false → s.boot.verified = false → OnlyAnswers (.imgStore r) s r 0x53 stRefused []) ∧
    (∀ total src, s.boot.storeBusy = true → s.boot.session = some (src, total) → SMap.rising s.boot.flash = true →
      let ends := fun (u : State) (same : Bool) => u.boot.storeBusy = false ∧ u.boot.session = none ∧
        u.boot.storeErr = (s.boot.storeErr || !same) ∧ (same = true → ∀ a, a < total → flashByte u a = stageByte s a) ∧
        (∀ a, sectors total ≤ a → flashByte u a = flashByte s a)
      ∀ (same : Bool) (dm : Damage),
      ((∀ z, z ∈ dm → lineIn stageAddr total z.1 = true → z.2 ≠ .uncorrectable) →
        ∃ u, exec (.imgStoreDone same dm) s = .next u ∧ ends u same ∧
          u = { s with boot := u.boot, cnt := u.cnt, pwr := u.pwr, fresh := s.fresh + 1 }) ∧
      (∀ z, z ∈ dm → lineIn stageAddr total z.1 = true → total ≤ 2 ^ 26 → z.2 = .uncorrectable →
        ∃ u, exec (.imgStoreDone same dm) s = .next u ∧ ends u false ∧ u.dev = .fault)) ∧
    (∀ total, SMap.rising s.boot.flash = true →
      let u := storeUnit s total
      let k := s.boot.storeSectors
      let p := pages total - 1 - s.boot.storePages
      (k < ceilDiv total 65536 → u.boot.storeSectors = k + 1 ∧ u.boot.storePages = s.boot.storePages ∧
        (∀ a, a / 65536 = k → flashByte u a = 0xFF) ∧ (∀ a, a / 65536 ≠ k → flashByte u a = flashByte s a)) ∧
      (ceilDiv total 65536 ≤ k → s.boot.storePages < pages total → u.boot.storeSectors = k ∧
        u.boot.storePages = s.boot.storePages + 1 ∧ (∀ a, a / 256 = p → a < total → flashByte u a = stageByte s a) ∧
        (∀ a, a / 256 ≠ p → flashByte u a = flashByte s a)))

/-- QP_OPEN, QP_CLOSE, RDMA_WRITE and RDMA_READ (R399 to R401, R406): a queue pair opens with its number and closes; a packet in its turn
whose message its window admits reaches memory, and the end of the message is acknowledged; a READ is answered with the bytes in packets
of the path MTU; an operation that the window does not admit is NAKed and counted; a CE-marked packet is answered with a CNP. (The NAK
codes, the numbers of the packets and the answers to duplicates are the IBTA's, log 38, and a READ that meets a bad line is log 101;
what a queue pair that is not open does is log 38 too, and is not stated.) -/
def Obligations.QueuePairsAndRdma : Prop :=
  ∀ (s : State) (r : Req),
    (∀ i pmtu hq rp sp gid, bodyQpOpen (reqBody r) = some (i, pmtu, hq, rp, sp, gid) → Served s r 0x30 →
      Answers (.qpOpen r) s r 0x30 stOk (leBytes 4 (0x100 + i.val)) (fun m =>
        lookup m.ports.qps i.val = some { pmtu := pmtu, hostQpn := hq, reqPsn := rp, respPsn := sp, gid := gid,
                                          psn := rp.setWidth 24 } ∧
        (∀ k, k ≠ i.val → lookup m.ports.qps k = lookup s.ports.qps k) ∧ m = { s with cnt := m.cnt, ports := m.ports })) ∧
    (∀ i, bodyQpClose (reqBody r) = some i → Served s r 0x31 → lookup s.ports.qps i.val ≠ none →
      Answers (.qpClose r) s r 0x31 stOk [] (fun m => lookup m.ports.qps i.val = none ∧
        (∀ k, k ≠ i.val → lookup m.ports.qps k = lookup s.ports.qps k) ∧ m = { s with cnt := m.cnt, ports := m.ports })) ∧
    (∀ h : RdmaHead, s.keyed = true → qpLive s h.qp.val = true →
      let q := getQp s h.qp.val
      let naks := fun (c : Instr) (x : Option Byte) =>
        exec c s = .next { s with out := s.out ++ [.rdmaAck q.hostQpn h.psn x] }
      let refuses := fun (c : Instr) => ∃ u, exec c s = .next u ∧ u.out = s.out ++ [.rdmaAck q.hostQpn h.psn (some nakAccess)] ∧
        getCnt u 0x80120 = (getCnt s 0x80120).add 1 ∧ u = { s with cnt := u.cnt, out := u.out }
      (∀ p data dm, exec (.rdmaWrite h p data dm) s = exec (.rdmaWrite { h with ce := false } p data dm) (noteCe s h)) ∧
      (∀ k a n dm, exec (.rdmaRead h k a n dm) s = exec (.rdmaRead { h with ce := false } k a n dm) (noteCe s h)) ∧
      (h.ce = true →
        ((q.cnpAt = none ∨ ∃ t, q.cnpAt = some t ∧ t + 50000 ≤ s.tme.age) →
          (noteCe s h).out = s.out ++ [.cnp q.hostQpn] ∧ getQp (noteCe s h) h.qp.val = { q with cnpAt := some s.tme.age }) ∧
        (∀ t, q.cnpAt = some t → s.tme.age < t + 50000 → noteCe s h = s)) ∧
      (∀ (p : WritePart) (data : List Byte) (dm : Damage), h.ce = false →
        (∀ w, h.psn = q.psn → writeRun q p data.length = some w → writeAdmits s p = true → (∀ x, x ∈ dm → x.2 = .ok) →
          ∃ u, exec (.rdmaWrite h p data dm) s = .next u ∧ (∀ k (i : k < data.length), memByte u (w.next + k) = data[k]) ∧
            (∀ b, (b < w.next ∨ w.next + data.length ≤ b) → memByte u b = memByte s b) ∧
            u.out = s.out ++ (if w.left = 0 ∨ h.ackReq = true then [.rdmaAck q.hostQpn h.psn none] else []) ∧
            getQp u h.qp.val = { q with psn := q.psn + 1, run :=
              if w.left = 0 then none else some { w with next := w.next + data.length } } ∧
            (∀ k, k ≠ h.qp.val → lookup u.ports.qps k = lookup s.ports.qps k) ∧
            getCnt u 0x80110 = (getCnt s 0x80110).add 1 ∧
            u = { s with mem := u.mem, cnt := u.cnt, out := u.out, ports := u.ports, pwr := u.pwr }) ∧
        (h.psn = q.psn → writeRun q p data.length = none → naks (.rdmaWrite h p data dm) (some nakInvalid)) ∧
        (∀ w, h.psn = q.psn → writeRun q p data.length = some w → writeAdmits s p = false → refuses (.rdmaWrite h p data dm)) ∧
        (psnSeen q h.psn = true → naks (.rdmaWrite h p data dm) none) ∧
        (h.psn ≠ q.psn → psnSeen q h.psn = false → naks (.rdmaWrite h p data dm) (some nakSequence))) ∧
      (∀ (rkey : Word) (addr : DWord) (length : Word) (dm : Damage), h.ce = false →
        let a := addr.toNat
        let n := length.toNat
        let c : Instr := .rdmaRead h rkey addr length dm
        (h.psn = q.psn ∨ psnSeen q h.psn = true →
          (rdmaAdmits s rkey a n 2 = true → (∀ x, x ∈ dm → x.2 = .ok) →
            ∃ u ps, exec c s = .next u ∧ u.out = s.out ++ [.rdmaData q.hostQpn h.psn ps] ∧ ps.flatten = memRead s a n ∧
              (∀ x, x ∈ ps → x.length ≤ mtuBytes q) ∧ (∀ b, memByte u b = memByte s b) ∧
              (h.psn = q.psn → (getQp u h.qp.val).psn = q.psn + BitVec.ofNat 24 ps.length) ∧
              getCnt u 0x80118 = (getCnt s 0x80118).add 1 ∧
              u = { s with mem := u.mem, cnt := u.cnt, out := u.out, ports := u.ports, pwr := u.pwr }) ∧
          (rdmaAdmits s rkey a n 2 = true → soundSpan s a n dm = false →
            ∃ u, exec c s = .next u ∧ u.out.getLast? = some (.rdmaAck q.hostQpn h.psn (some nakOperational))) ∧
          (rdmaAdmits s rkey a n 2 = false → refuses c)) ∧
        (h.psn ≠ q.psn → psnSeen q h.psn = false → naks c (some nakSequence))))

/-- ARP_REQUEST, DISCARDED_FRAME, OPERATION_BETWEEN_CHIPS, FORWARD_TIMEOUT and the I3C sideband (R340, R397, R398, R402, R416, R419, R420,
R443): what is answered, counted, passed on toward its target, or refused when no answer comes; a private write is one register write.
(The model's choices here: HOST_DUP_CNT counts the repeats on the management port too, log 57; a repeat of an operation on its way does
nothing, log 58; a frame is performed by the row of its OP, log 59; ENTDAA sends the identifier's most significant byte first, and a short
read drops the rest, log 81; the chip that forwards an operation counts it, log 100; the frame number counts up by one, log 11, DESIGN
CHOICE; the I3C target does nothing once REFCLK is lost, log 67, DEDUCED.) -/
def Obligations.PortsAndSidebandAnswer : Prop :=
  ∀ s : State, s.keyed = true →
    (∀ p, portUp s p = true →
      let count := match p with
        | .host => 0x80128
        | .mgt => 0x90110
      let answers := fun (a : Asked) => exec (.arpRequest p a) s = .next { s with out := s.out ++ [.neighbour p a (portMac s p)] }
      let discards := fun (c : Instr) => ∃ u, exec c s = .next u ∧ getCnt u count = (getCnt s count).add 1 ∧ u = { s with cnt := u.cnt }
      (∀ ip, onRecovery s p = false →
        (ip = getReg s (if p = .host then 0x80010 else 0x90010) → answers (.v4 ip)) ∧
        (ip ≠ getReg s (if p = .host then 0x80010 else 0x90010) → discards (.arpRequest p (.v4 ip)))) ∧
      (∀ ip, onRecovery s p = true → discards (.arpRequest p (.v4 ip))) ∧
      (∀ ip, (ip = linkLocal (portMac s p) → answers (.v6 ip)) ∧
        (ip ≠ linkLocal (portMac s p) → discards (.arpRequest p (.v6 ip)))) ∧
      (∀ f, (matchesRow s p f = false → discards (.discardedFrame p f)) ∧
        (matchesRow s p f = true → exec (.discardedFrame p f) s = .next s))) ∧
    (∀ r k, r.sender = .mgt k → arrives s r = true → forOther s r = true →
      (dispatched s r = false → exec (.operationBetweenChips r) s = .next (discardFrame s false)) ∧
      (dispatched s r = true → onItsWay s r = true → exec (.operationBetweenChips r) s = .next s) ∧
      (dispatched s r = true → onItsWay s r = false →
        (∀ c, keptFor s r (reqOp r) = some c →
          exec (.operationBetweenChips r) s = .next (answer (bump s 0x80108 1) r c true)) ∧
        (keptFor s r (reqOp r) = none → (frameOk r = false ∨ reqSession r ≠ 0) →
          exec (.operationBetweenChips r) s = .next (complete s r (reqOp r) stBadFrame [])) ∧
        (keptFor s r (reqOp r) = none → frameOk r = true → reqSession r = 0 →
          (∀ n, routeTo s (reqTarget r) = some n →
            ∃ u, exec (.operationBetweenChips r) s = .next u ∧ u.out = s.out ∧
              u.ports.forwards = s.ports.forwards ++ [(s.ports.nextFrame, r)] ∧ u.ports.nextFrame = s.ports.nextFrame + 1 ∧
              (getLink u n).mgtQ = (getLink s n).mgtQ ++ fragments s.ports.nextFrame
                (slice r.frame 0 24 ++ leBytes 2 (stationNo s k).2.toNat ++ r.frame.drop 26) ∧
              (∀ m, m ≠ n → getLink u m = getLink s m) ∧ u = { s with links := u.links, ports := u.ports, cnt := u.cnt }) ∧
          (routeTo s (reqTarget r) = none →
            exec (.operationBetweenChips r) s = .next (complete (countOp s r.sender) r (reqOp r) stTargetUnreachable []))))) ∧
    (∀ frame f, s.ports.forwards.find? (fun f => f.1 == frame) = some f →
      exec (.forwardTimeout frame) s = .next (complete { s with ports := { s.ports with
        forwards := s.ports.forwards.filter (fun g => g.1 != frame) } } f.2 (reqOp f.2) stTargetUnreachable [])) ∧
    (i3cLive s = true →
      (∀ addr d, (writeAccess s .i3c addr d).1.porstN = true → (writeAccess s .i3c addr d).1.wrstN = true →
        ∃ u, exec (.i3cPrivateWrite addr d) s = .next u ∧ u.ports.i3cAnswer = some (leBytes 2 (writeAccess s .i3c addr d).2) ∧
          u = { (writeAccess s .i3c addr d).1 with ports := u.ports }) ∧
      (∀ addr, ∃ u, exec (.i3cPrivateReadRequest addr) s = .next u ∧
        u.ports.i3cAnswer = some (leBytes 2 (readAccess s .i3c addr).2.1 ++ leBytes 4 (readAccess s .i3c addr).2.2.toNat) ∧
        u = { (readAccess s .i3c addr).1 with ports := u.ports }) ∧
      (∃ u, exec .i3cOtherPrivateWrite s = .next u ∧ u.ports.i3cAnswer = some [5, 0] ∧ u = { s with ports := u.ports }) ∧
      (∀ n, ∃ u, exec (.i3cPrivateRead n) s = .next u ∧ u.ports.i3cAnswer = none ∧
        u.out = s.out ++ [.i3c (slice (s.ports.i3cAnswer.getD []) 0 n)] ∧ u = { s with ports := u.ports, out := u.out }) ∧
      (∀ addr, ∃ u, exec (.entdaa addr) s = .next u ∧ u.ports.i3cAddr = addr ∧ u.out = s.out ++ [.i3c (provisionalId s)] ∧
        u = { s with ports := u.ports, out := u.out })) ∧
    (i3cLive s = false → ∀ a d n x, exec (.i3cPrivateWrite a d) s = .next s ∧ exec (.i3cPrivateReadRequest a) s = .next s ∧
      exec (.i3cPrivateRead n) s = .next s ∧ exec (.entdaa x) s = .next s ∧ exec .i3cOtherPrivateWrite s = .next s)

/-- Frames byte by byte (R402, R406, R407, R409, R411, R412, R416): every field of a completion stands where the header's layout has it,
with its body behind it; the MGT flits of a frame come together into it; and the bodies of REG_READ, REG_WRITE, LOAD, SEED, PATCH and
COMMIT read as they are laid out. (That a completion returns the VERSION, SESSION and TAG of its command, and its TARGET, are the model's
choice, log 99.) -/
def Obligations.FramesReadAsLaidOut : Prop :=
  (∀ (r : Req) (k : Kept) (again : Bool), k.body.length < 2 ^ 16 → k.status < 2 ^ 16 →
    let f : Req := { r with frame := answerFrame r k again }
    reqMagic f = 0xD96C ∧ reqVersion f = reqVersion r ∧ reqOp f = k.op.toNat ∧ reqFlags f = (if again then 3 else 1) ∧
    num f.frame 6 2 = k.body.length ∧ reqSession f = reqSession r ∧ reqTag f = reqTag r ∧ num f.frame 16 2 = k.status ∧
    zeroAt f.frame 18 2 = true ∧ reqTarget f = answerTarget r ∧ reqStation f = stationOf r.sender ∧ zeroAt f.frame 26 6 = true ∧
    reqBody f = k.body) ∧
  (∀ (f : BitVec 16) (b : List Byte),
    (fragments f b).length = ceilDiv b.length 240 ∧ ((fragments f b).flatMap (fun x => x.drop 4)).take b.length = b ∧
    (∀ i x, (fragments f b)[i]? = some x → x.length = 244 ∧ num x 0 1 = ceilDiv b.length 240 % 256 ∧ num x 1 1 = i % 256 ∧
      num x 2 2 = f.toNat)) ∧
  (∀ (a : Word) (n : Nat), 1 ≤ n → n ≤ 256 → bodyRead (leBytes 4 a.toNat ++ leBytes 2 n) = some (a, n)) ∧
  (∀ ps : List (Word × Word), 1 ≤ ps.length → ps.length ≤ 256 →
    bodyWrite (leBytes 2 ps.length ++ [0, 0] ++ ps.flatMap (fun p => leBytes 4 p.1.toNat ++ leBytes 4 p.2.toNat)) = some ps) ∧
  (∀ (i : Fin 4) (a n : Nat), a < 2 ^ 64 → n < 2 ^ 64 → n ≠ 0 → n % 64 = 0 →
    bodyLoad (leBytes 1 i.val ++ List.replicate 7 0 ++ leBytes 8 a ++ leBytes 8 n) = some (i, a, n)) ∧
  (∀ (i : Byte) (v : DWord), bodySeed ([i] ++ List.replicate 7 0 ++ leBytes 8 v.toNat) = some (i, v)) ∧
  (∀ (i : Fin 4) (es : List PatchEntry), es.length < 2 ^ 16 → (∀ e, e ∈ es → e.index < 2 ^ 32) →
    bodyPatch (leBytes 1 i.val ++ [0] ++ leBytes 2 es.length ++ List.replicate 4 0 ++ es.flatMap (fun e =>
      leBytes 1 (if e.coord then 1 else 0) ++ List.replicate 3 0 ++ leBytes 4 e.index ++ leBytes 8 e.value.toNat)) = some (i, es)) ∧
  (∀ (b : CommitBody) (join : Bool), b.map.length ≤ 1024 → (join = false → b.j = 0 ∧ b.p = 0) →
    (b.schedule = true → 1 ≤ b.schedCount ∧ b.schedCount ≤ 2 ^ 20) → (b.schedule = false → b.schedCount = 0) →
    bodyCommit (leBytes 1 b.slot.val ++ leBytes 1 ((if join then 1 else 0) + (if b.schedule then 2 else 0)) ++
      leBytes 2 b.map.length ++ leBytes 4 b.start.toNat ++ leBytes 8 b.j.toNat ++ leBytes 8 b.p.toNat ++
      leBytes 8 b.schedAddr.toNat ++ leBytes 4 b.schedCount ++ List.replicate 4 0 ++
      b.map.flatMap (fun w => leBytes 4 w.toNat)) = some (join, b))

/-! ### Resets and start-up -/

/-- PORST_N_ASSERT, PORST_N_RELEASE, WRST_N_ASSERT, WRST_N_RELEASE, LPDDR5X_TRAINING_DONE, IMAGE_CHECK_DONE, BOOT_READY, PORT_LINK_UP and
PORT_LINK_DOWN (R290, R344, R396, R431, R432, R437 to R443, R461): what each reset clears and keeps; the flash mode that the flash's tables
give; the seeds and the key that the boot ROM takes from the first valid identity copy, the same for the same copy at every reset (R30), or
from new helper data, the two copies agreeing afterwards; the cause of step 5; the EPOCH record that begins the journal, in BOOT only; and
the state that start-up ends in. (The model's choices here: a start of the clocks after either reset counts one realignment, log 66; from
which moment on what the boot gives shows, log 71; that the samples of power begin at READY, log 36, DEDUCED.) -/
def Obligations.ResetsAndStartUp : Prop :=
  ∀ s : State,
    let clears := fun (u : State) => u.dev = .boot ∧ u.csr = [] ∧ u.cnt = [] ∧ u.tiles = [] ∧ u.hops = [] ∧ u.flights = [] ∧
      u.links = [] ∧ u.dists = [] ∧ u.slots = [] ∧ u.seeds = [] ∧ u.holding = [] ∧ u.mem.bytes = [] ∧ u.jrn.kept = false ∧
      u.jrn.records = [] ∧ u.sinceRecord = 0 ∧ u.sch = {} ∧ u.ports = {} ∧ u.pwr = {} ∧ u.pending = s.pending ∧ u.out = s.out ∧
      (s.boot.storeBusy = false → s.jrn.flashBusy = false → u.boot.flash = s.boot.flash ∧ u.boot.torn = s.boot.torn)
    (s.porstN = true →
      ∃ u, exec .porstAssert s = .next u ∧ clears u ∧ u.porstN = false ∧ u.wrstN = s.wrstN ∧ u.tme = {} ∧ u.clk = {} ∧
        u.mem.trained = 0) ∧
    (s.porstN = true → s.wrstN = true →
      ∃ u, exec .wrstAssert s = .next u ∧ clears u ∧ u.wrstN = false ∧ u.porstN = true ∧ u.tme.c = s.tme.c ∧ u.tme.o = s.tme.o ∧
        u.tme.rate = s.tme.rate ∧ u.tme.isSet = s.tme.isSet ∧ u.tme.wraps = s.tme.wraps ∧ u.clk.locks = s.clk.locks ∧
        u.mem.trained = s.mem.trained ∧ u.mem.installed = s.mem.installed) ∧
    (s.porstN = false → s.wrstN = true → exec .wrstAssert s = .next { s with wrstN := false }) ∧
    (∀ f : Sfdp,
      let w : State := { s with boot := { s.boot with flashMode := usableMode f, flashMiB := f.mib } }
      let helper := newHelper (Config.pufArray (s.fresh + 1))
      let la := copyBytes w false
      let lb := copyBytes w true
      let valid := fun (l : List Byte) => flashUsable w = true ∧ copyValid l = true
      let boots := fun (u : State) => u.boot.step = 4 ∧ u.boot.flashMode = usableMode f ∧ u.boot.flashMiB = f.mib ∧
        (f.readable = false ∨ f.mib.toNat < 64 ∨ f.erase64 = false ∨ f.addr4 = false → usableMode f = 0) ∧
        u.jrn.nonce = Config.entropy s.fresh ∧ u.boot.uid = uidOf u.boot.pk ∧ u.boot.pk = Config.publicKey u.boot.secret ∧
        (valid la → u.boot.secret = copySeeds la ∧ u.boot.enrolled = s.boot.enrolled) ∧
        (¬ valid la → valid lb → u.boot.secret = copySeeds lb ∧ u.boot.enrolled = s.boot.enrolled) ∧
        (valid la ∨ valid lb → la ≠ lb → u.boot.repaired = true) ∧
        (¬ valid la → ¬ valid lb → u.boot.secret = seedsOf helper ∧ u.boot.enrolled = true) ∧
        (flashUsable w = true → SMap.rising s.boot.flash = true → copyBytes u false = copyBytes u true ∧
          ∀ a, a < imageSlot w → flashByte u a = flashByte s a) ∧
        (flashUsable w = false → u.boot.flash = s.boot.flash ∧ u.boot.torn = s.boot.torn) ∧
        (s.keyed = true → ∀ q : Fin 4,
          getCnt u (0x30108 + 0x10 * q.val) = (getCnt s (0x30108 + 0x10 * q.val)).add 1) ∧
        u.porstN = true ∧ u.wrstN = true ∧ u.dev = s.dev ∧ u.mem = s.mem ∧ u.csr = s.csr
      (s.porstN = false → s.wrstN = false → exec (.porstRelease f) s = .next { s with porstN := true }) ∧
      (s.porstN = false → s.wrstN = true → s.boot.cold = true →
        ∃ u, exec (.porstRelease f) s = .next u ∧ boots u ∧ u.tme = {} ∧ u.clk.locks = BitVec.allOnes 19 ∧ u.clk.refOk = true) ∧
      (s.wrstN = false → s.porstN = false → exec (.wrstRelease f) s = .next { s with wrstN := true }) ∧
      (s.wrstN = false → s.porstN = true → s.boot.cold = true → ∃ u, exec (.wrstRelease f) s = .next u ∧ boots u ∧ u.tme = {}) ∧
      (s.wrstN = false → s.porstN = true → s.boot.cold = false →
        ∃ u, exec (.wrstRelease f) s = .next u ∧ boots u ∧ u.tme = s.tme ∧ u.clk = s.clk)) ∧
    (∀ (ok : Bool) (n : Fin 31), s.porstN = true → s.mem.trained = 0 → s.clk.locks.getLsbD 10 = true →
      (s.boot.step ≠ 5 ∨ s.dev ≠ .boot → exec (.lpddrTrainingDone ok n) s = .next { s with mem := { s.mem with
        trained := if ok then 1 else 2, installed := if ok then BitVec.ofNat 16 (64 + 32 * n.val) else 0 } }) ∧
      (s.boot.step = 5 → ok = false → s.dev = .boot →
        ∃ u, exec (.lpddrTrainingDone ok n) s = .next u ∧ u.dev = .fault ∧ u.faultCause = 3 ∧
          ((∀ h, h ∈ s.holding → h.owed = none) → u.jrn = s.jrn)) ∧
      (s.boot.step = 5 → ok = true → s.dev = .boot → s.boot.found = none → s.jrn.next = 0 → s.jrn.retain = 0 → s.jrn.held = [] →
        ∃ u r l, exec (.lpddrTrainingDone ok n) s = .next u ∧ u.boot.step = 6 ∧ u.jrn.kept = true ∧
          u.mem.installed = BitVec.ofNat 16 (64 + 32 * n.val) ∧
          u.jrn.records = s.jrn.records ++ r :: l ∧ r.type = 0x03 ∧ r.recno = 0 ∧ r.a0 = half s.jrn.nonce false ∧
          r.a1 = half s.jrn.nonce true ∧ l.length = 16 ∧ (∀ x, x ∈ l → x.type = 0x04))) ∧
    (booting s = true → s.boot.step = 4 →
      (s.boot.cut = false → bootCause s = stepFiveCause s (flashByte s)) ∧
      (s.mem.trained = 0 →
        ∃ u, exec .imageCheckDone s = .next u ∧ u.boot.step = 5 ∧ u.boot.cause = bootCause s ∧
          u.boot.found = (if bootCause s = 0 then some (imageInfo (flashByte s)) else none) ∧
          u = { s with boot := u.boot, fresh := s.fresh + 1 }) ∧
      (s.mem.trained = 1 → s.jrn.next = 0 → s.jrn.retain = 0 → s.jrn.held = [] → s.jrn.records = [] →
        ∃ u r, exec .imageCheckDone s = .next u ∧ u.boot.step = 6 ∧ u.boot.cause = bootCause s ∧ u.jrn.kept = true ∧
          u.jrn.records.head? = some r ∧ r.type = 0x03 ∧ r.recno = 0 ∧ u.dev = s.dev)) ∧
    (booting s = true → s.boot.step = 6 →
      (s.boot.found = none → exec .bootReady s = .next { s with dev := .recovery, boot := { s.boot with step := 7 } }) ∧
      (s.boot.found ≠ none →
        ∃ u, exec .bootReady s = .next u ∧ u.dev = .ready ∧ u.boot.step = 7 ∧ u.mem.stacksOk = 0xFFF ∧ u.readySeen = true ∧
          u.pwr = { s.pwr with hubFj := 0 } ∧ u.csr = s.csr ∧ u.jrn = s.jrn)) ∧
    (s.porstN = true → s.wrstN = true → s.clk.timeOk = true →
      (s.clk.locks.getLsbD 17 = true →
        (s.dev = .ready → exec (.portLinkUp .host) s = .next { s with ports := { s.ports with hostUp := true } }) ∧
        (s.dev ≠ .ready → exec (.portLinkUp .host) s = .next s)) ∧
      (s.clk.locks.getLsbD 18 = true →
        exec (.portLinkUp .mgt) s = .next { s with ports := { s.ports with
          mgtUp := true, fecOn := bit (mgtSetting s 0x00090004) 31 } })) ∧
    exec (.portLinkDown .host) s = .next { s with ports := { s.ports with hostUp := false } } ∧
    exec (.portLinkDown .mgt) s = .next { s with ports := { s.ports with mgtUp := false, fecOn := false } }

/-! ### Invariants and rules of the whole machine -/

/-- Every step keeps the keys of the keyed tables rising, so that reading back what was written holds in every state a run reaches, and
device memory and its mirror in canonical form. -/
def Obligations.EveryStepKeepsTheTablesInForm : Prop :=
  ∀ s u : State, step s = .next u →
    (s.keyed = true → u.keyed = true) ∧ (Memory.wf s.mem = true → Memory.wf u.mem = true)

/-- The chain of the journal (R55): every step keeps it, so that each record binds every record before it in its epoch; a record's chain
value is SHAKE256 of the one before it and the record's first 32 bytes, and stands in its last 32; before the first record it is 32
zero bytes. -/
def Obligations.EveryStepKeepsTheChain : Prop :=
  (∀ s u : State, s.jrn.chained = true → step s = .next u → u.jrn.chained = true) ∧
  (∀ (s : State) (d : Draft), s.jrn.kept = true → roomNow s = true →
    ∃ r, (append s d).jrn.records = s.jrn.records ++ [r] ∧ r.recno = s.jrn.next ∧ r.draft = d ∧
      r.chain = chainOf s.jrn.chain r.recno d ∧ (append s d).jrn.chain = r.chain) ∧
  (∀ (c : BitVec 256) (n : Nat) (d : Draft), leBytes 32 (chainOf c n d).toNat = shake256 (leBytes 32 c.toNat ++ recordHead n d) 32) ∧
  (∀ r : Record, (recordBytes r).length = 64 ∧ slice (recordBytes r) 0 32 = recordHead r.recno r.draft ∧
    slice (recordBytes r) 32 32 = leBytes 32 r.chain.toNat) ∧
  (∀ s : State, (porstReset s).jrn.chain = 0 ∧ (porstReset s).jrn.next = 0 ∧ (wrstReset s).jrn.chain = 0 ∧
    (wrstReset s).jrn.next = 0 ∧ leBytes 32 (0 : BitVec 256).toNat = List.replicate 32 0)

/-- Only a reset leaves FAULT (R31, R448, R461): a step from FAULT stays in FAULT, or a reset has begun, be it a pin's or the pulse that
BOOT_CTRL.REBOOT makes, after which the device is in BOOT with no journal, no tile and no itinerary. -/
def Obligations.OnlyAResetLeavesFault : Prop :=
  ∀ s u : State, s.dev = .fault → step s = .next u →
    u.dev = .fault ∨ (u.dev = .boot ∧ u.epoch = s.epoch + 1 ∧ u.jrn.kept = false ∧ u.tiles = [] ∧ u.slots = [] ∧
      u.sch.committed = none)

/-- The state after reset (R27, R67, R228, R264, R287, R339, R357, R376, R377, R395, R431, R459): the invariants hold in it, every register
stored by address reads its reset value, and the device is in BOOT with no journal and nothing waiting. (That it is power-on reset with
PORST_N low is log 2; the values of registers without a reset value are log 3.) -/
def Obligations.ResetStateHoldsItsValues : Prop :=
  let s := State.reset
  s.keyed = true ∧ Memory.wf s.mem = true ∧ s.jrn.chained = true ∧ s.pending = [] ∧ s.dev = .boot ∧ s.porstN = false ∧
  s.jrn.kept = false ∧ stateCode s = 0 ∧ (∀ a, getReg s a = resetOf a) ∧ (∀ a, getCnt s a = {}) ∧
  readReg s 0x00000000 = 0x59539600 ∧ readReg s 0x0000000C = 0x20111110 ∧ readReg s 0x00020000 = 0x0000C000 ∧
  readReg s 0x00020010 = 0xFFFFFFFF ∧ readReg s 0x00030008 = 0x00001E0C ∧ readReg s 0x00030010 = 0x08080008 ∧
  readReg s 0x00040008 = 2400 ∧ readReg s 0x0005001C = 1000 ∧ readReg s 0x00060000 = 0xC6100000 ∧ readReg s 0x00070004 = 0xE4 ∧
  readReg s 0x00080004 = 49600 ∧ readReg s 0x00090004 = 0x6000C1C1 ∧ readReg s 0x000A0000 = 0x0E004000 ∧
  readReg s 0x000A0038 = 10000 ∧ readReg s 0x000B0000 = 0xFFFFFFFF ∧ readReg s 0x00100000 = 0xC0000000 ∧
  readReg s 0x00100008 = 0xFFFFFFFF ∧ readReg s 0x0100F000 = 0x76543210 ∧ readReg s 0x0100F004 = 0x8
end

