-- ==== Sys2Proof/Laws/SMap.lean ====
section
/-! SUPPORT. The laws of keyed tables: a read after a write, and the forms that every write keeps. -/

namespace Sys2Proof.SMap

variable {α : Type} [DecidableEq α]

omit [DecidableEq α] in
theorem get_of_above (d : α) (m : List (Nat × α)) (a k : Nat) (h : above k m = true) (hk : a ≤ k) : get d m a = d := by
  induction m with
  | nil => rfl
  | cons p r ih =>
    simp only [above, List.all_cons, Bool.and_eq_true, decide_eq_true_eq] at h
    have : p.1 ≠ a := by omega
    simp only [get, this, if_false]
    exact ih (by simpa [above] using h.2)

/-- A write leaves every other key alone. -/
theorem get_set_ne (d : α) (m : List (Nat × α)) (a k : Nat) (v : α) (h : k ≠ a) : get d (set d m a v) k = get d m k := by
  induction m with
  | nil =>
    simp only [set]
    split
    · rfl
    · simp [get, h.symm]
  | cons p r ih =>
    obtain ⟨i, w⟩ := p
    simp only [set]
    split
    · split
      · rfl
      · simp [get, h.symm]
    · split
      · rename_i _ e
        subst e
        split <;> simp [get, h.symm]
      · simp only [get, ih]

/-- A read after a write of a value that is not the default, on any table. -/
theorem get_set_of_ne (d : α) (m : List (Nat × α)) (a : Nat) (v : α) (h : v ≠ d) : get d (set d m a v) a = v := by
  induction m with
  | nil => simp [set, get, h]
  | cons p r ih =>
    obtain ⟨i, w⟩ := p
    simp only [set]
    split
    · simp [get]
    · split
      · simp [get]
      · rename_i _ e
        simp [get, e, ih]

/-- A read after a write to the same key. -/
theorem get_set (d : α) (m : List (Nat × α)) (a : Nat) (v : α) (h : rising m = true) : get d (set d m a v) a = v := by
  induction m with
  | nil =>
    simp only [set]
    split
    · rename_i e; simp [get, e]
    · simp [get]
  | cons p r ih =>
    obtain ⟨i, w⟩ := p
    simp only [rising, Bool.and_eq_true] at h
    simp only [set]
    split
    · rename_i e
      split
      · rename_i ev
        have : i ≠ a := by omega
        simp only [get, this, if_false, ev]
        exact get_of_above d r a i h.1 (by omega)
      · simp [get]
    · split
      · rename_i _ e
        split
        · rename_i ev; rw [ev]; exact get_of_above d r a i h.1 (by omega)
        · simp [get]
      · rename_i _ e
        simp only [get, e, if_false]
        exact ih h.2

theorem above_set (d : α) (m : List (Nat × α)) (a k : Nat) (v : α) (h : above k m = true) (hk : k < a) :
    above k (set d m a v) = true := by
  induction m with
  | nil => simp only [set]; split <;> simp [above, hk]
  | cons p r ih =>
    obtain ⟨i, w⟩ := p
    simp only [above, List.all_cons, Bool.and_eq_true, decide_eq_true_eq] at h
    have hr : above k r = true := by simpa [above] using h.2
    have ih := ih hr
    simp only [above] at ih hr
    simp only [set]
    split
    · split <;> simp [above, h.1, hk] <;> simpa using hr
    · split
      · split <;> simp [above, hk] <;> simpa using hr
      · simp [above, h.1]; simpa using ih

omit [DecidableEq α] in
theorem above_mono (m : List (Nat × α)) (j k : Nat) (h : above k m = true) (hk : j ≤ k) : above j m = true := by
  simp only [above, List.all_eq_true, decide_eq_true_eq] at *
  intro p hp
  have := h p hp
  omega

/-- A write keeps the keys rising. -/
theorem rising_set (d : α) (m : List (Nat × α)) (a : Nat) (v : α) (h : rising m = true) : rising (set d m a v) = true := by
  induction m with
  | nil => simp only [set]; split <;> simp [rising, above]
  | cons p r ih =>
    obtain ⟨i, w⟩ := p
    have h0 := h
    simp only [rising, Bool.and_eq_true] at h
    simp only [set]
    split
    · rename_i e
      split
      · exact h0
      · have := above_mono r a i h.1 (by omega)
        simp only [above, List.all_eq_true, decide_eq_true_eq] at this
        simp only [rising, above, List.all_cons, Bool.and_eq_true, decide_eq_true_eq, List.all_eq_true]
        refine ⟨⟨e, fun q hq => this q hq⟩, ?_, h.2⟩
        simpa [above] using h.1
    · split
      · rename_i _ e
        subst e
        split
        · exact h.2
        · simp [rising, h.1, h.2]
      · rename_i e1 e2
        simp only [rising, Bool.and_eq_true]
        exact ⟨above_set d r a i v h.1 (by omega), ih h.2⟩

/-- A canonical table has rising keys. -/
theorem rising_of_wf (d : α) (m : List (Nat × α)) (h : wf d m = true) : rising m = true := by
  induction m with
  | nil => rfl
  | cons p r ih =>
    obtain ⟨i, w⟩ := p
    simp only [wf, Bool.and_eq_true] at h
    simp [rising, h.1.1, ih h.2]

/-- A write keeps the canonical form. -/
theorem wf_set (d : α) (m : List (Nat × α)) (a : Nat) (v : α) (h : wf d m = true) : wf d (set d m a v) = true := by
  induction m with
  | nil =>
    simp only [set]
    split
    · rfl
    · rename_i e; simp [wf, above, e]
  | cons p r ih =>
    obtain ⟨i, w⟩ := p
    have h0 := h
    simp only [wf, Bool.and_eq_true] at h
    simp only [set]
    split
    · rename_i e
      split
      · exact h0
      · rename_i ev
        have := above_mono r a i h.1.1 (by omega)
        simp only [wf, Bool.and_eq_true, ev, decide_false, Bool.not_false, and_true]
        refine ⟨?_, h⟩
        simp only [above, List.all_cons, Bool.and_eq_true, decide_eq_true_eq]
        exact ⟨e, by simpa [above] using this⟩
    · split
      · rename_i _ e
        subst e
        split
        · exact h.2
        · rename_i ev; simp [wf, h.1.1, ev, h.2]
      · rename_i e1 e2
        simp only [wf, Bool.and_eq_true]
        exact ⟨⟨above_set d r a i v h.1.1 (by omega), h.1.2⟩, ih h.2⟩

/-- A fold of writes keeps the canonical form. -/
theorem wf_foldl {β : Type} (d : α) (f : List (Nat × α) → β → List (Nat × α))
    (hf : ∀ m b, wf d m = true → wf d (f m b) = true) (l : List β) (m : List (Nat × α)) (h : wf d m = true) :
    wf d (l.foldl f m) = true := by
  induction l generalizing m with
  | nil => exact h
  | cons b r ih => exact ih _ (hf m b h)

omit [DecidableEq α] in
theorem above_filter (m : List (Nat × α)) (k : Nat) (f : Nat × α → Bool) (h : above k m = true) :
    above k (m.filter f) = true := by
  simp only [above, List.all_eq_true, decide_eq_true_eq] at *
  intro p hp
  exact h p (List.mem_filter.mp hp).1

omit [DecidableEq α] in
theorem rising_filter (m : List (Nat × α)) (f : Nat × α → Bool) (h : rising m = true) : rising (m.filter f) = true := by
  induction m with
  | nil => rfl
  | cons p r ih =>
    simp only [rising, Bool.and_eq_true] at h
    simp only [List.filter]
    split
    · simp [rising, above_filter r p.1 f h.1, ih h.2]
    · exact ih h.2

/-- Removing entries keeps the canonical form. -/
theorem wf_filter (d : α) (m : List (Nat × α)) (f : Nat × α → Bool) (h : wf d m = true) : wf d (m.filter f) = true := by
  induction m with
  | nil => rfl
  | cons p r ih =>
    obtain ⟨i, w⟩ := p
    simp only [wf, Bool.and_eq_true] at h
    simp only [List.filter]
    split
    · simp only [wf, Bool.and_eq_true]
      exact ⟨⟨above_filter r i f h.1.1, h.1.2⟩, ih h.2⟩
    · exact ih h.2

omit [DecidableEq α] in
theorem above_map {β : Type} (m : List (Nat × α)) (k : Nat) (f : Nat × α → Nat × β) (hf : ∀ p, (f p).1 = p.1)
    (h : above k m = true) : above k (m.map f) = true := by
  simp only [above, List.all_eq_true, decide_eq_true_eq] at *
  intro p hp
  obtain ⟨q, hq, e⟩ := List.mem_map.mp hp
  rw [← e, hf]
  exact h q hq

omit [DecidableEq α] in
/-- A map over the values keeps the keys rising. -/
theorem rising_map {β : Type} (m : List (Nat × α)) (f : Nat × α → Nat × β) (hf : ∀ p, (f p).1 = p.1)
    (h : rising m = true) : rising (m.map f) = true := by
  induction m with
  | nil => rfl
  | cons p r ih =>
    simp only [rising, Bool.and_eq_true] at h
    simp only [List.map, rising, Bool.and_eq_true, hf]
    exact ⟨above_map r p.1 f hf h.1, ih h.2⟩

/-! ### Tables that list every key written -/

omit [DecidableEq α] in
/-- A read after a put of the same key. -/
theorem get_put (d : α) (m : List (Nat × α)) (a : Nat) (v : α) : get d (put m a v) a = v := by
  induction m with
  | nil => simp [put, get]
  | cons p r ih =>
    simp only [put]
    split
    · simp [get]
    · split
      · simp [get]
      · rename_i _ e; simp [get, e, ih]

omit [DecidableEq α] in
/-- A put leaves every other key alone. -/
theorem get_put_ne (d : α) (m : List (Nat × α)) (a k : Nat) (v : α) (h : k ≠ a) : get d (put m a v) k = get d m k := by
  induction m with
  | nil => simp [put, get, h.symm]
  | cons p r ih =>
    simp only [put]
    split
    · simp [get, h.symm]
    · split
      · rename_i _ e; subst e; simp [get, h.symm]
      · simp only [get, ih]

omit [DecidableEq α] in
theorem above_put (m : List (Nat × α)) (a k : Nat) (v : α) (h : above k m = true) (hk : k < a) :
    above k (put m a v) = true := by
  induction m with
  | nil => simp [put, above, hk]
  | cons p r ih =>
    simp only [above, List.all_cons, Bool.and_eq_true, decide_eq_true_eq] at h
    have hr : above k r = true := h.2
    have ih := ih hr
    simp only [above] at ih hr
    simp only [put]
    split
    · simp only [above, List.all_cons, Bool.and_eq_true, decide_eq_true_eq]; exact ⟨hk, h.1, hr⟩
    · split
      · simp only [above, List.all_cons, Bool.and_eq_true, decide_eq_true_eq]; exact ⟨hk, hr⟩
      · simp only [above, List.all_cons, Bool.and_eq_true, decide_eq_true_eq]; exact ⟨h.1, ih⟩

omit [DecidableEq α] in
/-- A put keeps the keys rising. -/
theorem rising_put (m : List (Nat × α)) (a : Nat) (v : α) (h : rising m = true) : rising (put m a v) = true := by
  induction m with
  | nil => rfl
  | cons p r ih =>
    have h0 := h
    simp only [rising, Bool.and_eq_true] at h
    simp only [put]
    split
    · rename_i e
      simp only [rising, Bool.and_eq_true]
      refine ⟨?_, h⟩
      simp only [above, List.all_cons, Bool.and_eq_true, decide_eq_true_eq]
      exact ⟨e, by simpa [above] using above_mono r a p.1 h.1 (by omega)⟩
    · split
      · rename_i _ e
        subst e
        simp only [rising, Bool.and_eq_true]; exact h
      · rename_i e1 e2
        simp only [rising, Bool.and_eq_true]
        exact ⟨above_put r a p.1 v h.1 (by omega), ih h.2⟩

end Sys2Proof.SMap
end

