-- ==== Sys2Proof/Laws/State.lean ====
section
/-! SUPPORT. What each update of the state leaves alone, field by field; every lemma is true by rfl. -/

namespace Sys2Proof.Machine

@[simp] theorem setReg_pending (s : State) (a : Nat) (v : Word) : (setReg s a v).pending = s.pending := rfl
@[simp] theorem setReg_out (s : State) (a : Nat) (v : Word) : (setReg s a v).out = s.out := rfl
@[simp] theorem setReg_fresh (s : State) (a : Nat) (v : Word) : (setReg s a v).fresh = s.fresh := rfl
@[simp] theorem setReg_epoch (s : State) (a : Nat) (v : Word) : (setReg s a v).epoch = s.epoch := rfl
@[simp] theorem setReg_porstN (s : State) (a : Nat) (v : Word) : (setReg s a v).porstN = s.porstN := rfl
@[simp] theorem setReg_wrstN (s : State) (a : Nat) (v : Word) : (setReg s a v).wrstN = s.wrstN := rfl
@[simp] theorem setReg_throtN (s : State) (a : Nat) (v : Word) : (setReg s a v).throtN = s.throtN := rfl
@[simp] theorem setReg_dev (s : State) (a : Nat) (v : Word) : (setReg s a v).dev = s.dev := rfl
@[simp] theorem setReg_faultCause (s : State) (a : Nat) (v : Word) : (setReg s a v).faultCause = s.faultCause := rfl
@[simp] theorem setReg_readySeen (s : State) (a : Nat) (v : Word) : (setReg s a v).readySeen = s.readySeen := rfl
@[simp] theorem setReg_cnt (s : State) (a : Nat) (v : Word) : (setReg s a v).cnt = s.cnt := rfl
@[simp] theorem setReg_shadowCnt (s : State) (a : Nat) (v : Word) : (setReg s a v).shadowCnt = s.shadowCnt := rfl
@[simp] theorem setReg_holding (s : State) (a : Nat) (v : Word) : (setReg s a v).holding = s.holding := rfl
@[simp] theorem setReg_jrn (s : State) (a : Nat) (v : Word) : (setReg s a v).jrn = s.jrn := rfl
@[simp] theorem setReg_sinceRecord (s : State) (a : Nat) (v : Word) : (setReg s a v).sinceRecord = s.sinceRecord := rfl
@[simp] theorem setReg_sch (s : State) (a : Nat) (v : Word) : (setReg s a v).sch = s.sch := rfl
@[simp] theorem setReg_hops (s : State) (a : Nat) (v : Word) : (setReg s a v).hops = s.hops := rfl
@[simp] theorem setReg_flights (s : State) (a : Nat) (v : Word) : (setReg s a v).flights = s.flights := rfl
@[simp] theorem setReg_links (s : State) (a : Nat) (v : Word) : (setReg s a v).links = s.links := rfl
@[simp] theorem setReg_tiles (s : State) (a : Nat) (v : Word) : (setReg s a v).tiles = s.tiles := rfl
@[simp] theorem setReg_dists (s : State) (a : Nat) (v : Word) : (setReg s a v).dists = s.dists := rfl
@[simp] theorem setReg_code (s : State) (a : Nat) (v : Word) : (setReg s a v).code = s.code := rfl
@[simp] theorem setReg_mem (s : State) (a : Nat) (v : Word) : (setReg s a v).mem = s.mem := rfl
@[simp] theorem setReg_slots (s : State) (a : Nat) (v : Word) : (setReg s a v).slots = s.slots := rfl
@[simp] theorem setReg_seeds (s : State) (a : Nat) (v : Word) : (setReg s a v).seeds = s.seeds := rfl
@[simp] theorem setReg_dig (s : State) (a : Nat) (v : Word) : (setReg s a v).dig = s.dig := rfl
@[simp] theorem setReg_tme (s : State) (a : Nat) (v : Word) : (setReg s a v).tme = s.tme := rfl
@[simp] theorem setReg_clk (s : State) (a : Nat) (v : Word) : (setReg s a v).clk = s.clk := rfl
@[simp] theorem setReg_pwr (s : State) (a : Nat) (v : Word) : (setReg s a v).pwr = s.pwr := rfl
@[simp] theorem setReg_boot (s : State) (a : Nat) (v : Word) : (setReg s a v).boot = s.boot := rfl
@[simp] theorem setReg_ports (s : State) (a : Nat) (v : Word) : (setReg s a v).ports = s.ports := rfl

@[simp] theorem bump_pending (s : State) (a n : Nat) : (bump s a n).pending = s.pending := rfl
@[simp] theorem bump_out (s : State) (a n : Nat) : (bump s a n).out = s.out := rfl
@[simp] theorem bump_fresh (s : State) (a n : Nat) : (bump s a n).fresh = s.fresh := rfl
@[simp] theorem bump_epoch (s : State) (a n : Nat) : (bump s a n).epoch = s.epoch := rfl
@[simp] theorem bump_porstN (s : State) (a n : Nat) : (bump s a n).porstN = s.porstN := rfl
@[simp] theorem bump_wrstN (s : State) (a n : Nat) : (bump s a n).wrstN = s.wrstN := rfl
@[simp] theorem bump_throtN (s : State) (a n : Nat) : (bump s a n).throtN = s.throtN := rfl
@[simp] theorem bump_dev (s : State) (a n : Nat) : (bump s a n).dev = s.dev := rfl
@[simp] theorem bump_faultCause (s : State) (a n : Nat) : (bump s a n).faultCause = s.faultCause := rfl
@[simp] theorem bump_readySeen (s : State) (a n : Nat) : (bump s a n).readySeen = s.readySeen := rfl
@[simp] theorem bump_csr (s : State) (a n : Nat) : (bump s a n).csr = s.csr := rfl
@[simp] theorem bump_shadowCnt (s : State) (a n : Nat) : (bump s a n).shadowCnt = s.shadowCnt := rfl
@[simp] theorem bump_holding (s : State) (a n : Nat) : (bump s a n).holding = s.holding := rfl
@[simp] theorem bump_jrn (s : State) (a n : Nat) : (bump s a n).jrn = s.jrn := rfl
@[simp] theorem bump_sinceRecord (s : State) (a n : Nat) : (bump s a n).sinceRecord = s.sinceRecord := rfl
@[simp] theorem bump_sch (s : State) (a n : Nat) : (bump s a n).sch = s.sch := rfl
@[simp] theorem bump_hops (s : State) (a n : Nat) : (bump s a n).hops = s.hops := rfl
@[simp] theorem bump_flights (s : State) (a n : Nat) : (bump s a n).flights = s.flights := rfl
@[simp] theorem bump_links (s : State) (a n : Nat) : (bump s a n).links = s.links := rfl
@[simp] theorem bump_tiles (s : State) (a n : Nat) : (bump s a n).tiles = s.tiles := rfl
@[simp] theorem bump_dists (s : State) (a n : Nat) : (bump s a n).dists = s.dists := rfl
@[simp] theorem bump_code (s : State) (a n : Nat) : (bump s a n).code = s.code := rfl
@[simp] theorem bump_mem (s : State) (a n : Nat) : (bump s a n).mem = s.mem := rfl
@[simp] theorem bump_slots (s : State) (a n : Nat) : (bump s a n).slots = s.slots := rfl
@[simp] theorem bump_seeds (s : State) (a n : Nat) : (bump s a n).seeds = s.seeds := rfl
@[simp] theorem bump_dig (s : State) (a n : Nat) : (bump s a n).dig = s.dig := rfl
@[simp] theorem bump_tme (s : State) (a n : Nat) : (bump s a n).tme = s.tme := rfl
@[simp] theorem bump_clk (s : State) (a n : Nat) : (bump s a n).clk = s.clk := rfl
@[simp] theorem bump_pwr (s : State) (a n : Nat) : (bump s a n).pwr = s.pwr := rfl
@[simp] theorem bump_boot (s : State) (a n : Nat) : (bump s a n).boot = s.boot := rfl
@[simp] theorem bump_ports (s : State) (a n : Nat) : (bump s a n).ports = s.ports := rfl

@[simp] theorem setLink_pending (s : State) (n : Nat) (l : Link) : (setLink s n l).pending = s.pending := rfl
@[simp] theorem setLink_out (s : State) (n : Nat) (l : Link) : (setLink s n l).out = s.out := rfl
@[simp] theorem setLink_fresh (s : State) (n : Nat) (l : Link) : (setLink s n l).fresh = s.fresh := rfl
@[simp] theorem setLink_epoch (s : State) (n : Nat) (l : Link) : (setLink s n l).epoch = s.epoch := rfl
@[simp] theorem setLink_porstN (s : State) (n : Nat) (l : Link) : (setLink s n l).porstN = s.porstN := rfl
@[simp] theorem setLink_wrstN (s : State) (n : Nat) (l : Link) : (setLink s n l).wrstN = s.wrstN := rfl
@[simp] theorem setLink_throtN (s : State) (n : Nat) (l : Link) : (setLink s n l).throtN = s.throtN := rfl
@[simp] theorem setLink_dev (s : State) (n : Nat) (l : Link) : (setLink s n l).dev = s.dev := rfl
@[simp] theorem setLink_faultCause (s : State) (n : Nat) (l : Link) : (setLink s n l).faultCause = s.faultCause := rfl
@[simp] theorem setLink_readySeen (s : State) (n : Nat) (l : Link) : (setLink s n l).readySeen = s.readySeen := rfl
@[simp] theorem setLink_csr (s : State) (n : Nat) (l : Link) : (setLink s n l).csr = s.csr := rfl
@[simp] theorem setLink_cnt (s : State) (n : Nat) (l : Link) : (setLink s n l).cnt = s.cnt := rfl
@[simp] theorem setLink_shadowCnt (s : State) (n : Nat) (l : Link) : (setLink s n l).shadowCnt = s.shadowCnt := rfl
@[simp] theorem setLink_holding (s : State) (n : Nat) (l : Link) : (setLink s n l).holding = s.holding := rfl
@[simp] theorem setLink_jrn (s : State) (n : Nat) (l : Link) : (setLink s n l).jrn = s.jrn := rfl
@[simp] theorem setLink_sinceRecord (s : State) (n : Nat) (l : Link) : (setLink s n l).sinceRecord = s.sinceRecord := rfl
@[simp] theorem setLink_sch (s : State) (n : Nat) (l : Link) : (setLink s n l).sch = s.sch := rfl
@[simp] theorem setLink_hops (s : State) (n : Nat) (l : Link) : (setLink s n l).hops = s.hops := rfl
@[simp] theorem setLink_flights (s : State) (n : Nat) (l : Link) : (setLink s n l).flights = s.flights := rfl
@[simp] theorem setLink_tiles (s : State) (n : Nat) (l : Link) : (setLink s n l).tiles = s.tiles := rfl
@[simp] theorem setLink_dists (s : State) (n : Nat) (l : Link) : (setLink s n l).dists = s.dists := rfl
@[simp] theorem setLink_code (s : State) (n : Nat) (l : Link) : (setLink s n l).code = s.code := rfl
@[simp] theorem setLink_mem (s : State) (n : Nat) (l : Link) : (setLink s n l).mem = s.mem := rfl
@[simp] theorem setLink_slots (s : State) (n : Nat) (l : Link) : (setLink s n l).slots = s.slots := rfl
@[simp] theorem setLink_seeds (s : State) (n : Nat) (l : Link) : (setLink s n l).seeds = s.seeds := rfl
@[simp] theorem setLink_dig (s : State) (n : Nat) (l : Link) : (setLink s n l).dig = s.dig := rfl
@[simp] theorem setLink_tme (s : State) (n : Nat) (l : Link) : (setLink s n l).tme = s.tme := rfl
@[simp] theorem setLink_clk (s : State) (n : Nat) (l : Link) : (setLink s n l).clk = s.clk := rfl
@[simp] theorem setLink_pwr (s : State) (n : Nat) (l : Link) : (setLink s n l).pwr = s.pwr := rfl
@[simp] theorem setLink_boot (s : State) (n : Nat) (l : Link) : (setLink s n l).boot = s.boot := rfl
@[simp] theorem setLink_ports (s : State) (n : Nat) (l : Link) : (setLink s n l).ports = s.ports := rfl

@[simp] theorem setDist_pending (s : State) (d : Nat) (x : District) : (setDist s d x).pending = s.pending := rfl
@[simp] theorem setDist_out (s : State) (d : Nat) (x : District) : (setDist s d x).out = s.out := rfl
@[simp] theorem setDist_fresh (s : State) (d : Nat) (x : District) : (setDist s d x).fresh = s.fresh := rfl
@[simp] theorem setDist_epoch (s : State) (d : Nat) (x : District) : (setDist s d x).epoch = s.epoch := rfl
@[simp] theorem setDist_porstN (s : State) (d : Nat) (x : District) : (setDist s d x).porstN = s.porstN := rfl
@[simp] theorem setDist_wrstN (s : State) (d : Nat) (x : District) : (setDist s d x).wrstN = s.wrstN := rfl
@[simp] theorem setDist_throtN (s : State) (d : Nat) (x : District) : (setDist s d x).throtN = s.throtN := rfl
@[simp] theorem setDist_dev (s : State) (d : Nat) (x : District) : (setDist s d x).dev = s.dev := rfl
@[simp] theorem setDist_faultCause (s : State) (d : Nat) (x : District) : (setDist s d x).faultCause = s.faultCause := rfl
@[simp] theorem setDist_readySeen (s : State) (d : Nat) (x : District) : (setDist s d x).readySeen = s.readySeen := rfl
@[simp] theorem setDist_csr (s : State) (d : Nat) (x : District) : (setDist s d x).csr = s.csr := rfl
@[simp] theorem setDist_cnt (s : State) (d : Nat) (x : District) : (setDist s d x).cnt = s.cnt := rfl
@[simp] theorem setDist_shadowCnt (s : State) (d : Nat) (x : District) : (setDist s d x).shadowCnt = s.shadowCnt := rfl
@[simp] theorem setDist_holding (s : State) (d : Nat) (x : District) : (setDist s d x).holding = s.holding := rfl
@[simp] theorem setDist_jrn (s : State) (d : Nat) (x : District) : (setDist s d x).jrn = s.jrn := rfl
@[simp] theorem setDist_sinceRecord (s : State) (d : Nat) (x : District) : (setDist s d x).sinceRecord = s.sinceRecord := rfl
@[simp] theorem setDist_sch (s : State) (d : Nat) (x : District) : (setDist s d x).sch = s.sch := rfl
@[simp] theorem setDist_hops (s : State) (d : Nat) (x : District) : (setDist s d x).hops = s.hops := rfl
@[simp] theorem setDist_flights (s : State) (d : Nat) (x : District) : (setDist s d x).flights = s.flights := rfl
@[simp] theorem setDist_links (s : State) (d : Nat) (x : District) : (setDist s d x).links = s.links := rfl
@[simp] theorem setDist_tiles (s : State) (d : Nat) (x : District) : (setDist s d x).tiles = s.tiles := rfl
@[simp] theorem setDist_code (s : State) (d : Nat) (x : District) : (setDist s d x).code = s.code := rfl
@[simp] theorem setDist_mem (s : State) (d : Nat) (x : District) : (setDist s d x).mem = s.mem := rfl
@[simp] theorem setDist_slots (s : State) (d : Nat) (x : District) : (setDist s d x).slots = s.slots := rfl
@[simp] theorem setDist_seeds (s : State) (d : Nat) (x : District) : (setDist s d x).seeds = s.seeds := rfl
@[simp] theorem setDist_dig (s : State) (d : Nat) (x : District) : (setDist s d x).dig = s.dig := rfl
@[simp] theorem setDist_tme (s : State) (d : Nat) (x : District) : (setDist s d x).tme = s.tme := rfl
@[simp] theorem setDist_clk (s : State) (d : Nat) (x : District) : (setDist s d x).clk = s.clk := rfl
@[simp] theorem setDist_pwr (s : State) (d : Nat) (x : District) : (setDist s d x).pwr = s.pwr := rfl
@[simp] theorem setDist_boot (s : State) (d : Nat) (x : District) : (setDist s d x).boot = s.boot := rfl
@[simp] theorem setDist_ports (s : State) (d : Nat) (x : District) : (setDist s d x).ports = s.ports := rfl

@[simp] theorem setTile_pending (s : State) (r : TileRef) (x : Tile) : (setTile s r x).pending = s.pending := rfl
@[simp] theorem setTile_out (s : State) (r : TileRef) (x : Tile) : (setTile s r x).out = s.out := rfl
@[simp] theorem setTile_fresh (s : State) (r : TileRef) (x : Tile) : (setTile s r x).fresh = s.fresh := rfl
@[simp] theorem setTile_epoch (s : State) (r : TileRef) (x : Tile) : (setTile s r x).epoch = s.epoch := rfl
@[simp] theorem setTile_porstN (s : State) (r : TileRef) (x : Tile) : (setTile s r x).porstN = s.porstN := rfl
@[simp] theorem setTile_wrstN (s : State) (r : TileRef) (x : Tile) : (setTile s r x).wrstN = s.wrstN := rfl
@[simp] theorem setTile_throtN (s : State) (r : TileRef) (x : Tile) : (setTile s r x).throtN = s.throtN := rfl
@[simp] theorem setTile_dev (s : State) (r : TileRef) (x : Tile) : (setTile s r x).dev = s.dev := rfl
@[simp] theorem setTile_faultCause (s : State) (r : TileRef) (x : Tile) : (setTile s r x).faultCause = s.faultCause := rfl
@[simp] theorem setTile_readySeen (s : State) (r : TileRef) (x : Tile) : (setTile s r x).readySeen = s.readySeen := rfl
@[simp] theorem setTile_csr (s : State) (r : TileRef) (x : Tile) : (setTile s r x).csr = s.csr := rfl
@[simp] theorem setTile_cnt (s : State) (r : TileRef) (x : Tile) : (setTile s r x).cnt = s.cnt := rfl
@[simp] theorem setTile_shadowCnt (s : State) (r : TileRef) (x : Tile) : (setTile s r x).shadowCnt = s.shadowCnt := rfl
@[simp] theorem setTile_holding (s : State) (r : TileRef) (x : Tile) : (setTile s r x).holding = s.holding := rfl
@[simp] theorem setTile_jrn (s : State) (r : TileRef) (x : Tile) : (setTile s r x).jrn = s.jrn := rfl
@[simp] theorem setTile_sinceRecord (s : State) (r : TileRef) (x : Tile) : (setTile s r x).sinceRecord = s.sinceRecord := rfl
@[simp] theorem setTile_sch (s : State) (r : TileRef) (x : Tile) : (setTile s r x).sch = s.sch := rfl
@[simp] theorem setTile_hops (s : State) (r : TileRef) (x : Tile) : (setTile s r x).hops = s.hops := rfl
@[simp] theorem setTile_flights (s : State) (r : TileRef) (x : Tile) : (setTile s r x).flights = s.flights := rfl
@[simp] theorem setTile_links (s : State) (r : TileRef) (x : Tile) : (setTile s r x).links = s.links := rfl
@[simp] theorem setTile_dists (s : State) (r : TileRef) (x : Tile) : (setTile s r x).dists = s.dists := rfl
@[simp] theorem setTile_code (s : State) (r : TileRef) (x : Tile) : (setTile s r x).code = s.code := rfl
@[simp] theorem setTile_mem (s : State) (r : TileRef) (x : Tile) : (setTile s r x).mem = s.mem := rfl
@[simp] theorem setTile_slots (s : State) (r : TileRef) (x : Tile) : (setTile s r x).slots = s.slots := rfl
@[simp] theorem setTile_seeds (s : State) (r : TileRef) (x : Tile) : (setTile s r x).seeds = s.seeds := rfl
@[simp] theorem setTile_dig (s : State) (r : TileRef) (x : Tile) : (setTile s r x).dig = s.dig := rfl
@[simp] theorem setTile_tme (s : State) (r : TileRef) (x : Tile) : (setTile s r x).tme = s.tme := rfl
@[simp] theorem setTile_clk (s : State) (r : TileRef) (x : Tile) : (setTile s r x).clk = s.clk := rfl
@[simp] theorem setTile_pwr (s : State) (r : TileRef) (x : Tile) : (setTile s r x).pwr = s.pwr := rfl
@[simp] theorem setTile_boot (s : State) (r : TileRef) (x : Tile) : (setTile s r x).boot = s.boot := rfl
@[simp] theorem setTile_ports (s : State) (r : TileRef) (x : Tile) : (setTile s r x).ports = s.ports := rfl

@[simp] theorem setHop_pending (s : State) (h : HopId) (x : Hop) : (setHop s h x).pending = s.pending := rfl
@[simp] theorem setHop_out (s : State) (h : HopId) (x : Hop) : (setHop s h x).out = s.out := rfl
@[simp] theorem setHop_fresh (s : State) (h : HopId) (x : Hop) : (setHop s h x).fresh = s.fresh := rfl
@[simp] theorem setHop_epoch (s : State) (h : HopId) (x : Hop) : (setHop s h x).epoch = s.epoch := rfl
@[simp] theorem setHop_porstN (s : State) (h : HopId) (x : Hop) : (setHop s h x).porstN = s.porstN := rfl
@[simp] theorem setHop_wrstN (s : State) (h : HopId) (x : Hop) : (setHop s h x).wrstN = s.wrstN := rfl
@[simp] theorem setHop_throtN (s : State) (h : HopId) (x : Hop) : (setHop s h x).throtN = s.throtN := rfl
@[simp] theorem setHop_dev (s : State) (h : HopId) (x : Hop) : (setHop s h x).dev = s.dev := rfl
@[simp] theorem setHop_faultCause (s : State) (h : HopId) (x : Hop) : (setHop s h x).faultCause = s.faultCause := rfl
@[simp] theorem setHop_readySeen (s : State) (h : HopId) (x : Hop) : (setHop s h x).readySeen = s.readySeen := rfl
@[simp] theorem setHop_csr (s : State) (h : HopId) (x : Hop) : (setHop s h x).csr = s.csr := rfl
@[simp] theorem setHop_cnt (s : State) (h : HopId) (x : Hop) : (setHop s h x).cnt = s.cnt := rfl
@[simp] theorem setHop_shadowCnt (s : State) (h : HopId) (x : Hop) : (setHop s h x).shadowCnt = s.shadowCnt := rfl
@[simp] theorem setHop_holding (s : State) (h : HopId) (x : Hop) : (setHop s h x).holding = s.holding := rfl
@[simp] theorem setHop_jrn (s : State) (h : HopId) (x : Hop) : (setHop s h x).jrn = s.jrn := rfl
@[simp] theorem setHop_sinceRecord (s : State) (h : HopId) (x : Hop) : (setHop s h x).sinceRecord = s.sinceRecord := rfl
@[simp] theorem setHop_sch (s : State) (h : HopId) (x : Hop) : (setHop s h x).sch = s.sch := rfl
@[simp] theorem setHop_flights (s : State) (h : HopId) (x : Hop) : (setHop s h x).flights = s.flights := rfl
@[simp] theorem setHop_links (s : State) (h : HopId) (x : Hop) : (setHop s h x).links = s.links := rfl
@[simp] theorem setHop_tiles (s : State) (h : HopId) (x : Hop) : (setHop s h x).tiles = s.tiles := rfl
@[simp] theorem setHop_dists (s : State) (h : HopId) (x : Hop) : (setHop s h x).dists = s.dists := rfl
@[simp] theorem setHop_code (s : State) (h : HopId) (x : Hop) : (setHop s h x).code = s.code := rfl
@[simp] theorem setHop_mem (s : State) (h : HopId) (x : Hop) : (setHop s h x).mem = s.mem := rfl
@[simp] theorem setHop_slots (s : State) (h : HopId) (x : Hop) : (setHop s h x).slots = s.slots := rfl
@[simp] theorem setHop_seeds (s : State) (h : HopId) (x : Hop) : (setHop s h x).seeds = s.seeds := rfl
@[simp] theorem setHop_dig (s : State) (h : HopId) (x : Hop) : (setHop s h x).dig = s.dig := rfl
@[simp] theorem setHop_tme (s : State) (h : HopId) (x : Hop) : (setHop s h x).tme = s.tme := rfl
@[simp] theorem setHop_clk (s : State) (h : HopId) (x : Hop) : (setHop s h x).clk = s.clk := rfl
@[simp] theorem setHop_pwr (s : State) (h : HopId) (x : Hop) : (setHop s h x).pwr = s.pwr := rfl
@[simp] theorem setHop_boot (s : State) (h : HopId) (x : Hop) : (setHop s h x).boot = s.boot := rfl
@[simp] theorem setHop_ports (s : State) (h : HopId) (x : Hop) : (setHop s h x).ports = s.ports := rfl

@[simp] theorem emit_pending (s : State) (o : Out) : (emit s o).pending = s.pending := rfl
@[simp] theorem emit_fresh (s : State) (o : Out) : (emit s o).fresh = s.fresh := rfl
@[simp] theorem emit_epoch (s : State) (o : Out) : (emit s o).epoch = s.epoch := rfl
@[simp] theorem emit_porstN (s : State) (o : Out) : (emit s o).porstN = s.porstN := rfl
@[simp] theorem emit_wrstN (s : State) (o : Out) : (emit s o).wrstN = s.wrstN := rfl
@[simp] theorem emit_throtN (s : State) (o : Out) : (emit s o).throtN = s.throtN := rfl
@[simp] theorem emit_dev (s : State) (o : Out) : (emit s o).dev = s.dev := rfl
@[simp] theorem emit_faultCause (s : State) (o : Out) : (emit s o).faultCause = s.faultCause := rfl
@[simp] theorem emit_readySeen (s : State) (o : Out) : (emit s o).readySeen = s.readySeen := rfl
@[simp] theorem emit_csr (s : State) (o : Out) : (emit s o).csr = s.csr := rfl
@[simp] theorem emit_cnt (s : State) (o : Out) : (emit s o).cnt = s.cnt := rfl
@[simp] theorem emit_shadowCnt (s : State) (o : Out) : (emit s o).shadowCnt = s.shadowCnt := rfl
@[simp] theorem emit_holding (s : State) (o : Out) : (emit s o).holding = s.holding := rfl
@[simp] theorem emit_jrn (s : State) (o : Out) : (emit s o).jrn = s.jrn := rfl
@[simp] theorem emit_sinceRecord (s : State) (o : Out) : (emit s o).sinceRecord = s.sinceRecord := rfl
@[simp] theorem emit_sch (s : State) (o : Out) : (emit s o).sch = s.sch := rfl
@[simp] theorem emit_hops (s : State) (o : Out) : (emit s o).hops = s.hops := rfl
@[simp] theorem emit_flights (s : State) (o : Out) : (emit s o).flights = s.flights := rfl
@[simp] theorem emit_links (s : State) (o : Out) : (emit s o).links = s.links := rfl
@[simp] theorem emit_tiles (s : State) (o : Out) : (emit s o).tiles = s.tiles := rfl
@[simp] theorem emit_dists (s : State) (o : Out) : (emit s o).dists = s.dists := rfl
@[simp] theorem emit_code (s : State) (o : Out) : (emit s o).code = s.code := rfl
@[simp] theorem emit_mem (s : State) (o : Out) : (emit s o).mem = s.mem := rfl
@[simp] theorem emit_slots (s : State) (o : Out) : (emit s o).slots = s.slots := rfl
@[simp] theorem emit_seeds (s : State) (o : Out) : (emit s o).seeds = s.seeds := rfl
@[simp] theorem emit_dig (s : State) (o : Out) : (emit s o).dig = s.dig := rfl
@[simp] theorem emit_tme (s : State) (o : Out) : (emit s o).tme = s.tme := rfl
@[simp] theorem emit_clk (s : State) (o : Out) : (emit s o).clk = s.clk := rfl
@[simp] theorem emit_pwr (s : State) (o : Out) : (emit s o).pwr = s.pwr := rfl
@[simp] theorem emit_boot (s : State) (o : Out) : (emit s o).boot = s.boot := rfl
@[simp] theorem emit_ports (s : State) (o : Out) : (emit s o).ports = s.ports := rfl

@[simp] theorem takeFresh_pending (s : State) : (takeFresh s).pending = s.pending := rfl
@[simp] theorem takeFresh_out (s : State) : (takeFresh s).out = s.out := rfl
@[simp] theorem takeFresh_epoch (s : State) : (takeFresh s).epoch = s.epoch := rfl
@[simp] theorem takeFresh_porstN (s : State) : (takeFresh s).porstN = s.porstN := rfl
@[simp] theorem takeFresh_wrstN (s : State) : (takeFresh s).wrstN = s.wrstN := rfl
@[simp] theorem takeFresh_throtN (s : State) : (takeFresh s).throtN = s.throtN := rfl
@[simp] theorem takeFresh_dev (s : State) : (takeFresh s).dev = s.dev := rfl
@[simp] theorem takeFresh_faultCause (s : State) : (takeFresh s).faultCause = s.faultCause := rfl
@[simp] theorem takeFresh_readySeen (s : State) : (takeFresh s).readySeen = s.readySeen := rfl
@[simp] theorem takeFresh_csr (s : State) : (takeFresh s).csr = s.csr := rfl
@[simp] theorem takeFresh_cnt (s : State) : (takeFresh s).cnt = s.cnt := rfl
@[simp] theorem takeFresh_shadowCnt (s : State) : (takeFresh s).shadowCnt = s.shadowCnt := rfl
@[simp] theorem takeFresh_holding (s : State) : (takeFresh s).holding = s.holding := rfl
@[simp] theorem takeFresh_jrn (s : State) : (takeFresh s).jrn = s.jrn := rfl
@[simp] theorem takeFresh_sinceRecord (s : State) : (takeFresh s).sinceRecord = s.sinceRecord := rfl
@[simp] theorem takeFresh_sch (s : State) : (takeFresh s).sch = s.sch := rfl
@[simp] theorem takeFresh_hops (s : State) : (takeFresh s).hops = s.hops := rfl
@[simp] theorem takeFresh_flights (s : State) : (takeFresh s).flights = s.flights := rfl
@[simp] theorem takeFresh_links (s : State) : (takeFresh s).links = s.links := rfl
@[simp] theorem takeFresh_tiles (s : State) : (takeFresh s).tiles = s.tiles := rfl
@[simp] theorem takeFresh_dists (s : State) : (takeFresh s).dists = s.dists := rfl
@[simp] theorem takeFresh_code (s : State) : (takeFresh s).code = s.code := rfl
@[simp] theorem takeFresh_mem (s : State) : (takeFresh s).mem = s.mem := rfl
@[simp] theorem takeFresh_slots (s : State) : (takeFresh s).slots = s.slots := rfl
@[simp] theorem takeFresh_seeds (s : State) : (takeFresh s).seeds = s.seeds := rfl
@[simp] theorem takeFresh_dig (s : State) : (takeFresh s).dig = s.dig := rfl
@[simp] theorem takeFresh_tme (s : State) : (takeFresh s).tme = s.tme := rfl
@[simp] theorem takeFresh_clk (s : State) : (takeFresh s).clk = s.clk := rfl
@[simp] theorem takeFresh_pwr (s : State) : (takeFresh s).pwr = s.pwr := rfl
@[simp] theorem takeFresh_boot (s : State) : (takeFresh s).boot = s.boot := rfl
@[simp] theorem takeFresh_ports (s : State) : (takeFresh s).ports = s.ports := rfl

@[simp] theorem putCause_pending (s : State) (b : Nat) (v : Bool) : (putCause s b v).pending = s.pending := rfl
@[simp] theorem putCause_out (s : State) (b : Nat) (v : Bool) : (putCause s b v).out = s.out := rfl
@[simp] theorem putCause_fresh (s : State) (b : Nat) (v : Bool) : (putCause s b v).fresh = s.fresh := rfl
@[simp] theorem putCause_epoch (s : State) (b : Nat) (v : Bool) : (putCause s b v).epoch = s.epoch := rfl
@[simp] theorem putCause_porstN (s : State) (b : Nat) (v : Bool) : (putCause s b v).porstN = s.porstN := rfl
@[simp] theorem putCause_wrstN (s : State) (b : Nat) (v : Bool) : (putCause s b v).wrstN = s.wrstN := rfl
@[simp] theorem putCause_throtN (s : State) (b : Nat) (v : Bool) : (putCause s b v).throtN = s.throtN := rfl
@[simp] theorem putCause_dev (s : State) (b : Nat) (v : Bool) : (putCause s b v).dev = s.dev := rfl
@[simp] theorem putCause_faultCause (s : State) (b : Nat) (v : Bool) : (putCause s b v).faultCause = s.faultCause := rfl
@[simp] theorem putCause_readySeen (s : State) (b : Nat) (v : Bool) : (putCause s b v).readySeen = s.readySeen := rfl
@[simp] theorem putCause_csr (s : State) (b : Nat) (v : Bool) : (putCause s b v).csr = s.csr := rfl
@[simp] theorem putCause_cnt (s : State) (b : Nat) (v : Bool) : (putCause s b v).cnt = s.cnt := rfl
@[simp] theorem putCause_shadowCnt (s : State) (b : Nat) (v : Bool) : (putCause s b v).shadowCnt = s.shadowCnt := rfl
@[simp] theorem putCause_holding (s : State) (b : Nat) (v : Bool) : (putCause s b v).holding = s.holding := rfl
@[simp] theorem putCause_jrn (s : State) (b : Nat) (v : Bool) : (putCause s b v).jrn = s.jrn := rfl
@[simp] theorem putCause_sinceRecord (s : State) (b : Nat) (v : Bool) : (putCause s b v).sinceRecord = s.sinceRecord := rfl
@[simp] theorem putCause_hops (s : State) (b : Nat) (v : Bool) : (putCause s b v).hops = s.hops := rfl
@[simp] theorem putCause_flights (s : State) (b : Nat) (v : Bool) : (putCause s b v).flights = s.flights := rfl
@[simp] theorem putCause_links (s : State) (b : Nat) (v : Bool) : (putCause s b v).links = s.links := rfl
@[simp] theorem putCause_tiles (s : State) (b : Nat) (v : Bool) : (putCause s b v).tiles = s.tiles := rfl
@[simp] theorem putCause_dists (s : State) (b : Nat) (v : Bool) : (putCause s b v).dists = s.dists := rfl
@[simp] theorem putCause_code (s : State) (b : Nat) (v : Bool) : (putCause s b v).code = s.code := rfl
@[simp] theorem putCause_mem (s : State) (b : Nat) (v : Bool) : (putCause s b v).mem = s.mem := rfl
@[simp] theorem putCause_slots (s : State) (b : Nat) (v : Bool) : (putCause s b v).slots = s.slots := rfl
@[simp] theorem putCause_seeds (s : State) (b : Nat) (v : Bool) : (putCause s b v).seeds = s.seeds := rfl
@[simp] theorem putCause_dig (s : State) (b : Nat) (v : Bool) : (putCause s b v).dig = s.dig := rfl
@[simp] theorem putCause_tme (s : State) (b : Nat) (v : Bool) : (putCause s b v).tme = s.tme := rfl
@[simp] theorem putCause_clk (s : State) (b : Nat) (v : Bool) : (putCause s b v).clk = s.clk := rfl
@[simp] theorem putCause_pwr (s : State) (b : Nat) (v : Bool) : (putCause s b v).pwr = s.pwr := rfl
@[simp] theorem putCause_boot (s : State) (b : Nat) (v : Bool) : (putCause s b v).boot = s.boot := rfl
@[simp] theorem putCause_ports (s : State) (b : Nat) (v : Bool) : (putCause s b v).ports = s.ports := rfl

@[simp] theorem putGroup_pending (s : State) (r : TileRef) (g : Nat) (y : Group) : (putGroup s r g y).pending = s.pending := rfl
@[simp] theorem putGroup_out (s : State) (r : TileRef) (g : Nat) (y : Group) : (putGroup s r g y).out = s.out := rfl
@[simp] theorem putGroup_fresh (s : State) (r : TileRef) (g : Nat) (y : Group) : (putGroup s r g y).fresh = s.fresh := rfl
@[simp] theorem putGroup_epoch (s : State) (r : TileRef) (g : Nat) (y : Group) : (putGroup s r g y).epoch = s.epoch := rfl
@[simp] theorem putGroup_porstN (s : State) (r : TileRef) (g : Nat) (y : Group) : (putGroup s r g y).porstN = s.porstN := rfl
@[simp] theorem putGroup_wrstN (s : State) (r : TileRef) (g : Nat) (y : Group) : (putGroup s r g y).wrstN = s.wrstN := rfl
@[simp] theorem putGroup_throtN (s : State) (r : TileRef) (g : Nat) (y : Group) : (putGroup s r g y).throtN = s.throtN := rfl
@[simp] theorem putGroup_dev (s : State) (r : TileRef) (g : Nat) (y : Group) : (putGroup s r g y).dev = s.dev := rfl
@[simp] theorem putGroup_faultCause (s : State) (r : TileRef) (g : Nat) (y : Group) : (putGroup s r g y).faultCause = s.faultCause := rfl
@[simp] theorem putGroup_readySeen (s : State) (r : TileRef) (g : Nat) (y : Group) : (putGroup s r g y).readySeen = s.readySeen := rfl
@[simp] theorem putGroup_csr (s : State) (r : TileRef) (g : Nat) (y : Group) : (putGroup s r g y).csr = s.csr := rfl
@[simp] theorem putGroup_cnt (s : State) (r : TileRef) (g : Nat) (y : Group) : (putGroup s r g y).cnt = s.cnt := rfl
@[simp] theorem putGroup_shadowCnt (s : State) (r : TileRef) (g : Nat) (y : Group) : (putGroup s r g y).shadowCnt = s.shadowCnt := rfl
@[simp] theorem putGroup_holding (s : State) (r : TileRef) (g : Nat) (y : Group) : (putGroup s r g y).holding = s.holding := rfl
@[simp] theorem putGroup_jrn (s : State) (r : TileRef) (g : Nat) (y : Group) : (putGroup s r g y).jrn = s.jrn := rfl
@[simp] theorem putGroup_sinceRecord (s : State) (r : TileRef) (g : Nat) (y : Group) : (putGroup s r g y).sinceRecord = s.sinceRecord := rfl
@[simp] theorem putGroup_sch (s : State) (r : TileRef) (g : Nat) (y : Group) : (putGroup s r g y).sch = s.sch := rfl
@[simp] theorem putGroup_hops (s : State) (r : TileRef) (g : Nat) (y : Group) : (putGroup s r g y).hops = s.hops := rfl
@[simp] theorem putGroup_flights (s : State) (r : TileRef) (g : Nat) (y : Group) : (putGroup s r g y).flights = s.flights := rfl
@[simp] theorem putGroup_links (s : State) (r : TileRef) (g : Nat) (y : Group) : (putGroup s r g y).links = s.links := rfl
@[simp] theorem putGroup_dists (s : State) (r : TileRef) (g : Nat) (y : Group) : (putGroup s r g y).dists = s.dists := rfl
@[simp] theorem putGroup_code (s : State) (r : TileRef) (g : Nat) (y : Group) : (putGroup s r g y).code = s.code := rfl
@[simp] theorem putGroup_mem (s : State) (r : TileRef) (g : Nat) (y : Group) : (putGroup s r g y).mem = s.mem := rfl
@[simp] theorem putGroup_slots (s : State) (r : TileRef) (g : Nat) (y : Group) : (putGroup s r g y).slots = s.slots := rfl
@[simp] theorem putGroup_seeds (s : State) (r : TileRef) (g : Nat) (y : Group) : (putGroup s r g y).seeds = s.seeds := rfl
@[simp] theorem putGroup_dig (s : State) (r : TileRef) (g : Nat) (y : Group) : (putGroup s r g y).dig = s.dig := rfl
@[simp] theorem putGroup_tme (s : State) (r : TileRef) (g : Nat) (y : Group) : (putGroup s r g y).tme = s.tme := rfl
@[simp] theorem putGroup_clk (s : State) (r : TileRef) (g : Nat) (y : Group) : (putGroup s r g y).clk = s.clk := rfl
@[simp] theorem putGroup_pwr (s : State) (r : TileRef) (g : Nat) (y : Group) : (putGroup s r g y).pwr = s.pwr := rfl
@[simp] theorem putGroup_boot (s : State) (r : TileRef) (g : Nat) (y : Group) : (putGroup s r g y).boot = s.boot := rfl
@[simp] theorem putGroup_ports (s : State) (r : TileRef) (g : Nat) (y : Group) : (putGroup s r g y).ports = s.ports := rfl

end Sys2Proof.Machine
end

