-- ==== Sys2Proof/Laws/Memory.lean ====
section
/-! SUPPORT. Every operation over device memory keeps its canonical form, and the memory after reset has it; a byte that is written
reads back, and every other byte is as before. -/

namespace Sys2Proof.SMap

theorem all_set {α : Type} [DecidableEq α] (d : α) (f : Nat × α → Bool) (m : List (Nat × α)) (a : Nat) (v : α)
    (h : m.all f = true) (hv : v ≠ d → f (a, v) = true) : (set d m a v).all f = true := by
  induction m with
  | nil =>
    simp only [set]
    split
    · rfl
    · rename_i n; simp [hv n]
  | cons p r ih =>
    obtain ⟨k, w⟩ := p
    simp only [List.all_cons, Bool.and_eq_true] at h
    simp only [set]
    split
    · split
      · simp [h.1, h.2]
      · rename_i n; simp [h.1, h.2, hv n]
    · split
      · split
        · exact h.2
        · rename_i n; simp [h.2, hv n]
      · simp [h.1, ih h.2]

end Sys2Proof.SMap

namespace Sys2Proof.Machine

open Sys2Proof.SMap

/-- The canonical form by its three parts. -/
theorem memory_wf_iff (m : DevMem) : Memory.wf m = true ↔
    SMap.wf none m.bytes = true ∧ SMap.wf none m.mirror = true ∧
    m.bytes.all (fun p => !(decide (p.2 = some 0) && inZeroed m p.1)) = true := by
  simp only [Memory.wf, Bool.and_eq_true, and_assoc]

theorem memory_wf_putByte (m : DevMem) (a : Nat) (b : Byte) (h : Memory.wf m = true) : Memory.wf (putByte m a b) = true := by
  rw [memory_wf_iff] at h ⊢
  refine ⟨wf_set _ _ _ _ h.1, h.2.1, ?_⟩
  apply all_set
  · exact h.2.2
  · intro hv
    have hz : inZeroed (putByte m a b) a = inZeroed m a := rfl
    by_cases hc : b = 0 ∧ inZeroed m a = true
    · simp [hc] at hv
    · simp only [if_neg hc, hz]
      rcases Classical.em (b = 0) with h0 | h0
      · have : inZeroed m a = false := by
          cases hi : inZeroed m a
          · rfl
          · exact absurd ⟨h0, hi⟩ hc
        simp [this]
      · simp; exact Or.inl h0

theorem memory_wf_putBytes (a : Nat) (l : List (Nat × Byte)) (m : DevMem) (h : Memory.wf m = true) :
    Memory.wf (l.foldl (fun m p => putByte m (a + p.1) p.2) m) = true := by
  induction l generalizing m with
  | nil => exact h
  | cons p r ih => exact ih _ (memory_wf_putByte m _ _ h)

theorem memory_wf_memWrite (s : State) (a : Nat) (l : List Byte) (h : Memory.wf s.mem = true) :
    Memory.wf (memWrite s a l).mem = true := memory_wf_putBytes a _ s.mem h

theorem wf_putBlock (m : List (Nat × Option Byte)) (b : Nat) (l : List (Nat × Option Byte)) (h : SMap.wf none m = true) :
    SMap.wf none (putBlock m b l) = true :=
  wf_foldl none _ (fun _ _ hm => wf_set _ _ _ _ hm) l _ (wf_filter _ _ _ h)

theorem wf_putBlocks (l : List Retain) (m : List (Nat × Option Byte)) (h : SMap.wf none m = true) :
    SMap.wf none (l.foldl (fun m c => putBlock m c.block c.bytes) m) = true :=
  wf_foldl none _ (fun _ _ hm => wf_putBlock _ _ _ hm) l m h

theorem memory_wf_toMirror (s : State) (b : Nat) (h : Memory.wf s.mem = true) : Memory.wf (toMirror s b).mem = true := by
  rw [memory_wf_iff] at h ⊢
  exact ⟨h.1, wf_putBlock _ _ _ h.2.1, h.2.2⟩

theorem wf_imagePage (m : DevMem) (page : Nat) (h : SMap.wf none m.mirror = true) : SMap.wf none (imagePage m page) = true :=
  wf_foldl none _ (fun _ _ hm => wf_set _ _ _ _ hm) _ _ (wf_filter _ _ _ h)

/-- A spill page that is placed changes the placements, the mirror and a counter, and keeps the canonical form. -/
theorem memory_wf_touchSpill (s t : State) (q a : Nat) (h : Memory.wf s.mem = true) (ht : touchSpill s q a = some t) :
    Memory.wf t.mem = true := by
  unfold touchSpill at ht
  by_cases hs : inSpill a = true
  · simp only [hs, if_true] at ht
    cases hp : placeOf s (a / 2 ^ 21) with
    | some x => simp only [hp, Option.some.injEq] at ht; exact ht ▸ h
    | none =>
      cases hc : choosePlace s q with
      | none => simp only [hp, hc, reduceCtorEq] at ht
      | some p =>
        simp only [hp, hc, Option.some.injEq] at ht
        subst ht
        rw [memory_wf_iff] at h ⊢
        refine ⟨h.1, ?_, h.2.2⟩
        dsimp only [bump]
        split
        · exact h.2.1
        · exact wf_imagePage _ _ h.2.1
  · rw [if_neg hs, Option.some.injEq] at ht; exact ht ▸ h

theorem memory_wf_settleZeros (m : DevMem) (hb : SMap.wf none m.bytes = true) (hm : SMap.wf none m.mirror = true) :
    Memory.wf (settleZeros m) = true := by
  rw [memory_wf_iff]
  refine ⟨wf_filter _ _ _ hb, hm, ?_⟩
  rw [List.all_eq_true]
  intro p hp
  exact (List.mem_filter.mp hp).2

theorem memory_wf_restoreRetained (s : State) (h : Memory.wf s.mem = true) : Memory.wf (restoreRetained s).mem = true := by
  rw [memory_wf_iff] at h
  exact memory_wf_settleZeros _ (wf_putBlocks _ _ h.1) h.2.1

theorem setTag_mem_bytes (s : State) (b : Nat) (x : WriteTag) : (setTag s b x).mem.bytes = s.mem.bytes := rfl

/-- A change of tags, retain copies, placements and pointers leaves the canonical form. -/
theorem memory_wf_congr (m n : DevMem) (hb : n.bytes = m.bytes) (hz : n.zeroed = m.zeroed) (hm : n.mirror = m.mirror) :
    Memory.wf n = Memory.wf m := by
  simp only [Memory.wf, inZeroed, hb, hz, hm]

theorem memory_wf_setTag (s : State) (b : Nat) (x : WriteTag) (h : Memory.wf s.mem = true) :
    Memory.wf (setTag s b x).mem = true := by
  rw [memory_wf_congr s.mem (setTag s b x).mem rfl rfl rfl]; exact h

theorem memory_wf_updateCheck (s : State) (b : Nat) (h : Memory.wf s.mem = true) : Memory.wf (updateCheck s b).mem = true := by
  unfold updateCheck
  split
  · exact memory_wf_setTag _ _ _ h
  · exact h

theorem memory_wf_giveCheck (s : State) (b : Nat) (h : Memory.wf s.mem = true) : Memory.wf (giveCheck s b).mem = true := by
  unfold giveCheck
  split
  · exact h
  · exact memory_wf_setTag _ _ _ h

theorem memory_wf_foldState {β : Type} (f : State → β → State)
    (hf : ∀ s b, Memory.wf s.mem = true → Memory.wf (f s b).mem = true) (l : List β) (s : State) (h : Memory.wf s.mem = true) :
    Memory.wf (l.foldl f s).mem = true := by
  induction l generalizing s with
  | nil => exact h
  | cons b r ih => exact ih _ (hf s b h)

/-- The power of an access leaves memory alone. -/
@[simp] theorem chargeAccess_mem (s : State) (a k : Nat) : (chargeAccess s a k).mem = s.mem := by
  unfold chargeAccess
  split
  · unfold chargeDie; split <;> rfl
  · unfold chargeHub; simp only; split <;> rfl

/-- The power of hub events leaves memory alone. -/
@[simp] theorem chargeHub_mem (s : State) (n k : Nat) : (chargeHub s n k).mem = s.mem := by
  unfold chargeHub; simp only; split <;> rfl

@[simp] theorem chargeRestore_mem (s : State) (b : Nat) : (chargeRestore s b).mem = s.mem := by simp [chargeRestore]

@[simp] theorem chargeRetain_mem (s : State) (b : Nat) : (chargeRetain s b).mem = s.mem := by
  unfold chargeRetain; simp only; split <;> simp

theorem memory_wf_restorePartition (s : State) (qs : List Nat) (h : Memory.wf s.mem = true) :
    Memory.wf (restorePartition s qs).mem = true := by
  rw [memory_wf_iff] at h
  unfold restorePartition
  refine memory_wf_foldState _ (fun s b hs => memory_wf_giveCheck _ b (by rw [chargeRestore_mem]; exact hs)) _ _
    (memory_wf_foldState _ (fun s c hs => memory_wf_setTag _ _ _ (by rw [chargeRestore_mem]; exact hs)) _ _ ?_)
  exact memory_wf_settleZeros _
    (wf_putBlocks _ _ (wf_foldl none _ (fun _ _ hm => wf_set _ _ _ _ hm) _ _ (wf_filter _ _ _ h.1))) h.2.1

theorem memory_wf_hostStore (s : State) (a : Nat) (l : List Byte) (whole : List Nat) (h : Memory.wf s.mem = true) :
    Memory.wf (hostStore s a l whole).mem = true := by
  unfold hostStore
  refine memory_wf_foldState _ memory_wf_giveCheck _ _ (memory_wf_foldState _ memory_wf_updateCheck _ _
    (memory_wf_foldState _ ?_ _ _ (memory_wf_memWrite s a l h)))
  intro s b hs
  split
  · exact memory_wf_toMirror _ _ (by rw [chargeHub_mem]; exact hs)
  · exact hs

theorem memory_wf_retainBlock (s : State) (b : Nat) (h : Memory.wf s.mem = true) : Memory.wf (retainBlock s b).mem = true := by
  unfold retainBlock
  split
  · exact h
  · have hg := memory_wf_giveCheck (chargeRetain s b) b (by rw [chargeRetain_mem]; exact h)
    exact (memory_wf_congr (giveCheck (chargeRetain s b) b).mem _ rfl rfl rfl).trans hg

theorem memory_wf_tileStore (s : State) (t : TileRef) (g a : Nat) (l : List Byte) (h : Memory.wf s.mem = true) :
    Memory.wf (tileStore s t g a l).mem = true := by
  unfold tileStore
  refine memory_wf_foldState _ ?_ _ _ (memory_wf_memWrite _ _ _ (memory_wf_foldState _ memory_wf_retainBlock _ _ h))
  intro s b hs
  exact memory_wf_updateCheck _ _ (memory_wf_setTag _ _ _ hs)

theorem memory_wf_reset : Memory.wf State.reset.mem = true := rfl

/-! ### Bytes -/

/-- A byte that is written reads back, in and out of a span left as zero. -/
theorem memByte_putByte (s : State) (a : Nat) (b : Byte) (h : rising s.mem.bytes = true) :
    memByte { s with mem := putByte s.mem a b } a = b := by
  simp only [memByte, putByte, get_set _ _ _ _ h]
  split
  · rename_i hc
    split at hc
    · simp at hc
    · simpa using hc.symm
  · rename_i hc
    split at hc
    · rename_i h0
      have : inZeroed { s.mem with bytes := SMap.set none s.mem.bytes a none } a = inZeroed s.mem a := rfl
      simp_all [inZeroed]
    · simp at hc

/-- Every other byte is as before. -/
theorem memByte_putByte_ne (s : State) (a k : Nat) (b : Byte) (h : k ≠ a) :
    memByte { s with mem := putByte s.mem a b } k = memByte s k := by
  simp only [memByte, putByte, get_set_ne _ _ _ _ _ h, inZeroed]
  rfl

end Sys2Proof.Machine
end

