-- ==== Sys2Proof/Laws/Ops.lean ====
section
/-! SUPPORT. What the shared operations do: the register, counter, tile, group, link, district or hop that an update writes
reads back, and every other one is as before. -/

namespace Sys2Proof.Machine

open Sys2Proof.SMap

/-! ### Registers and counters -/

theorem getReg_setReg (s : State) (a : Nat) (v : Word) (h : rising s.csr = true) : getReg (setReg s a v) a = v := by
  simp only [getReg, setReg, get_set _ _ _ _ h]
  rw [BitVec.xor_assoc, BitVec.xor_self, BitVec.xor_zero]

theorem getReg_setReg_ne (s : State) (a b : Nat) (v : Word) (h : b ≠ a) : getReg (setReg s a v) b = getReg s b := by
  simp only [getReg, setReg, get_set_ne _ _ _ _ _ h]

theorem getReg_congr (s t : State) (h : t.csr = s.csr) (a : Nat) : getReg t a = getReg s a := by simp only [getReg, h]

theorem getCnt_bump (s : State) (a n : Nat) (h : rising s.cnt = true) : getCnt (bump s a n) a = (getCnt s a).add n :=
  get_set _ _ _ _ h

theorem getCnt_bump_ne (s : State) (a b n : Nat) (h : b ≠ a) : getCnt (bump s a n) b = getCnt s b := by
  simp only [getCnt, bump, get_set_ne _ _ _ _ _ h]

/-! ### Tiles and groups -/

theorem tileKey_inj (t u : TileRef) (h : tileKey t = tileKey u) : t = u := by
  obtain ⟨d, l, b⟩ := t
  obtain ⟨d', l', b'⟩ := u
  simp only [tileKey] at h
  have h1 := l.isLt
  have h2 := l'.isLt
  have : d.val = d'.val ∧ l.val = l'.val ∧ b = b' := by
    cases b <;> cases b' <;> simp at h ⊢ <;> omega
  simp only [TileRef.mk.injEq, Fin.ext_iff]
  exact this

theorem getTile_setTile (s : State) (t : TileRef) (x : Tile) (h : rising s.tiles = true) : getTile (setTile s t x) t = x :=
  get_set _ _ _ _ h

theorem getTile_setTile_ne (s : State) (t u : TileRef) (x : Tile) (h : u ≠ t) : getTile (setTile s t x) u = getTile s u :=
  get_set_ne _ _ _ _ _ (fun e => h (tileKey_inj u t e))

theorem getGroup_setGroup (x : Tile) (g : Nat) (y : Group) : getGroup (setGroup x g y) g = y := get_put _ _ _ _

theorem getGroup_setGroup_ne (x : Tile) (g k : Nat) (y : Group) (h : k ≠ g) : getGroup (setGroup x g y) k = getGroup x k :=
  get_put_ne _ _ _ _ _ h

theorem rising_tiles_setTile (s : State) (t : TileRef) (x : Tile) (h : rising s.tiles = true) :
    rising (setTile s t x).tiles = true := rising_set _ _ _ _ h

/-! ### Links, districts, hops -/

theorem getLink_setLink (s : State) (n : Nat) (l : Link) (h : rising s.links = true) : getLink (setLink s n l) n = l :=
  get_set _ _ _ _ h

theorem getLink_setLink_ne (s : State) (n m : Nat) (l : Link) (h : m ≠ n) : getLink (setLink s n l) m = getLink s m :=
  get_set_ne _ _ _ _ _ h

theorem getDist_setDist (s : State) (d : Nat) (x : District) (h : rising s.dists = true) : getDist (setDist s d x) d = x :=
  get_set _ _ _ _ h

theorem getDist_setDist_ne (s : State) (d e : Nat) (x : District) (h : e ≠ d) : getDist (setDist s d x) e = getDist s e :=
  get_set_ne _ _ _ _ _ h

theorem getHop_setHop (s : State) (k : HopId) (x : Hop) (h : rising s.hops = true) : getHop (setHop s k x) k = x :=
  get_set _ _ _ _ h

/-! ### What a keyed state gives -/

theorem keyed_csr {s : State} (h : s.keyed = true) : rising s.csr = true := by
  simp only [State.keyed, Bool.and_eq_true] at h; exact h.1.1.1.1.1.1.1.1.1

theorem keyed_cnt {s : State} (h : s.keyed = true) : rising s.cnt = true := by
  simp only [State.keyed, Bool.and_eq_true] at h; exact h.1.1.1.1.1.1.1.1.2

theorem keyed_tiles {s : State} (h : s.keyed = true) : rising s.tiles = true := by
  simp only [State.keyed, Bool.and_eq_true] at h; exact h.1.1.1.1.1.1.1.2

theorem keyed_links {s : State} (h : s.keyed = true) : rising s.links = true := by
  simp only [State.keyed, Bool.and_eq_true] at h; exact h.1.1.1.1.1.2

theorem keyed_dists {s : State} (h : s.keyed = true) : rising s.dists = true := by
  simp only [State.keyed, Bool.and_eq_true] at h; exact h.1.1.1.1.2

theorem keyed_hops {s : State} (h : s.keyed = true) : rising s.hops = true := by
  simp only [State.keyed, Bool.and_eq_true] at h; exact h.1.1.1.2

theorem get_mem_or {α : Type} (d : α) (m : List (Nat × α)) (k : Nat) : SMap.get d m k = d ∨ ∃ p ∈ m, SMap.get d m k = p.2 := by
  induction m with
  | nil => exact .inl rfl
  | cons p r ih =>
    obtain ⟨i, w⟩ := p
    simp only [SMap.get]
    split
    · exact .inr ⟨(i, w), by simp, rfl⟩
    · rcases ih with h | ⟨q, hq, e⟩
      · exact .inl h
      · exact .inr ⟨q, by simp [hq], e⟩

theorem keyed_getTile {s : State} (h : s.keyed = true) (t : TileRef) : (getTile s t).keyed = true := by
  simp only [State.keyed, Bool.and_eq_true] at h
  have ha := h.1.1.1.1.1.1.2
  rcases get_mem_or ({} : Tile) s.tiles (tileKey t) with e | ⟨p, hp, e⟩
  · rw [getTile, e]; rfl
  · rw [getTile, e]; exact List.all_eq_true.mp ha p hp

theorem keyed_groups {s : State} (h : s.keyed = true) (t : TileRef) : rising (getTile s t).groups = true := by
  have := keyed_getTile h t
  simp only [Tile.keyed, Bool.and_eq_true] at this
  exact this.1.1.1.1.1

theorem keyed_getGroup {x : Tile} (h : x.keyed = true) (g : Nat) : (getGroup x g).keyed = true := by
  simp only [Tile.keyed, Bool.and_eq_true] at h
  have ha := h.1.1.1.1.2
  rcases get_mem_or ({} : Group) x.groups g with e | ⟨p, hp, e⟩
  · rw [getGroup, e]; rfl
  · rw [getGroup, e]; exact List.all_eq_true.mp ha p hp

end Sys2Proof.Machine
end

