-- ==== Sys2Proof/Laws/Shared.lean ====
section
/-! SUPPORT. Everything the shared operations can change, one lemma each: reports, WAY flits, hold causes, abandonment, violations,
FAULT, journal records and completions. A proof about a command cites these and never unfolds the operation. -/

namespace Sys2Proof.Machine

/-! ### What is sent -/

theorem emit_frame (s : State) (o : Out) : emit s o = { s with out := s.out ++ [o] } := rfl

/-- A report changes the ring, its number and what is sent. -/
theorem report_frame (s : State) (t : Nat) (b : List Word) :
    report s t b = { s with out := (report s t b).out, ports := { s.ports with
      reports := (report s t b).ports.reports, reportSeq := s.ports.reportSeq + 1 } } := by
  simp only [report]
  generalize reportBytes s t b = x
  generalize List.drop _ (s.ports.reports ++ [(s.ports.reportSeq.toNat, x)]) = l
  split <;> split <;> rfl

/-- Queueing a WAY flit changes one link's WAY queue. -/
theorem queueWay_frame (s : State) (w : WayFlit) (n : Nat) : queueWay s w n = { s with links := (queueWay s w n).links } := rfl

theorem foldl_queueWay_frame (w : WayFlit) (l : List Nat) (s : State) :
    l.foldl (fun s n => queueWay s w n) s = { s with links := (l.foldl (fun s n => queueWay s w n) s).links } := by
  induction l generalizing s with
  | nil => rfl
  | cons n r ih =>
    rw [List.foldl_cons, ih]
    rfl

theorem sendWay_frame (s : State) (w : WayFlit) (e : Option Nat) :
    sendWay s w e = { s with links := (sendWay s w e).links } := foldl_queueWay_frame w _ s

/-! ### Hold causes -/

/-- Setting or clearing a cause changes the causes only. -/
theorem putCause_frame (s : State) (b : Nat) (v : Bool) :
    putCause s b v = { s with sch := { s.sch with holds := (putCause s b v).sch.holds } } := rfl

/-- RESUME_WAIT changes the causes and the RESUME time waited for. -/
theorem settleResume_frame (s : State) :
    settleResume s = { s with sch := { s.sch with
      holds := (settleResume s).sch.holds, resumeAt := (settleResume s).sch.resumeAt
      resumeFrom := (settleResume s).sch.resumeFrom } } := by
  unfold settleResume
  split
  · rfl
  · split
    · rfl
    · split <;> rfl

theorem waitUntil_frame (s : State) (t : Word) (f : Nat) :
    waitUntil s t f = { s with sch := { s.sch with
      holds := (waitUntil s t f).sch.holds, resumeAt := (waitUntil s t f).sch.resumeAt
      resumeFrom := (waitUntil s t f).sch.resumeFrom } } := by
  unfold waitUntil
  rw [settleResume_frame]

theorem sendHold_frame (s : State) :
    sendHold s = { s with links := (sendHold s).links, sch := { s.sch with ownSeq := s.sch.ownSeq + 1 } } := by
  unfold sendHold
  rw [sendWay_frame]

theorem sendRelease_frame (s : State) (r : Bool) :
    sendRelease s r = { s with links := (sendRelease s r).links, sch := { s.sch with
      holds := (sendRelease s r).sch.holds, resumeAt := (sendRelease s r).sch.resumeAt
      resumeFrom := (sendRelease s r).sch.resumeFrom } } := by
  simp only [sendRelease]
  rw [waitUntil_frame, sendWay_frame]

/-- A cause that is raised changes the causes, the RESUME time, the chip's own SEQ, the report ring, the links' WAY queues and what is
sent. -/
theorem raiseCause_frame (s : State) (b : Nat) :
    raiseCause s b = { s with
      out := (raiseCause s b).out, links := (raiseCause s b).links
      ports := { s.ports with reports := (raiseCause s b).ports.reports, reportSeq := (raiseCause s b).ports.reportSeq }
      sch := { s.sch with
        holds := (raiseCause s b).sch.holds, resumeAt := (raiseCause s b).sch.resumeAt
        resumeFrom := (raiseCause s b).sch.resumeFrom, ownSeq := (raiseCause s b).sch.ownSeq } } := by
  simp only [raiseCause]
  split
  · rfl
  · split
    · rw [sendHold_frame, report_frame, settleResume_frame]; rfl
    · rw [report_frame, settleResume_frame]; rfl

/-- A cause that is cleared changes the causes, the RESUME time and the links' WAY queues. -/
theorem clearCause_frame (s : State) (b : Nat) :
    clearCause s b = { s with
      links := (clearCause s b).links
      sch := { s.sch with
        holds := (clearCause s b).sch.holds, resumeAt := (clearCause s b).sch.resumeAt
        resumeFrom := (clearCause s b).sch.resumeFrom } } := by
  simp only [clearCause]
  split
  · split
    · rw [sendRelease_frame]; rfl
    · rfl
  · rfl

/-- A cause whose turn has not come is not cleared. -/
theorem clearInTurn_frame (s : State) (b : Nat) :
    clearInTurn s b = { s with
      links := (clearInTurn s b).links
      sch := { s.sch with
        holds := (clearInTurn s b).sch.holds, resumeAt := (clearInTurn s b).sch.resumeAt
        resumeFrom := (clearInTurn s b).sch.resumeFrom } } := by
  unfold clearInTurn
  split
  · exact clearCause_frame s b
  · rfl

/-! ### Abandonment, violations, FAULT -/

theorem setAbandon_frame (s : State) (c : Nat) :
    setAbandon s c = { s with sch := { s.sch with
      causesNow := (setAbandon s c).sch.causesNow, causesNext := (setAbandon s c).sch.causesNext } } := by
  simp only [setAbandon]
  split
  · split <;> rfl
  · rfl

/-- A schedule violation changes its three registers and what a raised cause changes. -/
theorem schedViolation_frame (s : State) (code kind slot district link road : Nat) :
    let u := schedViolation s code kind slot district link road
    u = { s with
      csr := u.csr, out := u.out, links := u.links
      ports := { s.ports with reports := u.ports.reports, reportSeq := u.ports.reportSeq }
      sch := { s.sch with
        holds := u.sch.holds, resumeAt := u.sch.resumeAt, resumeFrom := u.sch.resumeFrom, ownSeq := u.sch.ownSeq } } := by
  simp only [schedViolation]
  rw [raiseCause_frame, report_frame]
  split <;> rfl

/-! ### Journal -/

/-- What a record, a seal that falls due and the two levels can change. -/
structure JournalFrame (s u : State) : Prop where
  frame : u = { s with
    jrn := u.jrn, sinceRecord := u.sinceRecord, out := u.out, links := u.links, boot := { s.boot with signQ := u.boot.signQ }, pwr := u.pwr
    ports := { s.ports with reports := u.ports.reports, reportSeq := u.ports.reportSeq }
    sch := { s.sch with
      holds := u.sch.holds, resumeAt := u.sch.resumeAt, resumeFrom := u.sch.resumeFrom, ownSeq := u.sch.ownSeq } }

theorem JournalFrame.refl (s : State) : JournalFrame s s := ⟨rfl⟩

theorem JournalFrame.trans {s t u : State} (h : JournalFrame s t) (k : JournalFrame t u) : JournalFrame s u := by
  constructor
  rw [k.frame, h.frame]

theorem chargeHub_journal (s : State) (n k : Nat) : JournalFrame s (chargeHub s n k) := by
  simp only [chargeHub]
  split
  · exact .refl s
  · exact ⟨rfl⟩

theorem startSeal_frame (s : State) (f : Bool) : JournalFrame s (startSeal s f) := ⟨rfl⟩

theorem requestSeal_frame (s : State) (f : Bool) : JournalFrame s (requestSeal s f) := by
  simp only [requestSeal]
  split
  · exact .refl s
  · cases f
    · simp only [Bool.false_eq_true, if_false]
      split
      · exact ⟨rfl⟩
      · split <;> exact ⟨rfl⟩
    · simp only [if_true]
      split
      · exact ⟨rfl⟩
      · split <;> exact ⟨rfl⟩

theorem settleWarn_frame (s : State) : JournalFrame s (settleWarn s) := by
  simp only [settleWarn]
  split
  · constructor; rw [report_frame]
  · exact ⟨rfl⟩

theorem raiseCause_journal (s : State) (b : Nat) : JournalFrame s (raiseCause s b) := by
  constructor; rw [raiseCause_frame]

theorem settleFull_frame (s : State) : JournalFrame s (settleFull s) := by
  simp only [settleFull]
  split
  · split
    · exact .refl s
    · refine JournalFrame.trans ?_ (raiseCause_journal _ 6)
      constructor; rw [report_frame]
  · constructor; rw [clearInTurn_frame]

theorem settleLevels_frame (s : State) : JournalFrame s (settleLevels s) :=
  (settleWarn_frame s).trans (settleFull_frame _)

theorem appendNow_frame (s : State) (d : Draft) : JournalFrame s (appendNow s d) := by
  simp only [appendNow]
  split
  · exact ((JournalFrame.trans ⟨rfl⟩ (chargeHub_journal _ 13 1)).trans (settleLevels_frame _)).trans (requestSeal_frame _ false)
  · exact (JournalFrame.trans ⟨rfl⟩ (chargeHub_journal _ 13 1)).trans (settleLevels_frame _)

/-- A record changes the journal and what its levels raise, and nothing else. -/
theorem append_frame (s : State) (d : Draft) : JournalFrame s (append s d) := by
  unfold append
  split
  · exact .refl s
  · split
    · exact appendNow_frame s d
    · exact ⟨rfl⟩

theorem appendAll_frame (l : List Draft) (s : State) : JournalFrame s (appendAll s l) := by
  unfold appendAll
  induction l generalizing s with
  | nil => exact .refl s
  | cons d r ih => exact (append_frame s d).trans (ih _)

theorem appendLate_frame (s : State) (d : Draft) : JournalFrame s (appendLate s d) := by
  unfold appendLate
  split
  · exact .refl s
  · split
    · exact appendNow_frame s d
    · exact ⟨rfl⟩

theorem recordOwed_frame (s : State) (h : Holding) : JournalFrame s (recordOwed s h) := by
  unfold recordOwed
  split
  · exact appendLate_frame s _
  · exact .refl s

/-- What recording the low words still owed can change: what a record changes, and which low words are owed. -/
structure OwedFrame (s u : State) : Prop where
  frame : u = { s with
    jrn := u.jrn, sinceRecord := u.sinceRecord, out := u.out, links := u.links, boot := { s.boot with signQ := u.boot.signQ }, pwr := u.pwr
    holding := u.holding
    ports := { s.ports with reports := u.ports.reports, reportSeq := u.ports.reportSeq }
    sch := { s.sch with
      holds := u.sch.holds, resumeAt := u.sch.resumeAt, resumeFrom := u.sch.resumeFrom, ownSeq := u.sch.ownSeq } }

theorem OwedFrame.trans {s t u : State} (h : OwedFrame s t) (k : OwedFrame t u) : OwedFrame s u := by
  constructor
  rw [k.frame, h.frame]

theorem recordAllOwed_frame (s : State) : OwedFrame s (recordAllOwed s) := by
  unfold recordAllOwed
  generalize s.holding = l
  induction l generalizing s with
  | nil => exact ⟨rfl⟩
  | cons h r ih =>
    refine OwedFrame.trans ?_ (ih _)
    dsimp only
    split
    · refine OwedFrame.trans ⟨?_⟩ (⟨rfl⟩ : OwedFrame (recordOwed s h) _)
      rw [(recordOwed_frame s h).frame]
    · exact ⟨rfl⟩

/-- FAULT changes the state, its cause, the report ring and what is sent, and what the low words that are recorded change. -/
theorem enterFault_frame (s : State) (c : Nat) :
    ∃ t, OwedFrame s t ∧ enterFault s c = { t with
      dev := .fault, faultCause := (enterFault s c).faultCause, out := (enterFault s c).out
      ports := { t.ports with reports := (enterFault s c).ports.reports, reportSeq := (enterFault s c).ports.reportSeq } } := by
  unfold enterFault
  split
  · rename_i h; exact ⟨s, ⟨rfl⟩, by rw [← h]⟩
  · exact ⟨recordAllOwed s, recordAllOwed_frame s, by rw [report_frame]⟩

/-- With no journal kept nothing is appended (R59). -/
theorem append_unkept (s : State) (d : Draft) (h : s.jrn.kept = false) : append s d = s := by simp [append, h]

/-! ### Completions -/

theorem sendFrame_frame (s : State) (n : Nat) (f : BitVec 16) (b : List Byte) :
    sendFrame s n f b = { s with links := (sendFrame s n f b).links } := rfl

/-- What sending and keeping completions can change: what is sent, the links' MGT queues, the kept completions and the frame number. -/
structure AnswerFrame (s u : State) : Prop where
  frame : u = { s with
    out := u.out, links := u.links
    ports := { s.ports with
      keptHost := u.ports.keptHost, keptMgt := u.ports.keptMgt, nextFrame := u.ports.nextFrame } }

theorem AnswerFrame.trans {s t u : State} (h : AnswerFrame s t) (k : AnswerFrame t u) : AnswerFrame s u := by
  constructor
  rw [k.frame, h.frame]

theorem answer_frame (s : State) (r : Req) (k : Kept) (again : Bool) : AnswerFrame s (answer s r k again) := by
  unfold answer
  split
  · split
    · exact ⟨rfl⟩
    · exact ⟨rfl⟩
  · exact ⟨rfl⟩

/-- A command that no other chip forwarded is answered by one frame to its sender. -/
theorem answer_here (s : State) (r : Req) (k : Kept) (again : Bool) (h : ∀ c n, r.sender ≠ .mgt (.forwarded c n)) :
    answer s r k again = emit s (.completion r.sender (answerFrame r k again)) := by
  unfold answer
  split
  · rename_i c n e; exact absurd e (h c n)
  · rfl

theorem keep_frame (s : State) (k : Kept) : AnswerFrame s (keep s k) := by
  simp only [keep]
  split
  · generalize List.drop _ (s.ports.keptHost ++ [k]) = l
    exact ⟨rfl⟩
  · generalize List.drop _ (s.ports.keptMgt.filter (fun x => x.from_ == k.from_) ++ [k]) = l
    exact ⟨rfl⟩

/-- An operation that completes is kept and answered, and nothing else changes. -/
theorem complete_frame (s : State) (r : Req) (op status : Nat) (body : List Byte) : AnswerFrame s (complete s r op status body) := by
  have key : ∀ mine : Bool, ∀ k : Kept, AnswerFrame s (answer (if mine then keep s k else s) r k false) := by
    intro mine k
    cases mine
    · exact answer_frame s r k false
    · exact (keep_frame s k).trans (answer_frame (keep s k) r k false)
  unfold complete
  exact key _ _

theorem countOp_frame (s : State) (src : Source) : countOp s src = { s with cnt := (countOp s src).cnt } := rfl

end Sys2Proof.Machine
end

