-- ==== Sys2Proof/Laws/Tiles.lean ====
section
/-! SUPPORT. What the issue of a tile instruction does (R100, R134): one lemma for an instruction that works on its group only,
and the registers that the shared writers write. -/

namespace Sys2Proof.Machine

open Sys2Proof.SMap Sys2Proof.Claims

theorem memByte_congr (s u : State) (h : u.mem = s.mem) (e : u.epoch = s.epoch) (a : Nat) : memByte u a = memByte s a := by
  simp only [memByte, h, e]

theorem getTile_putGroup (s : State) (t : TileRef) (g : Nat) (y : Group) (h : rising s.tiles = true) :
    getTile (putGroup s t g y) t = setGroup (getTile s t) g y := getTile_setTile _ _ _ h

/-- A charge changes the counted energy, and nothing else. -/
theorem charge_frame (s : State) (d n k : Nat) : charge s d n k = { s with pwr := (charge s d n k).pwr } := by
  simp only [charge]
  split <;> rfl

theorem chargeIssue_frame (s : State) (d : Nat) (p : Port) : chargeIssue s d p = { s with pwr := (chargeIssue s d p).pwr } := by
  cases p <;> first | rfl | exact charge_frame _ _ _ _

/-- The energy that a charge counts rests on the weights and the counted energy before it. -/
theorem charge_pwr (s u : State) (d n k : Nat) (hc : u.csr = s.csr) (hp : u.pwr = s.pwr) :
    (charge u d n k).pwr = (charge s d n k).pwr := by
  have hw : weight u n = weight s n := by simp only [weight, getReg, hc]
  simp only [charge, hw]
  by_cases h : k * weight s n = 0
  · simp only [h, if_true, hp]
  · simp only [h, if_false, hp]

theorem chargeIssue_pwr (s u : State) (d : Nat) (p : Port) (hc : u.csr = s.csr) (hp : u.pwr = s.pwr) :
    (chargeIssue u d p).pwr = (chargeIssue s d p).pwr := by
  cases p <;> first | exact hp | exact charge_pwr _ _ _ _ _ hc hp

/-- What the issue of an instruction counts, beside its power: the slate of the cycle and ISSUE. -/
theorem countIssue_frame (s : State) (t : TileRef) (g : Nat) (p : Port) :
    countIssue s t g p = { s with
      tiles := (setTile s t { getTile s t with slate := (getTile s t).slate ++ [((getGroup (getTile s t) g).slot, p)] }).tiles
      cnt := (bump s (issueKey s t) 1).cnt
      pwr := (chargeIssue s t.d.val p).pwr } := by
  have e : ∀ u : State, u.csr = s.csr → u.pwr = s.pwr →
      chargeIssue u t.d.val p = { u with pwr := (chargeIssue s t.d.val p).pwr } := fun u hc hp => by
    rw [chargeIssue_frame, chargeIssue_pwr s u _ _ hc hp]
  exact e _ rfl rfl

theorem getTile_congr (s u : State) (t : TileRef) (h : u.tiles = s.tiles) : getTile u t = getTile s t := by
  simp only [getTile, h]

theorem getTile_countIssue (s : State) (t : TileRef) (g : Nat) (p : Port) (h : rising s.tiles = true) :
    getTile (countIssue s t g p) t =
      { getTile s t with slate := (getTile s t).slate ++ [((getGroup (getTile s t) g).slot, p)] } := by
  rw [countIssue_frame]
  exact getTile_setTile _ _ _ h

theorem getTile_countIssue_ne (s : State) (t r : TileRef) (g : Nat) (p : Port) (h : r ≠ t) :
    getTile (countIssue s t g p) r = getTile s r := by
  rw [countIssue_frame]
  exact getTile_setTile_ne _ _ _ _ h

theorem rising_tiles_countIssue (s : State) (t : TileRef) (g : Nat) (p : Port) (h : rising s.tiles = true) :
    rising (countIssue s t g p).tiles = true := by
  rw [countIssue_frame]
  exact rising_set _ _ _ _ h

/-- An issue that leaves the group with any context. -/
theorem issued_putGroup (s : State) (t : TileRef) (g : Nat) (p : Port) (z : Group) (h : s.keyed = true) :
    Issued s (putGroup (countIssue s t g p) t g z) t g p z := by
  have ht := keyed_tiles h
  have hc := rising_tiles_countIssue s t g p ht
  have e1 := getTile_putGroup (countIssue s t g p) t g z hc
  have e2 := getTile_countIssue s t g p ht
  have hn : ∀ r, r ≠ t → getTile (putGroup (countIssue s t g p) t g z) r = getTile s r := fun r hr => by
    rw [putGroup, getTile_setTile_ne _ _ _ _ hr, getTile_countIssue_ne _ _ _ _ _ hr]
  have ef := countIssue_frame s t g p
  have ec : ∀ a, getCnt (putGroup (countIssue s t g p) t g z) a = getCnt (bump s (issueKey s t) 1) a := fun a => by
    rw [putGroup, ef]; rfl
  refine ⟨?_, ?_, ?_, hn, ?_, fun a => ?_, ?_, fun a ha => ?_, ?_, ?_⟩
  · rw [e1, getGroup_setGroup]
  · intro k hk
    rw [e1, getGroup_setGroup_ne _ _ _ _ hk, e2]
    rfl
  · rw [e1, e2]
    rfl
  · intro r a
    by_cases hr : r = t
    · subst hr; rw [e1, e2]; rfl
    · rw [hn r hr]
  · rw [putGroup, ef]; rfl
  · rw [ec]; exact getCnt_bump s _ 1 (keyed_cnt h)
  · rw [ec]; exact getCnt_bump_ne s _ a 1 ha
  · rw [putGroup, ef]; rfl
  · rw [putGroup, ef]; rfl

/-- An instruction that works on its group only. -/
theorem issued_issueGroup (s : State) (t : TileRef) (g : Nat) (p : Port) (ss vs : List Nat) (f : Group → Group)
    (h : Runs s t g p ss vs) : Issued s (issueGroup s t g p ss vs f) t g p (advance (f (getGroup (getTile s t) g))) := by
  obtain ⟨hk, hr, hf⟩ := h
  simp only [issueGroup, hr, hf, Bool.and_self, if_true]
  exact issued_putGroup s t g p _ hk

/-- An instruction whose group is not ready, that the issue stage does not take in this cycle, or that waits for data does nothing. -/
theorem issueGroup_waits (s : State) (t : TileRef) (g : Nat) (p : Port) (ss vs : List Nat) (f : Group → Group)
    (h : (canIssue s t g p && regsFree (getGroup (getTile s t) g) ss vs) = false) : issueGroup s t g p ss vs f = s := by
  simp [issueGroup, h]

/-! ### Register writers -/

theorem sReg_setS (x : Group) (r k : Nat) (v : DWord) (h : rising x.s = true) (hr : r ≠ 0) : sReg (setS x r k v) r k = v := by
  simp only [sReg, setS, hr, if_false]
  exact get_set _ _ _ _ h

theorem sReg_setS_ne (x : Group) (r k r' k' : Nat) (v : DWord) (hk : k < 32) (hk' : k' < 32) (h : ¬ (r' = r ∧ k' = k)) :
    sReg (setS x r k v) r' k' = sReg x r' k' := by
  simp only [sReg, setS]
  split
  · rfl
  · split
    · rfl
    · exact get_set_ne _ _ _ _ _ (by omega)

theorem rising_setS (x : Group) (r k : Nat) (v : DWord) (h : rising x.s = true) : rising (setS x r k v).s = true := by
  simp only [setS]
  split
  · exact h
  · exact rising_set _ _ _ _ h

theorem setS_rest (x : Group) (r k : Nat) (v : DWord) : setS x r k v = { x with s := (setS x r k v).s } := by
  simp only [setS]; split <;> rfl

/-- Writing one value per thread: the listed threads take their values, every other scalar register is as before. -/
theorem foldS (l : List (Nat × DWord)) (x : Group) (r : Nat) (h : rising x.s = true) (hl : ∀ p ∈ l, p.1 < 32)
    (hn : (l.map (·.1)).Nodup) :
    rising (l.foldl (fun y p => setS y r p.1 p.2) x).s = true ∧
    (∀ p ∈ l, r ≠ 0 → sReg (l.foldl (fun y p => setS y r p.1 p.2) x) r p.1 = p.2) ∧
    (∀ r' k, k < 32 → ¬ (r' = r ∧ k ∈ l.map (·.1)) → sReg (l.foldl (fun y p => setS y r p.1 p.2) x) r' k = sReg x r' k) ∧
    (l.foldl (fun y p => setS y r p.1 p.2) x) = { x with s := (l.foldl (fun y p => setS y r p.1 p.2) x).s } := by
  induction l generalizing x with
  | nil => exact ⟨h, by simp, fun _ _ _ _ => rfl, rfl⟩
  | cons q l ih =>
    simp only [List.map_cons, List.nodup_cons] at hn
    obtain ⟨i1, i2, i3, i4⟩ := ih (setS x r q.1 q.2) (rising_setS _ _ _ _ h) (fun p hp => hl p (by simp [hp])) hn.2
    have hq : q.1 < 32 := hl q (by simp)
    simp only [List.foldl_cons]
    refine ⟨i1, ?_, ?_, ?_⟩
    · intro p hp hr
      rcases List.mem_cons.mp hp with e | hp
      · subst e
        rw [i3 r p.1 hq (by simp [hn.1]), sReg_setS _ _ _ _ h hr]
      · exact i2 p hp hr
    · intro r' k hk hne
      have hne1 : ¬ (r' = r ∧ k ∈ l.map (·.1)) := fun c => hne ⟨c.1, by simp only [List.map_cons, List.mem_cons]; exact .inr c.2⟩
      have hne2 : ¬ (r' = r ∧ k = q.1) := fun c => hne ⟨c.1, by simp only [List.map_cons, List.mem_cons]; exact .inl c.2⟩
      rw [i3 r' k hk hne1, sReg_setS_ne _ _ _ _ _ _ hq hk hne2]
    · rw [setS_rest x r q.1 q.2] at i4 ⊢
      exact i4

theorem writesS_writeThreads (y : Group) (d : Nat) (ks : List Nat) (f : Nat → DWord) (h : rising y.s = true)
    (hl : ∀ k ∈ ks, k < 32) (hn : ks.Nodup) : WritesS y (advance (writeThreads y d ks f)) d ks f := by
  have e : (ks.map (fun k => (k, f k))).map (·.1) = ks := by simp [Function.comp_def]
  obtain ⟨-, i2, i3, i4⟩ := foldS (ks.map (fun k => (k, f k))) y d h (by simpa using hl) (by rw [e]; exact hn)
  rw [e] at i3
  refine ⟨?_, ?_, fun k => rfl, ?_⟩
  · intro k hk hd
    exact i2 (k, f k) (List.mem_map.mpr ⟨k, hk, rfl⟩) hd
  · intro r k hk hne
    exact i3 r k hk hne
  · have : writeThreads y d ks f = { y with s := (writeThreads y d ks f).s } := i4
    rw [this]
    rfl

theorem actThreads_ok (G : DWord) : (∀ k ∈ actThreads G, k < 32) ∧ (actThreads G).Nodup := by
  refine ⟨fun k hk => ?_, List.Pairwise.filter _ List.nodup_range⟩
  simpa using (List.mem_filter.mp hk).1

theorem actLanes_ok (G : DWord) : (∀ k ∈ actLanes G, k < 64) ∧ (actLanes G).Nodup := by
  refine ⟨fun k hk => ?_, List.Pairwise.filter _ List.nodup_range⟩
  simpa using (List.mem_filter.mp hk).1

theorem keyed_s {s : State} (h : s.keyed = true) (t : TileRef) (g : Nat) : rising (getGroup (getTile s t) g).s = true := by
  have := keyed_getGroup (keyed_getTile h t) g
  simp only [Group.keyed, Bool.and_eq_true] at this
  exact this.1.1

theorem keyed_p {s : State} (h : s.keyed = true) (t : TileRef) (g : Nat) : rising (getGroup (getTile s t) g).p = true := by
  have := keyed_getGroup (keyed_getTile h t) g
  simp only [Group.keyed, Bool.and_eq_true] at this
  exact this.1.2

theorem keyed_v {s : State} (h : s.keyed = true) (t : TileRef) (g : Nat) : rising (getGroup (getTile s t) g).v = true := by
  have := keyed_getGroup (keyed_getTile h t) g
  simp only [Group.keyed, Bool.and_eq_true] at this
  exact this.2

/-! ### Vector and predicate registers -/

/-- Writing one value per lane: the listed lanes take their values, every other lane is as before. -/
theorem foldV (l : List (Nat × Word)) (x : Group) (r : Nat) (h : rising x.v = true) (hl : ∀ p ∈ l, p.1 < 64)
    (hn : (l.map (·.1)).Nodup) :
    (∀ p ∈ l, vReg (l.foldl (fun y p => setV y r p.1 p.2) x) r p.1 = p.2) ∧
    (∀ r' k, k < 64 → ¬ (r' = r ∧ k ∈ l.map (·.1)) → vReg (l.foldl (fun y p => setV y r p.1 p.2) x) r' k = vReg x r' k) ∧
    (l.foldl (fun y p => setV y r p.1 p.2) x) = { x with v := (l.foldl (fun y p => setV y r p.1 p.2) x).v } := by
  induction l generalizing x with
  | nil => exact ⟨by simp, fun _ _ _ _ => rfl, rfl⟩
  | cons q l ih =>
    simp only [List.map_cons, List.nodup_cons] at hn
    obtain ⟨i2, i3, i4⟩ := ih (setV x r q.1 q.2) (rising_set _ _ _ _ h) (fun p hp => hl p (by simp [hp])) hn.2
    have hq : q.1 < 64 := hl q (by simp)
    simp only [List.foldl_cons]
    refine ⟨?_, ?_, i4⟩
    · intro p hp
      rcases List.mem_cons.mp hp with e | hp
      · subst e
        rw [i3 r p.1 hq (by simp [hn.1])]
        exact get_set _ _ _ _ h
      · exact i2 p hp
    · intro r' k hk hne
      have hne1 : ¬ (r' = r ∧ k ∈ l.map (·.1)) := fun c => hne ⟨c.1, by simp only [List.map_cons, List.mem_cons]; exact .inr c.2⟩
      have hne2 : ¬ (r' = r ∧ k = q.1) := fun c => hne ⟨c.1, by simp only [List.map_cons, List.mem_cons]; exact .inl c.2⟩
      rw [i3 r' k hk hne1]
      exact get_set_ne _ _ _ _ _ (by omega)

theorem writesV_writeLanes (y : Group) (d : Nat) (is : List Nat) (f : Nat → Word) (h : rising y.v = true)
    (hl : ∀ k ∈ is, k < 64) (hn : is.Nodup) : WritesV y (advance (writeLanes y d is f)) d is f := by
  have e : (is.map (fun k => (k, f k))).map (·.1) = is := by simp [Function.comp_def]
  obtain ⟨i2, i3, i4⟩ := foldV (is.map (fun k => (k, f k))) y d h (by simpa using hl) (by rw [e]; exact hn)
  rw [e] at i3
  refine ⟨fun k hk => i2 (k, f k) (List.mem_map.mpr ⟨k, hk, rfl⟩), fun r k hk hne => i3 r k hk hne, ?_⟩
  have : writeLanes y d is f = { y with v := (writeLanes y d is f).v } := i4
  rw [this]
  rfl

theorem pReg_setP (x : Group) (r : Nat) (v : DWord) (h : rising x.p = true) (hr : r ≠ 0) : pReg (setP x r v) r = v := by
  simp only [pReg, setP, hr, if_false]
  exact get_set _ _ _ _ h

theorem pReg_setP_ne (x : Group) (r q : Nat) (v : DWord) (h : q ≠ r) : pReg (setP x r v) q = pReg x q := by
  simp only [pReg, setP]
  split
  · rfl
  · split
    · rfl
    · exact get_set_ne _ _ _ _ _ h

end Sys2Proof.Machine
end

