-- ==== Sys2Proof/Tests/Slice0.lean ====
section
/-! SUPPORT. Tests of single commands on small states: the words of the worked example of R161, a term that each check of
WellFormed.lean refuses, effects that the spec works out, and, for every statement with hypotheses, states and operands that meet
them (`witness_<Name>`). -/

namespace Sys2Proof.Tests

set_option maxRecDepth 20000
set_option Elab.async false

open Sys2Proof Sys2Proof.Machine Sys2Proof.Claims

/-! ### Small states -/

/-- Tile 0 of district 0. -/
def t0 : TileRef := { d := 0, l := 0 }
/-- Its shadow. -/
def sh0 : TileRef := { d := 0, l := 0, shadow := true }
/-- Group 0. -/
def g0 : GroupId := 0
/-- The guard p0: every thread and lane acts. -/
def all0 : Guard := { pg := 0, pn := false }

/-- A program of two groups with four declared pages. -/
def prog0 : TileProg :=
  { lchip := 0, d := 0, l := 0, groups := 2, vregs := 32, pages := 4, pinned := [0, 1, 2, 3], codeStart := 0, codeLen := 16,
    entries := [[0, 0]], paramLine := none, backing := 0 }

/-- An itinerary of one step of two positions, for tile 0. -/
def content0 : ItinContent :=
  { steps := [{ frames := [0, 0], repeats := 1 }], tiles := [prog0], code := [],
    frames := [{ sends := [], arrivals := [], slots := [] }],
    roads := [{ road := 3, hops := [(0, .localSwitch 0)], forks := [], ends := [(0, t0, 7)] }],
    regions := [], baseTargets := [], coordTargets := [] }

/-- A slot that holds it. -/
def slot0 : Slot := { length := 64, bytes := [], content := content0, failRule := 0, failOffset := 0 }

/-- Four pages in frames. -/
def frames0 : List PageFrame :=
  [0, 1, 2, 3].map (fun p => { page := p, pinned := true, dirty := false, lastUse := 0 })

/-- The tile at the start of a milestone. -/
def tile0 : Tile := { prog := some prog0, groups := [(0, {}), (1, { slot := 1 })], frames := frames0 }

/-- A device that runs the itinerary of slot 0. -/
def run0 : State :=
  { porstN := true, dev := .ready, readySeen := true, jrn := { kept := true }, tiles := [(0, tile0)], slots := [(0, slot0)],
    mem := { stacksOk := 0xFFF, trained := 1, installed := 256 }
    clk := { refOk := true, timeOk := true, locks := 0x7FFFF }
    sch := { committed := some 0, running := true }, boot := { cold := false, step := 7 } }

/-- The same with another tile 0. -/
def withTile (x : Tile) : State := { run0 with tiles := [(0, x)] }
/-- The same with another group 0. -/
def withGroup (y : Group) : State := withTile { tile0 with groups := [(0, y), (1, { slot := 1 })] }
/-- The same with another link 0. -/
def withLink (l : Link) : State := { run0 with links := [(0, l)] }
/-- A device in READY: no itinerary is committed. -/
def idle0 : State := { run0 with sch := {}, tiles := [] }

/-- Group 0 of tile 0 after a command. -/
def groupAfter (i : Instr) (s : State) : Group :=
  match exec i s with
  | .next u => getGroup (getTile u t0) 0
  | _ => {}

/-- The state after a command. -/
def after (i : Instr) (s : State) : State :=
  match exec i s with
  | .next u => u
  | _ => {}

/-! ### Decoding: the words of R161, and of R162 and R172 to R188 -/

theorem test_word_add : wordInstr t0 g0 0x0100010200000140 =
    some (.salu t0 g0 all0 { fn := 0, d := 1, a := 0, i := true, imm := 0x140 }) := by decide
theorem test_word_ld : wordInstr t0 g0 0x0802820400000000 =
    some (.ld t0 g0 all0 { fn := 2, space := 2, d := 2, a := 1, imm := 0 }) := by decide
theorem test_word_shr : wordInstr t0 g0 0x0103430A00000010 =
    some (.salu t0 g0 all0 { fn := 0x0D, d := 3, a := 2, i := true, imm := 16 }) := by decide
theorem test_word_and : wordInstr t0 g0 0x0102030E000000FF =
    some (.salu t0 g0 all0 { fn := 0x08, d := 3, a := 3, i := true, imm := 0xFF }) := by decide
theorem test_word_rng_seed : wordInstr t0 g0 0x1C00000000000003 = some (.rngSeed t0 g0 false 3) := by decide
theorem test_word_recv_wait : wordInstr t0 g0 0x1900000000000007 = some (.recvWait t0 g0 7) := by decide
theorem test_word_send_slot : wordInstr t0 g0 0x1800030000000400 = some (.sendSlot t0 g0 3 0x400) := by decide
theorem test_word_ms_end : wordInstr t0 g0 0x1200400000000000 = some (.msEnd t0 g0) := by decide
/-- OP 0x12, FN 2 in [51:46] (R149). -/
theorem test_word_stop : wordInstr t0 g0 0x1200800000000000 = some (.stop t0 g0) := by decide
/-- OP 0x44, X 1, TA 2, TB 3, FA 5, FB 5, KIND 1 (R172). -/
theorem test_word_mma : wordInstr t0 g0 0x4405355800000000 =
    some (.mma t0 g0 { x := 1, ta := 2, tb := 3, fa := 5, fb := 5 } true) := by decide
/-- The reserved bit 32 of format S is set (R129). -/
theorem test_word_reserved_bit : wordInstr t0 g0 0x0100010300000140 = none := by decide
/-- OP 0x00 is not used (R128). -/
theorem test_word_unused : wordInstr t0 g0 0 = none := by decide

/-! ### A term that each check refuses -/

/-- A SALU term with a function number. -/
def saluFn (fn : BitVec 6) : Instr := .salu t0 g0 all0 { fn := fn, d := 1, a := 0, i := true, imm := 0 }

theorem test_ill_salu : WellFormed.instr (saluFn 5) = false := by decide
theorem test_ill_salu_register : WellFormed.instr (.salu t0 g0 all0 { fn := 0, d := 1, a := 0, i := false, imm := 64 }) = false := by
  decide
theorem test_ill_movhi : WellFormed.instr (.salu t0 g0 all0 { fn := 0x18, d := 1, a := 1, i := true, imm := 0 }) = false := by decide
theorem test_ill_tid : WellFormed.instr (.salu t0 g0 all0 { fn := 0x1C, d := 1, a := 0, i := false, imm := 1 }) = false := by decide
theorem test_ill_scmp : WellFormed.instr (.scmp t0 g0 all0 { fn := 6, d := 1, a := 0, i := true, imm := 0 }) = false := by decide
theorem test_ill_scmp_p0 : WellFormed.instr (.scmp t0 g0 all0 { fn := 0, d := 0, a := 0, i := true, imm := 0 }) = false := by decide
theorem test_ill_pred : WellFormed.instr (.pred t0 g0 { fn := 0, d := 1, a := 8, i := false, imm := 0 }) = false := by decide
theorem test_ill_ld : WellFormed.instr (.ld t0 g0 all0 { fn := 7, space := 0, d := 1, a := 0, imm := 0 }) = false := by decide
theorem test_ill_ld_space : WellFormed.instr (.ld t0 g0 all0 { fn := 0, space := 2, d := 1, a := 0, imm := 0 }) = false := by decide
theorem test_ill_ld_vector : WellFormed.instr (.ld t0 g0 all0 { fn := 8, space := 0, d := 32, a := 0, imm := 0 }) = false := by decide
theorem test_ill_st : WellFormed.instr (.st t0 g0 all0 { fn := 3, space := 2, d := 1, a := 0, imm := 0 } []) = false := by decide
theorem test_ill_loop : WellFormed.instr (.loop t0 g0 true 0 1) = false := by decide
theorem test_ill_toll : WellFormed.instr (.toll t0 g0 5) = false := by decide
theorem test_ill_rng_seed : WellFormed.instr (.rngSeed t0 g0 true 256) = false := by decide
theorem test_ill_cnt_snap : WellFormed.instr (.cntSnap t0 g0 1 4) = false := by decide
theorem test_ill_vf : WellFormed.instr (.vf t0 g0 all0 { fn := 0, d := 0, a := 0, b := 0, c := 1, sb := false, sr := 0 }) = false := by
  decide
theorem test_ill_vi : WellFormed.instr (.vi t0 g0 all0 { fn := 0x0B, d := 0, a := 0, b := 0, c := 0, sb := false, sr := 0 }) = false :=
  by decide
theorem test_ill_operand_b : WellFormed.instr
    (.vi t0 g0 all0 { fn := 0, d := 0, a := 0, b := 0, c := 0, sb := false, sr := 1 }) = false := by decide
theorem test_ill_vcvt : WellFormed.instr (.vcvt t0 g0 all0 6 0 0) = false := by decide
theorem test_ill_vcmp : WellFormed.instr
    (.vcmp t0 g0 all0 { fn := 3, d := 1, a := 0, b := 0, c := 0, sb := false, sr := 0 }) = false := by decide
theorem test_ill_vsum : WellFormed.instr (.vsumCanon t0 g0 2 0 0) = false := by decide
theorem test_ill_tld : WellFormed.instr (.tld t0 g0 { t := 0, fmt := 13, a := 0, imm := 0 }) = false := by decide
/-- FP16 with KIND 0: the refused combination of R78 (R172). -/
theorem test_ill_mma_kind : WellFormed.instr (.mma t0 g0 { x := 0, ta := 0, tb := 1, fa := 6, fb := 6 } false) = false := by decide
theorem test_ill_mma_pair : WellFormed.instr (.mma t0 g0 { x := 0, ta := 0, tb := 1, fa := 0, fb := 5 } true) = false := by decide
theorem test_ill_rnd : WellFormed.instr
    (.rndExs t0 g0 { x := 0, mode := 3, sat := false, fmt := 0, a := 0, c := 0, stream := 0 }) = false := by decide
theorem test_ill_xred : WellFormed.instr (.xredPack t0 g0 { x := 0, r0 := 1, rn := 63, idx := 0, line := 0 }) = false := by decide
theorem test_ill_chk : WellFormed.instr (.chkRow t0 g0 { x := 0, ta := 0, tb := 1, fa := 13, fb := 0 }) = false := by decide
theorem test_ill_chk_cmp : WellFormed.instr (.chkCmp t0 g0 0 false false) = false := by decide
theorem test_ill_flit : WellFormed.instr (.flitReceive 0 0 []) = false := by decide
theorem test_ill_unit : WellFormed.instr (.hopUnitReceive (.localSwitch 0) { road := 0, ms := 0, hops := 0, last := false, data := [] })
    = false := by decide
theorem test_ill_flit_unit : WellFormed.instr
    (.hopUnitReceive (.linkTx 0) { road := 0, ms := 0, hops := 0, last := false, data := List.replicate 241 0 }) = false := by decide
theorem test_ill_refused : exec (saluFn 5) run0 = .refused .malformed := rfl

/-! ### Effects of tile instructions -/

/-- SHR of 0x8005002A by 16, as R161 computes it. -/
theorem test_shr : sReg (groupAfter (.salu t0 g0 all0 { fn := 0x0D, d := 3, a := 2, i := true, imm := 16 })
    (withGroup { s := [(67, 0x8005002A)] })) 3 3 = 0x8005 := by decide
/-- The address that R161's ADD makes: descriptor 10 × 0x20. -/
theorem test_add : sReg (groupAfter (.salu t0 g0 all0 { fn := 0, d := 1, a := 0, i := true, imm := 0x140 }) run0) 1 31 = 0x140 := by
  decide
/-- A write to s0 is discarded (R131). -/
theorem test_s0 : groupAfter (.salu t0 g0 all0 { fn := 0, d := 0, a := 0, i := true, imm := 5 }) run0 = { ia := 1 } := by decide
/-- A body of one word with two passes goes back once (R148). -/
theorem test_loop_back : (groupAfter (.nop t0 g0) (withGroup { ia := 9, loops := [{ first := 9, last := 9, left := 2 }] })).ia = 9 := by
  decide
/-- A store of 0x11223344 puts its least byte first (R102). -/
theorem test_store_order : (match exec (.st t0 g0 { pg := 1, pn := false } { fn := 2, space := 0, d := 1, a := 0, imm := 0x100 } [])
      (withGroup { s := [(32, 0x11223344)], p := [(1, 1)] }) with
    | .next u => [0x100, 0x103].map (SMap.get 0 (getTile u t0).spad)
    | _ => []) = [0x44, 0x11] := by decide
/-- A second group's access to a line that the first one wrote is LOCAL_CONFLICT, 0x3 (R106, R125). -/
theorem test_conflict : (match exec (.st t0 1 { pg := 0, pn := false } { fn := 2, space := 0, d := 1, a := 0, imm := 0x100 } [])
      (withTile { tile0 with tags := [(4, 1)] }) with
    | .next u => bits (getReg u (tileBase 0 0 + 0x60)) 31 24
    | _ => 0) = 0x83 := by decide

/-! ### Witnesses: tile instructions -/

theorem witness_StepRunsTheQueue :
    (let a : Arrived := ⟨0, 9, List.replicate 20 0 ++ leBytes 4 0 ++ List.replicate 8 0⟩
     let s : State := setReg (setReg { idle0 with ports := { arrived := [a] } } 0xB0004 0x222) 0xB0000 0
     let z : State := setReg s 0xB0000 1
     s.pending = [] ∧ s.ports.arrived = [a] ∧ z.ports.arrived = [a] ∧ forOther s (forwardedReq a) = false ∧
     forOther z (forwardedReq a) = true) ∧
    (idle0.pending = [] ∧ idle0.porstN = true ∧ atWork idle0 = false ∧ idle0.ports.arrived = [] ∧ idle0.boot.storeBusy = false ∧
      idle0.tme.measured = [] ∧
      (∀ k : Fin 4, bit (getReg idle0 (outBase k.val)) 31 = false)) ∧
    (State.reset.pending = [] ∧ State.reset.porstN = false) := by decide +kernel

/-- A well-formed SALU of each function. -/
def saluForms : List SFields :=
  ([0x00, 0x01, 0x02, 0x03, 0x04, 0x08, 0x09, 0x0A, 0x0C, 0x0D, 0x0E, 0x10, 0x11, 0x12, 0x13, 0x18].map
    (fun (fn : BitVec 6) => ({ fn := fn, d := 1, a := 0, i := true, imm := 0 } : SFields))) ++
  ([0x1C, 0x1D, 0x1E].map (fun (fn : BitVec 6) => ({ fn := fn, d := 1, a := 0, i := false, imm := 0 } : SFields)))

theorem witness_SaluFollowsItsTable :
    (∀ f, f ∈ saluForms → WellFormed.salu f = true ∧ Runs run0 t0 0 .scalar (sRegs f) []) ∧
    (WellFormed.salu { fn := 0, d := 0, a := 63, i := false, imm := 63 } = true ∧
      Runs run0 t0 0 .scalar (sRegs { fn := 0, d := 0, a := 63, i := false, imm := 63 }) []) ∧
    (cw 0x0101400000000000 63 56 = 0x01 ∧ cwS 0x0101400000000000 = { fn := 5, d := 0, a := 0, i := false, imm := 0 }) ∧
    (let w : DWord := 0x0100010200000140
     WellFormed.salu (cwS w) = true ∧ cw w 63 56 = 0x01 ∧ cwGuard w = all0 ∧ w.getLsbD 32 = false) := by decide

theorem witness_PredicateAndVectorInstructionsComplete :
    (∀ fn, fn ∈ [0, 5] → ∀ d, d ∈ [1, 7] → let f : SFields := { fn := fn, d := d, a := 0, i := true, imm := 0 }
      WellFormed.scmp f = true ∧ Runs run0 t0 0 .scalar ((sRegs f).drop 1) []) ∧
    (∀ fn, fn ∈ [0, 2, 8, 10] → let f : VFields := { fn := fn, d := 7, a := 31, b := 31, c := 0, sb := false, sr := 0 }
      WellFormed.vcmp f = true ∧ vregsOk run0 t0 (f.a.toNat :: vbOf f) = true ∧
      Runs run0 t0 0 .vector (srOf f) (f.a.toNat :: vbOf f)) ∧
    (∀ fn, fn ∈ [0, 3] → WellFormed.pred { fn := fn, d := 1, a := 7, i := false, imm := 7 } = true) ∧
    (WellFormed.pred { fn := 4, d := 7, a := 0, i := true, imm := 0xFFFFFFFF } = true ∧ Runs run0 t0 0 .scalar [] []) := by decide

theorem witness_PredicateAndVectorInstructionsComplete_lanes :
    (∀ fn, fn ∈ [0, 5] → let f : VFields := { fn := fn, d := 31, a := 31, b := 31, c := 0, sb := false, sr := 0 }
      WellFormed.vf f = true ∧ vregsOk run0 t0 (vfRegs f) = true ∧ Runs run0 t0 0 .vector (srOf f) (vfRegs f)) ∧
    (∀ fn, fn ∈ [0, 0x0A] → let f : VFields := { fn := fn, d := 31, a := 0, b := 0, c := 0, sb := true, sr := 63 }
      WellFormed.vi f = true ∧ vregsOk run0 t0 (viRegs f) = true ∧ Runs run0 t0 0 .vector (srOf f) (viRegs f)) ∧
    (vregsOk run0 t0 [31, 0] = true ∧ Runs run0 t0 0 .vector [] [31, 0]) ∧
    (∀ n, n ∈ [0, 3, 0x10, 0x19] → WellFormed.cntSnap (BitVec.ofNat 32 n) = true) ∧ Runs run0 t0 0 .scalar [63] [] ∧ Runs run0 t0 0 .transfer [63, 63] [] := by decide

theorem witness_ControlInstructionsComplete :
    Runs run0 t0 0 .scalar [] [] ∧ Runs run0 t0 0 .transfer [] [] ∧ brTaken false false (guardOf {} all0) = true ∧ brTaken false false (guardOf {} { all0 with pn := true }) = false ∧
    (∀ n, n ∈ [1, 32767] → WellFormed.instr (.loop t0 g0 true (BitVec.ofNat 16 n) 0) = true) ∧ Runs run0 t0 0 .scalar [63] [] ∧
    WellFormed.instr (.rngSeed t0 g0 true 255) = true ∧ WellFormed.instr (.rngSeed t0 g0 false 63) = true ∧
    (let e : Arrival := { tag := 7, line := 0, count := 1, mark := .plain }
     let s := withTile { tile0 with arrivals := [e] }
     Runs s t0 0 .transfer [] [] ∧ e ∈ (getTile s t0).arrivals ∧ e.landed = false) ∧
    (let e : LoopEntry := { first := 1, last := 4, left := 1 }
     4 = e.last ∧ e.left ≤ 1 ∧ 1 < ({ e with left := 2 } : LoopEntry).left ∧ 3 ≠ e.last) ∧ ({} : Group).loops = [] := by decide

theorem witness_WaitInstructionsComplete :
    Runs run0 t0 0 .scalar [] [] ∧ t0.shadow = false ∧ (0 : BitVec 3).toNat ≤ 2 ∧ (2 : BitVec 3).toNat ≤ 2 ∧ (4 : BitVec 3).toNat = 4 ∧
    tollPasses run0 t0 0 0 = true ∧ tollPasses run0 t0 0 1 = false ∧
    tollPasses (withTile { tile0 with groups := [(0, {}), (1, { slot := 1, wait := .msEnd })] }) t0 0 2 = true := by decide

/-- Loads and stores of U32, of the vector form, in a space. -/
def memForm (fn : BitVec 4) (space : BitVec 2) : MFields := { fn := fn, space := space, d := 31, a := 0, imm := 0x100 }

/-- No access to the lines raises anything, and no engine holds them. -/
abbrev freeLines (s : State) (f : MFields) (wr : Bool) : Prop :=
  let x := getTile s t0
  let ls := (accesses (getGroup x 0) all0 f).flatMap (fun p => linesOf p.2 (accBytes f))
  (∀ l, l ∈ ls → lineCheck x 0 wr none l = none ∧ engineHolds x wr l = false) ∧ missingPages x ls = []

theorem witness_ScratchpadLoadCompletes : ∀ fn, fn ∈ [0, 6, 8] → let f := memForm fn 0
    WellFormed.ld f = true ∧ vregsOk run0 t0 (memVRegs f) = true ∧ f.space = 0 ∧ Runs run0 t0 0 .memory (memSRegs f) (memVRegs f) ∧
    freeLines run0 f false := by decide

theorem witness_ScratchpadStoreCompletes : ∀ fn, fn ∈ [0, 3, 8] → let f := memForm fn 0
    WellFormed.st f = true ∧ vregsOk run0 t0 (memVRegs f) = true ∧ f.space = 0 ∧ Runs run0 t0 0 .memory (memSRegs f) (memVRegs f) ∧
    freeLines run0 f true := by decide

/-! ### Witnesses: device memory, transfers and engines -/

/-- Window 0 admits tiles and the host to the first 16 MiB. -/
def win0 : List (Nat × Word) := [(0x71008, 0x1000000), (0x71010, 0x8000000F)]
/-- A device with it. -/
def mem0 : State := { run0 with csr := win0 }
/-- Thread 0 alone. -/
def one0 : Guard := { pg := 1, pn := false }
/-- Group 0 with the guard of thread 0, and tile 0 with it. -/
def tile1 : Tile := { tile0 with groups := [(0, { p := [(1, 1)] }), (1, { slot := 1 })] }

/-- The window, tag and spill conditions on every access of group 0. -/
abbrev admitted (s : State) (gd : Guard) (f : MFields) (b : Nat) : Prop :=
  let acc := accesses (getGroup (getTile s t0) 0) gd f
  acc ≠ [] ∧ ∀ p, p ∈ acc → window s p.2 (accBytes f) b ≠ none ∧
    (∀ k, k ∈ blocksOf p.2 (accBytes f) → tagConflict s t0 0 k = false) ∧ inSpill p.2 = false

theorem witness_DeviceLoadTakesARequest : ∀ fn, fn ∈ [0, 6, 8] → let f := memForm fn 1
    WellFormed.ld f = true ∧ vregsOk mem0 t0 (memVRegs f) = true ∧ f.space = 1 ∧ Runs mem0 t0 0 .memory (memSRegs f) (memVRegs f) ∧
    t0.shadow = false ∧ queueRoom mem0 t0 = true ∧ freeReq (getTile mem0 t0) 0 = some 0 ∧ admitted mem0 all0 f 0 := by decide

/-- Window 0 admits the last 2 MiB of the spill space; the pools of the dies hold `hbm` GiB each and that of LPDDR5X `t2` (R295). -/
def spill0 (hbm t2 : Word) (placed : List (Nat × Placement)) : State :=
  { withTile { tile0 with groups := [(0, { s := [(32, 0x3FFFFFFFFFC)], p := [(1, 1)] }), (1, { slot := 1 })] } with
    csr := [(0x7000C, hbm), (0x70010, t2), (0x71000, 0xFFE00000), (0x71004, 0x3FF), (0x71008, 0x200000), (0x71010, 0x8000000F)]
    mem := { run0.mem with spill := placed } }
/-- A load of its last four bytes by thread 0. -/
def spillLoad : MFields := { fn := 2, space := 1, d := 31, a := 1, imm := 0 }

theorem witness_DeviceLoadTakesARequest_spill :
    (let s := spill0 1 0 []
     let x := getTile s t0
     let a := 0x3FFFFFFFFFC
     WellFormed.ld spillLoad = true ∧ vregsOk s t0 (memVRegs spillLoad) = true ∧ spillLoad.space = 1 ∧
     Runs s t0 0 .memory (memSRegs spillLoad) (memVRegs spillLoad) ∧ queueRoom s t0 = true ∧ freeReq x 0 = some 0 ∧
     accesses (getGroup x 0) one0 spillLoad = [(0, a)] ∧ window s a (accBytes spillLoad) 0 ≠ none ∧
     (∀ b, b ∈ blocksOf a 4 → tagConflict s t0 0 b = false) ∧ inSpill a = true ∧ placeOf s (a / 2 ^ 21) = none ∧
     choosePlace s (quadOf t0.d.val) = some (.hbm 0)) ∧
    choosePlace (spill0 0 1 []) 0 = some .t2 ∧ placeOf (spill0 1 0 [(0x1FFFFF, .t2)]) (0x3FFFFFFFFFC / 2 ^ 21) ≠ none := by decide +kernel

theorem witness_DeviceStoreCompletes : ∀ fn, fn ∈ [0, 3, 8] → let f := memForm fn 1
    WellFormed.st f = true ∧ vregsOk mem0 t0 (memVRegs f) = true ∧ f.space = 1 ∧ Runs mem0 t0 0 .memory (memSRegs f) (memVRegs f) ∧
    t0.shadow = false ∧ freeReq (getTile mem0 t0) 0 = some 0 ∧ admitted mem0 all0 f 1 ∧
    (∀ p, p ∈ ([] : Damage) → p.2 = .ok) ∧ (getTag mem0 0).retainStep ≠ some mem0.sch.stepFirst := by decide

/-- District 0 samples tile 0. -/
def shadow0 (q : List LoadRec) : State :=
  { run0 with tiles := [(0, tile0), (8, { tile0 with loadQ := q })], dists := [(0, { sample := [{ l := 0, primary := 0, shadow := 8 }] })] }

theorem witness_DescriptorAndShadowLoadsComplete :
    (let f : MFields := { fn := 3, space := 2, d := 2, a := 0, imm := 0x7FF8 }
     WellFormed.ld f = true ∧ Runs run0 t0 0 .memory (memSRegs f) (memVRegs f) ∧ accesses {} all0 f ≠ [] ∧ queueRoom run0 t0 = true ∧
     (∀ p, p ∈ accesses {} all0 f → p.2 < 2 ^ 15)) ∧
    (let f := memForm 2 1
     let e : LoadRec := { group := 0, ia := 0, count := 0, data := [(0, 1), (1, 2)] }
     let s := shadow0 [e]
     WellFormed.ld f = true ∧ vregsOk s sh0 (memVRegs f) = true ∧ Runs s sh0 0 .memory (memSRegs f) (memVRegs f) ∧ sh0.shadow = true ∧
     f.space ≠ 0 ∧ shadowViols s { f with space := 2 } false [(0, 0x7FFC)] = [] ∧ (getTile s sh0).loadQ.find? (fun e => decide (e.group = 0) && decide (e.count = (getGroup (getTile s sh0) 0).loads))
       = some e) := by decide

/-- Threads 0 to 4. -/
def five : Guard := { pg := 1, pn := false }
/-- Tile 0 with addresses in s1 of threads 0 to 4: line 4 carries group 1's tag, line 5 is still to arrive, line 6 departs. -/
def tile5 (a : List DWord) : Tile :=
  { tile0 with groups := [(0, { s := (List.range 5).map (fun k => (32 + k, (a[k]?).getD 0)), p := [(1, 31)] }), (1, { slot := 1 })],
               tags := [(4, 2)], locks := [{ first := 6, count := 1, who := .send 3 }],
               arrivals := [{ tag := 7, line := 5, count := 1, mark := .plain }] }
/-- A load or a store of four bytes at s1. -/
def form5 (space : BitVec 2) : MFields := { fn := 2, space := space, d := 2, a := 1, imm := 0 }
/-- Thread 0 alone at address 256: nothing admits it, or window 0 does and another tile has written its block in this milestone. -/
def dev5 (conflict : Bool) : State :=
  let s := withTile { tile5 [] with groups := [(0, { s := [(32, 256)], p := [(1, 1)] }), (1, { slot := 1 })] }
  if conflict then { s with csr := win0, mem := { s.mem with tags := [(0, { written := true, tile := 9 })] } } else s
/-- The same with the shadow of tile 0, which has its next load in the queue. -/
def shadow5 : State :=
  { dev5 false with tiles := (dev5 false).tiles ++
      [(8, { getTile (dev5 false) t0 with loadQ := [{ group := 0, ia := 0, count := 0, data := [(0, 1)] }] })],
                    dists := [(0, { sample := [{ l := 0, primary := 0, shadow := 8 }] })] }

theorem witness_ViolatingAccessesWriteNothing :
    (let s := withTile (tile5 [0, 256, 320, 384, 0x40000])
     let x := getTile s t0
     let f := form5 0
     let ls := (accesses (getGroup x 0) five f).flatMap (fun p => linesOf p.2 (accBytes f))
     s.keyed = true ∧ vregsOk s t0 (memVRegs f) = true ∧ Runs s t0 0 .memory (memSRegs f) (memVRegs f) ∧
     WellFormed.ld f = true ∧ WellFormed.st f = true ∧ ls = [0, 4, 5, 6, 4096] ∧
     (∀ l, l ∈ ls → engineHolds x false l = false ∧ engineHolds x true l = false) ∧ missingPages x ls = [] ∧
     otherTag x 0 4 = true ∧ expected x none 5 = true ∧ isLocked x 6 = true ∧ spadEnd x = 0x40000) ∧
    (let s := withTile (tile5 [0x7FFC, 0x8000])
     WellFormed.ld (form5 2) = true ∧ t0.shadow = false ∧ queueRoom s t0 = true ∧
     accesses (getGroup (getTile s t0) 0) five (form5 2) = [(0, 0x7FFC), (1, 0x8000), (2, 0), (3, 0), (4, 0)]) ∧
    (∀ c, c ∈ [true, false] → let s := dev5 c
     s.keyed = true ∧ accesses (getGroup (getTile s t0) 0) one0 (form5 1) = [(0, 256)] ∧ queueRoom s t0 = true ∧
     freeReq (getTile s t0) 0 = some 0 ∧ Runs s t0 0 .memory (memSRegs (form5 1)) (memVRegs (form5 1)) ∧
     (c = false → window s 256 4 0 = none ∧ window s 256 4 1 = none) ∧
     (c = true → window s 256 4 0 ≠ none ∧ window s 256 4 1 ≠ none ∧ (blocksOf 256 4).any (tagConflict s t0 0) = true)) ∧
    (let s := shadow5
     let x := getTile s sh0
     s.keyed = true ∧ sh0.shadow = true ∧ Runs s sh0 0 .memory (memSRegs (form5 1)) (memVRegs (form5 1)) ∧
     vregsOk s sh0 (memVRegs (form5 1)) = true ∧ accesses (getGroup x 0) one0 (form5 1) = [(0, 256)] ∧
     shadowViols s (form5 1) false [(0, 256)] ≠ [] ∧ shadowViols s (form5 1) true [(0, 256)] ≠ [] ∧
     (x.loadQ.find? (fun e => decide (e.group = 0) && decide (e.ia = (getGroup x 0).ia) &&
       decide (e.count = (getGroup x 0).loads))).isSome = true) := by
  and_intros <;> decide +kernel

/-- A store of thread 0 to line 0 lands beside four that violate. -/
theorem test_violating_store : (let s := withTile (tile5 [0, 256, 320, 384, 0x40000])
    let x := getTile (after (.st t0 g0 five { form5 0 with d := 1, a := 1, fn := 1, imm := 0 } []) s) t0
    (x.viols, x.spad)) = ([(3, 0, 4), (2, 0, 5), (3, 0, 6), (1, 0, 4096)], []) := by decide +kernel

/-- Send entry 3 of R161: group 0, eight lines. -/
def send3 : SendEntry := { sid := 3, group := 0, lines := 8, depart := 2600, road := 3 }

theorem witness_SendSlotCompletes :
    let s := withTile { tile0 with sends := [send3] }
    Runs s t0 0 .transfer [] [] ∧ usableSend s t0 0 (3 : BitVec 9).toNat = some send3 ∧ t0.shadow = false ∧
    (∀ l, l ∈ lineSpan (0x400 : BitVec 17).toNat send3.lines →
      lineCheck (getTile s t0) 0 false none l = none ∧ engineHolds (getTile s t0) false l = false) ∧
    missingPages (getTile s t0) (lineSpan (0x400 : BitVec 17).toNat send3.lines) = [] := by decide

/-- The example of R161: entry 3 is PENDING and its eight lines are locked. -/
theorem test_send_slot : (match exec (.sendSlot t0 g0 3 0x400) (withTile { tile0 with sends := [send3] }) with
    | .next u => ((getTile u t0).sends.map (·.state), (getTile u t0).locks)
    | _ => ([], [])) = ([.pending 0x400 0x400 8 false], [{ first := 0x400, count := 8, who := .send 3 }]) := by decide

/-- After the departure cycle the entry can not be used (R157). -/
theorem test_send_slot_late : (let s := withTile { tile0 with sends := [send3] }
    (usableSend s t0 0 3).isSome = true ∧ usableSend { s with clk := { s.clk with cycle := [(0, 2601)] } } t0 0 3 = none) := by decide

/-- FP8 E4M3 pairs and accumulators of the engine tests. -/
def pair0 : PairFields := { x := 3, ta := 7, tb := 6, fa := 0, fb := 4 }

theorem witness_EngineInstructionsAreQueued :
    (∀ c, c ∈ [0, 0xC] → Queues run0 t0 0 .operand (.tld { t := 7, fmt := BitVec.ofNat 4 c, a := 63, imm := 0 } 0) [63] []) ∧
    Queues run0 t0 0 .operand (.xclr 3 true) [] [] ∧ Queues run0 t0 0 .operand (.xld 0 0) [0] [] ∧
    Queues run0 t0 0 .operand (.xst 0 0) [0] [] ∧
    (WellFormed.mma pair0 true = true ∧ Queues run0 t0 0 .array (.mma pair0 true) [] []) ∧
    (∀ c, c ∈ [0, 0xE] → let f : RndFields := { x := 0, mode := 2, sat := true, fmt := BitVec.ofNat 4 c, a := 1, c := 2, stream := 0 }
      f.mode ≠ 3 ∧ Queues run0 t0 0 .operand (.rnd f 0 0 0) [1, 2] []) ∧
    (let s := withTile { tile0 with sends := [send3] }
     let f : XredFields := { x := 0, r0 := 0, rn := 63, idx := 3, line := 0x400 }
     WellFormed.xred f = true ∧ usableSend s t0 0 f.idx.toNat = some send3 ∧ Queues s t0 0 .xred (.pack f) [] []) ∧
    (let f : XredFields := { x := 0, r0 := 63, rn := 0, idx := 7, line := 0 }
     WellFormed.xred f = true ∧ Queues run0 t0 0 .xred (.add f) [] []) ∧
    (let f : FcombFields := { d := 31, a := 31, hi := true, tag := 7, line := 0 }
     vregsOk run0 t0 [f.d.toNat, f.a.toNat] = true ∧ Queues run0 t0 0 .xred (.fcomb f []) [] [31, 31]) ∧
    (WellFormed.chkPair pair0 = true ∧ Queues run0 t0 0 .operand (.chkRow pair0) [] [] ∧
      Queues run0 t0 0 .operand (.chkCol pair0) [] []) ∧ Queues run0 t0 0 .operand (.chkCmp 3 true false) [] [] := by
  refine ⟨?_, ?_, ?_, ?_, ?_, ?_, ?_, ?_, ?_, ?_, ?_⟩ <;> decide

/-- A queued instruction, and a tile with it at the head of an engine's queue. -/
def queued (e : EngineId) (op : EngOp) (started : Bool) : QueuedOp :=
  { id := 0, engine := e, group := 0, op := op, started := started }
def engine0 (e : EngineId) (op : EngOp) (started : Bool) : State :=
  withTile { tile0 with queue := [queued e op started], nextOp := 1, sends := [{ send3 with lines := 400, state := .encoding 0 }] }
/-- The instruction runs on its engine. -/
abbrev onEngine (e : EngineId) (op : EngOp) : Prop :=
  (engine0 e op true).keyed = true ∧ atWork (engine0 e op true) = true ∧ runningOp (getTile (engine0 e op true) t0) e = some (queued e op true)

theorem witness_EngineResultsInTileState :
    (let s := engine0 .operand (.xclr 0 true) false
     s.keyed = true ∧ atWork s = true ∧ frozen s = false ∧
     startable (getTile s t0) .operand = some (queued .operand (.xclr 0 true) false) ∧
     opMissing (getTile s t0) (imageWide (getTile s t0) (.xclr 0 true)) (.xclr 0 true) = [] ∧
     startCheck (getTile s t0) (queued .operand (.xclr 0 true) false) = none) ∧
    onEngine .operand (.tld { t := 0, fmt := 0, a := 0, imm := 0 } 0) ∧ onEngine .operand (.xclr 0 true) ∧
    onEngine .operand (.xld 0 0) ∧ onEngine .array (.mma pair0 true) ∧
    onEngine .xred (.add { x := 0, r0 := 0, rn := 0, idx := 7, line := 0 }) ∧ onEngine .operand (.chkRow pair0) ∧
    onEngine .operand (.chkCol pair0) := by decide

theorem witness_EngineResultsInScratchpadAndLanes :
    onEngine .operand (.xst 0 0) ∧
    onEngine .operand (.rnd { x := 0, mode := 0, sat := false, fmt := 0, a := 0, c := 0, stream := 0 } 0 0 0) ∧
    (let f : XredFields := { x := 0, r0 := 0, rn := 0, idx := 3, line := 0x400 }
     let x := getTile (engine0 .xred (.pack f) true) t0
     let a := getAcc x 0
     onEngine .xred (.pack f) ∧ sendEntry x 3 = some { send3 with lines := 400, state := .encoding 0 } ∧
     ceilDiv (wireBlock a.wide a.terms ((List.range 64).map (fun n => accElem a (n / 64) (n % 64)))).length 64 ≤ 400) ∧
    onEngine .xred (.fcomb { d := 0, a := 0, hi := false, tag := 7, line := 0 } []) := by decide +kernel

theorem witness_ResidueMismatchIsCaught :
    onEngine .operand (.chkCmp 0 true true) ∧ badRows { rnf := 0xFFFFFFFFFFFFFFFF } = [] ∧
    badCols { cnf := 0xFFFFFFFFFFFFFFFF } = [] ∧ badRows { rnf := 0xFFFFFFFFFFFFFFDF, e := [(5, 1)] } ≠ [] ∧
    bit (getReg run0 0x00060010) 31 = false ∧ bit (getReg (setReg run0 0x00060010 0x80000000) 0x00060010) 31 = true ∧ 3 < 4 ∧
    posOf run0 t0 < 16 := by decide +kernel

theorem witness_TileInstructionsWaitOrAreRefused :
    instrTile (saluFn 5) = some (t0, g0) ∧ WellFormed.instr (saluFn 5) = false ∧ instrTile (saluFn 4) = some (t0, g0) ∧
    WellFormed.instr (saluFn 4) = true ∧ vregsOk run0 t0 (WellFormed.vregs (saluFn 4)) = true ∧
    canIssue idle0 t0 0 (instrPort (saluFn 4)) = false := by decide

/-- Four instructions issue in a cycle; a port takes what R101 gives it, and the scan does not go back to a slot it has passed. -/
theorem test_issue_limits :
    issueRoom { tile0 with slate := [(0, .scalar), (1, .scalar), (2, .scalar), (3, .scalar)] } 0 .memory = false ∧
    issueRoom { tile0 with slate := [(0, .matrix)] } 1 .matrix = false ∧ issueRoom { tile0 with slate := [(0, .memory)] } 1 .memory = true ∧
    issueRoom { tile0 with slate := [(1, .scalar)] } 0 .scalar = false ∧
    issueRoom { tile0 with rr := 1, slate := [(1, .scalar)] } 0 .scalar = true := by decide

/-! ### Witnesses: tile events, milestones and waymarks -/

/-- A line for tag 7 on its way to tile 0. -/
def line7 : RoadUnit := { road := 3, ms := 0, hops := 0, last := false, data := List.replicate 64 9 }
def flight7 : Flight := { src := .localSwitch 0, dests := [.tile t0 7], u := line7 }
/-- District 0 has come to cycle 2,600, the departure cycle of entry 3. -/
def atDepart (x : Tile) : State := { withTile x with clk := { run0.clk with cycle := [(0, 2600)] }, flights := [flight7] }

theorem witness_TransfersAtATile :
    (let s := atDepart { tile0 with sends := [{ send3 with state := .pending 0x400 0x400 8 false }, { send3 with sid := 4 }],
                                    arrivals := [{ tag := 7, line := 0, count := 64, mark := .plain }] }
     let x := getTile s t0
     s.keyed = true ∧ atWork s = true ∧ s.sch.forced = false ∧ t0.shadow = false ∧ x.forced = false ∧
     frozen s = false ∧ sendEntry x (3 : BitVec 9).toNat = some { send3 with state := .pending 0x400 0x400 8 false } ∧
     departsNow s t0 { send3 with state := .pending 0x400 0x400 8 false } = true ∧
     (sendEntry x (4 : BitVec 9).toNat).any (fun e => departsNow s t0 e && decide (e.state = .idle)) = true ∧
     nextFlight s (.tile t0 (7 : BitVec 9).toNat) (fun _ => true) = some flight7 ∧ dropped s line7 = false ∧
     (x.arrivals.find? (fun e => decide (e.tag = (7 : BitVec 9).toNat))).any (fun e => decide (e.got.length < e.count)) = true ∧
     x.arrivals.find? (fun e => decide (e.tag = (8 : BitVec 9).toNat)) = none) ∧
    (let s := { atDepart tile0 with hops := [(hopKey (.localSwitch 0), { table := [
        { slot := 0, road := 3, count := 8, outs := [], isLast := true, ends := [(t0, 7)] }] })] }
     let h := getHop s (.localSwitch 0)
     let units := (List.range (min 8 (16 - h.verge.length))).map (fun i => ({
       road := BitVec.ofNat 16 3, ms := BitVec.ofNat 8 s.sch.jobMs, hops := BitVec.ofNat 8 ((roadHops s 3).length - 1),
       last := false && decide (i + 1 = 8), data := spadRead (getTile s t0) (64 * (0x400 + i)) 64 } : RoadUnit))
     firstHop s t0 3 = .localSwitch 0 ∧ units.length = 8 ∧
     (∀ k, k < 8 → ∀ v, v ∈ units[k]? → dropped s v = false ∧
       unitFault s (turnEntry (afterUnits h.table (h.verge ++ units.take k))) v = none)) :=
  ⟨by decide +kernel, by decide +kernel⟩

/-- A departure of more lines than the verge has room for hands over 16 (R206). -/
theorem test_departure_verge : (getHop (after (.departure t0 3)
    { atDepart { tile0 with sends := [{ send3 with lines := 20, state := .pending 0x400 0x400 20 false }] } with
      hops := [(hopKey (.localSwitch 0), { table := [
        { slot := 0, road := 3, count := 20, outs := [], isLast := true, ends := [(t0, 7)] }] })] }) (.localSwitch 0)).verge.length
    = 16 := by decide +kernel

/-- An arrival of one line ends the RECV.WAIT on its tag (R158). -/
theorem test_arrival_wakes : (groupAfter (.lineArrival t0 7) (atDepart { tile0 with
    groups := [(0, { wait := .recv 7 }), (1, {})], arrivals := [{ tag := 7, line := 0, count := 1, mark := .plain }] })).wait = .none := by
  decide +kernel

/-- A load of s5 by thread 0 that waits for its data, from address 64. -/
def load0 : MemReq := { id := 127, group := 0, ia := 0, store := false, dest := 5, puts := [(64, .s 5 0 9)] }

theorem witness_MemoryRequestsEnd :
    (let s := withTile { tile0 with reqs := [load0] }
     s.keyed = true ∧ (getTile s t0).reqs.find? (fun q => decide (q.id = (127 : Fin 128).val) && !q.store) = some load0 ∧
     load0.puts[0]? = some (64, .s 5 0 9) ∧ outcomeAt (loadDamage s load0 []) 64 = .ok ∧
     outcomeAt (loadDamage s load0 [(64, .corrected)]) 64 = .corrected) ∧
    (let s := withTile { tile0 with reqs := [{ load0 with store := true }] }
     s.keyed = true ∧
     (getTile s t0).reqs.find? (fun q => decide (q.id = (127 : Fin 128).val) && q.store) = some { load0 with store := true }) := by
  decide +kernel

theorem test_load_returns : sReg (groupAfter (.ldDataReturn t0 127 []) (withTile { tile0 with reqs := [load0] })) 5 0 = 9 := by
  decide +kernel

theorem witness_SwapsAndPartitionResetsEnd :
    (let s := withTile { tile0 with groups := [(0, { wait := .recv 7, waited := 256 }), (1, { resident := false })] }
     let x := getTile s t0
     s.keyed = true ∧ atWork s = true ∧ x.prog ≠ none ∧ x.swap = none ∧ inPreset s t0 = false ∧ swapOut x = some 0 ∧ swapIn x = some 1) ∧
    (let x := getTile (withTile { tile0 with swap := some { out := 0, into := 1, cycles := 418 } }) t0
     x.swap = some { out := 0, into := 1, cycles := 418 } ∧ x.prog = some prog0 ∧ 0 ≠ 1 ∧
     32 + ceilDiv (16512 + 256 * prog0.vregs) 64 = 418) ∧
    (pageFirsts [0x3FFFFE00040, 0x3FFFFE00080] = [0x3FFFFE00040] ∧
     (placeBacking 0 [0x3FFFFE00040] (spill0 1 0 [])).2 = [] ∧ (placeBacking 0 [0x3FFFFE00040] (spill0 0 0 [])).2 = [0x3FFFFE00040]) ∧
    (let x := getTile (withTile { tile0 with pageSwaps := [127] }) t0
     x.pageSwaps.contains (127 : Fin 128).val = true ∧ x.frames.length < 32) ∧
    (let x : Tile := { frames := (List.range 32).map (fun p => { page := p, pinned := false, dirty := false, lastUse := p }) }
     ¬ x.frames.length < 32 ∧ evictable x ≠ none) ∧
    (let s : State := { run0 with mem := { run0.mem with preset := 8 } }
     s.keyed = true ∧ s.mem.preset.getLsbD (3 : Fin 4).val = true ∧ s.dev ≠ .fault ∧ inTurn s 4 = true ∧
     inTurn { s with sch := { s.sch with holds := 2 } } 4 = false) := by decide +kernel

/-- Every group of tile 0 has finished. -/
def ended0 : State := withTile { tile0 with groups := [(0, { wait := .stop }), (1, { slot := 1, wait := .msEnd })] }

/-- The outcome of one district's test. -/
def tested0 : RwResult := { d := 5, margin := 20, scanFails := false, signature := 0, residue := none }

theorem witness_MilestonesEndOnTheChip :
    (ended0.keyed = true ∧ Memory.wf ended0.mem = true ∧ ended0.dev = .ready ∧ isCommitted ended0 = true ∧ ended0.sch.running = true ∧
     ended0.sch.done = false ∧ chipReady ended0 = true ∧ (∀ d, d < 144 → (getDist ended0 d).sample = []) ∧
     chipReady { run0 with sch := { run0.sch with forced := true } } = true) ∧
    (let s := { ended0 with sch := { ended0.sch with position := 1 } }
     s.keyed = true ∧ Memory.wf s.mem = true ∧ isCommitted s = true ∧ s.sch.running = true ∧ s.sch.done = false ∧
     lastOfStep s = true ∧ tilesEnded s = true ∧ s.dig.busy = false ∧ s.mem.writeback = false ∧ s.sch.wbDone = false) ∧
    (let c : Retain := { block := 0, step := 0, bytes := [], check := none, inHbm := true }
     let s : State := { run0 with mem := { run0.mem with writeback := true, retained := [c] } }
     s.keyed = true ∧ Memory.wf s.mem = true ∧ s.mem.writeback = true ∧ c ∈ stepCopies s ∧ 4095 / 4096 = c.block ∧
     blockSound s [] c.block = true ∧ blockSound s [(64, .uncorrectable)] c.block = false) ∧
    (let s : State := { run0 with dig := { busy := true } }
     s.keyed = true ∧ Memory.wf s.mem = true ∧ s.dig.busy = true ∧ s.dev ≠ .fault ∧ ({ s with dev := .fault } : State).keyed = true) ∧
    (let s : State := setReg { run0 with dig := { busy := true } } 0x00070010 0x00010000
     let a := 0x10004000000 + gib
     inProtection s a = true ∧ a < 0x20000000000 ∧ (∀ p, p ∈ ([(a, .corrected)] : Damage) → p.2 ≠ .uncorrectable)) ∧
    (let s : State := { run0 with dists := [(5, { spare := 0x18 }), (7, { spare := 0x18, heating := true })] }
     s.keyed = true ∧ underTest (getDist s (5 : Fin 144).val).spare = true ∧ (getDist s 5).tested = none ∧
     (getDist s 5).heating = false ∧ (getDist s 7).heating = true ∧
     [tested0].filter (fun q => decide (q.d = 5)) = [tested0] ∧ underTest (getDist s 6).spare = false) := by decide +kernel

/-- The chip is done with the running milestone, 160 cycles ago, and no neighbour is missing; every district has come to cycle L. -/
def done0 (f : List (Nat × Flags)) (p : Nat) : State :=
  { run0 with
    sch := { run0.sch with done := true, relayed := f, position := p, sinceDone := 160, sinceMet := 32 }
    clk := { run0.clk with cycle := [(0, 1), (1, 1), (2, 1), (3, 1)] } }

theorem witness_BoundariesMoveTheCounters :
    (∀ n, n ∈ [1, 2] → let s := { done0 [] 0 with ports := { survey := some (1, true, BitVec.ofNat 64 n) } }
      boundaryReady s = true ∧ jobEnds s = false ∧ (decide ((BitVec.ofNat 64 n).toNat ≤ s.sch.jobMs + 1) = decide (n = 1))) ∧
    (run0.keyed = true ∧ quietWrites run0 = true ∧ boundaryReady run0 = false) ∧
    (boundaryReady (done0 [] 0) = true ∧ jobEnds (done0 [] 0) = false ∧ actingFlags (done0 [] 0) = none) ∧
    boundaryReady { done0 [] 0 with clk := run0.clk } = false ∧
    (let s := done0 [] 0
     boundaryReady { s with sch := { s.sch with sinceDone := 159 } } = false ∧
     boundaryReady { s with sch := { s.sch with sinceMet := 31 } } = false) ∧
    (boundaryReady (done0 [(0, { abandon := true })] 0) = true ∧ jobEnds (done0 [(0, { abandon := true })] 0) = false ∧
      actingFlags (done0 [(0, { abandon := true })] 0) = some { abandon := true }) ∧
    (boundaryReady (done0 [(0, {})] 1) = true ∧ jobEnds (done0 [(0, {})] 1) = true) ∧
    (let s := { run0 with sch := { run0.sch with running := false } }
     s.dev = .ready ∧ isCommitted s = true ∧ s.sch.running = false ∧ s.sch.detour = none ∧ reached s s.sch.startTime = true ∧
     frozenFor s 0 = false ∧ startsHeard s (neighbours s) = true) ∧
    (let d : Detour := { j := 9, p := 1, g := 1, t0 := 0 }
     let s := { run0 with sch := { run0.sch with detour := some d, holds := 0b01000000000 } }
     s.sch.detour = some d ∧ restartReady s d = true) := by decide +kernel

/-- A staged write of the host, and one that took effect at a position. -/
def staged0 (a : Nat) (v : Word) (rec : Bool) : StagedWrite := { addr := a, data := v, src := .host 0, time := 77, recorded := rec }
def effect0 (p a : Nat) (o v : Word) : Effected := { pos := p, addr := a, old := o, val := v, data := v }
/-- A device with writes of every kind that wait for a boundary, and a tollgate that has completed. -/
def waiting0 (s : State) : State :=
  { s with sch := { s.sch with
      staged := [staged0 0xA0100 5 true, staged0 0xA0104 6 false, staged0 0xA0100 7 true]
      schedule := [(1, 0xA0108, 8), (0, 0xA010C, 9)], reapply := [effect0 1 0xA0110 0 3, effect0 5 0xA0114 0 4]
      effected := [effect0 0 0xA0118 1 2, effect0 1 0xA011C 3 4, effect0 1 0xA011C 4 5]
      tollgates := [{ sender := .host 0, dport := 0, frame := [] }] } }
/-- READY with an itinerary committed. -/
def committed0 : State := { run0 with sch := { run0.sch with running := false } }

theorem witness_WaitingWritesTakeEffectInOrder :
    (∀ p, p ∈ [(done0 [] 0, none), (done0 [(0, { abandon := true })] 1, some true), (done0 [(0, {})] 1, some false)] →
      let s := waiting0 p.1
      s.keyed = true ∧ quietWrites s = true ∧ ampleRoom s = true ∧ boundaryReady s = true ∧ gateNow s = true ∧
      (actingFlags s).map (·.abandon) = p.2 ∧ jobEnds s = decide (p.2 = some false)) ∧
    (∀ a, a ∈ [0xA0100, 0xA0104, 0xA0108, 0xA010C, 0xA0110, 0xA0114, 0xA0118, 0xA011C] → plainReg a = true) ∧
    (let s := waiting0 committed0
     s.keyed = true ∧ quietWrites s = true ∧ ampleRoom s = true ∧ s.dev = .ready ∧ isCommitted s = true ∧ s.sch.running = false ∧
     s.sch.detour = none ∧ reached s s.sch.startTime = true ∧ frozenFor s 0 = false ∧ startsHeard s (neighbours s) = true) := by
  and_intros <;> decide +kernel

/-- The registers that the boundary leaves behind: reapplied, scheduled and staged writes have taken effect. -/
theorem test_boundary_writes : (let u := after (.milestoneBoundary []) (waiting0 (done0 [] 0))
    ([0xA0100, 0xA0104, 0xA0108, 0xA010C, 0xA0110].map (getReg u), u.sch.staged)) = ([7, 6, 8, 0, 3], []) := by decide +kernel

/-- Districts whose tests end in each way, and that second strikes and a triage retire positions of. -/
def dists0 : List (Nat × District) :=
  [(0, { spare := 0x18, tested := some .fails }), (1, { spare := 0x18, tested := some .passes }), (2, { spare := 0x18 }),
   (4, { spare := 0xF }), (5, { strikes := [(3, 0), (3, 0)] }), (6, { strikes := [(8, 0), (8, 0)] }),
   (7, { strikes := [(2, 0), (5, 0), (2, 0), (5, 0)] }), (8, { due := [(2, 8)] }), (9, { spare := 0xF, strikes := [(1, 0), (1, 0)] }),
   (10, { spare := 0x18, strikes := [(1, 0), (1, 0)] })]

theorem witness_BoundariesRetireAndTestPositions :
    (∀ b, b ∈ [true, false] →
      let s := setReg { done0 (if b then [(0, { abandon := true })] else []) 0 with dists := dists0 } 0x00060000 0x40000000
      s.keyed = true ∧ quietWrites s = true ∧ ampleRoom s = true ∧ boundaryReady s = true ∧ jobEnds s = false ∧
      (actingFlags s).map (·.abandon) = (if b then some true else none) ∧ s.sch.effected = []) ∧
    (let x := fun d => ((dists0.find? (fun p => decide (p.1 = d))).map (·.2)).getD {}
     [5, 6, 7, 8, 9, 10].map (fun d => struck (x d)) = [[3], [8], [2, 5], [], [1], [1]] ∧
     [5, 6, 7, 8, 9, 10].map (fun d => freePos (x d).spare) = [8, 8, 8, 8, 0xF, 8] ∧
     ((x 10).due = [] ∧ underTest (x 10).spare = true ∧ (x 8).due = [(2, 8)] ∧ underTest (x 8).spare = false) ∧
     [3, 8, 2, 5, 1].map (tileAtPos (x 5).map) = [some 3, none, some 2, some 5, some 1]) := by
  and_intros <;> decide +kernel

/-- A WAY flit of chip 9, and its bytes in the buffer of link 0, which carries the dependency mask where `mask` is 1. -/
def way (kind : Byte) : WayFlit :=
  { kind := kind, round := if kind = 1 then 0 else 1, jobMs := 0, milestone := 0, origin := 9, sender := 9, time := 0, flags := 0, causes := 0,
    seq := if kind = 3 ∨ kind = 4 then 1 else 0, freezeFrom := 0, resume := 0 }
def masked (mask : Word) (kind : Byte) : State :=
  { run0 with csr := [(0xB0008, mask)], links := [(0, { state := .active, partner := 9, inWay := [
      { bytes := wayBytes (way kind), stamp := 0, replayed := false }] })] }

theorem witness_WayFlitsAreTakenUp :
    (∀ n, n ∈ [1, 2, 3, 4, 5] → ∀ i, i ∈ [1, 2] →
      let k := BitVec.ofNat 8 n
      let s := masked (BitVec.ofNat 32 i) k
      s.keyed = true ∧ (getLink s (0 : LinkId).val).inWay = [{ bytes := wayBytes (way k), stamp := 0, replayed := false }] ∧
      readWay (wayBytes (way k)) = way k ∧ (way k).kind = k ∧ inMask s (0 : LinkId).val = decide (i = 1)) ∧
    (way 1).jobMs.toNat = wayNext (masked 1 1) 0 ∧
    (noticeNew (masked 1 3) (way 3) 0 = true ∧ seenSeq (masked 1 3) (way 3).origin.toNat 1 ≠ (way 3).seq.toNat + 1) ∧
    noticeNew (masked 1 4) (way 4) 1 = true ∧
    (let s := masked 1 5
     let t : State := { s with sch := { s.sch with startFrom := [(0, 9)] } }
     let e := ((0 : LinkId).val, (getLink t (0 : LinkId).val).partner)
     e ∉ t.sch.startOwed ∧ e ∈ t.sch.startFrom) ∧
    (let s := { run0 with sch := { run0.sch with resumeAt := some 0, holds := 0b01000000000 } }
     s.keyed = true ∧ s.sch.resumeAt = some 0 ∧ s.sch.holds &&& 0b10111111111 = 0 ∧ reached s 0 = true) ∧
    (let s := { masked 1 1 with
       sch := { run0.sch with done := true, sinceDone := 16385 }
       clk := { run0.clk with cycle := [(0, 16386), (1, 16386), (2, 16386), (3, 16386)] } }
     isCommitted s = true ∧ s.sch.running = true ∧ s.sch.done = true ∧ heardAll s s.sch.jobMs = false ∧
     (getReg s 0x000A0030).toNat < s.sch.sinceDone ∧ allReached s (milestoneLen s + (getReg s 0x000A0030).toNat + 1) = true) := by decide +kernel

/-- A line of road 3 with a number of hops left. -/
def unit0 (ms hops : BitVec 8) : RoadUnit := { road := 3, ms := ms, hops := hops, last := false, data := [] }
/-- A slot table entry of road 3 that ends at tile 0. -/
def entry0 : SlotEntry := { slot := 5, road := 3, count := 8, outs := [], isLast := true, ends := [(t0, 7)] }
/-- A unit on its way to a hop from a local switch. -/
def flight0 (h : HopId) (u : RoadUnit) : Flight := { src := .localSwitch 1, dests := [.hop h], u := u }
/-- What waits at a transmitter of a transfer on road 3: nothing, or 14 lines, whose last 176 bytes wait for their flit. -/
def pack0 (k : Nat) : Pack := { road := 3, ms := 0, bytes := List.replicate (176 * k) 7, lines := 14 * k }
/-- A device with one hop, a unit on its way to it, and the die and the links at slot 5. -/
def withHop (h : HopId) (x : Hop) (u : RoadUnit) : State :=
  { run0 with hops := [(hopKey h, x)], flights := [flight0 h u],
              clk := { run0.clk with cycle := [(0, 5)], linkNs := 7 } }
/-- A device with a unit in the buffer of the ingress of link 0. -/
def ingress (x : Hop) (u : RoadUnit) : State := { withHop (.linkIn 0) x (unit0 9 0) with links := [(0, { inSch := x.verge ++ [u] })] }

theorem witness_HopsPassUnitsInOrder :
    (let s := ingress {} (unit0 1 0)
     s.keyed = true ∧ s.dev ≠ .fault ∧ nextIngress s 0 = some (unit0 1 0) ∧ dropped s (unit0 1 0) = false ∧
     aheadOfTime s (unit0 1 0) = true) ∧
    (∀ n, n ∈ [0, 16] → let s := ingress { table := [entry0], verge := List.replicate n (unit0 0 1) } (unit0 0 0)
      s.keyed = true ∧ s.dev ≠ .fault ∧ nextIngress s 0 = some (unit0 0 0) ∧ dropped s (unit0 0 0) = false ∧
      aheadOfTime s (unit0 0 0) = false ∧ (getHop s (.linkIn 0)).verge.length = n ∧ mayWait s (.linkIn 0) 0 = false) ∧
    (∀ n, n ∈ [0, 16] → let v := unit0 0 0
      let h := HopId.localSwitch 0
      let s := withHop h { table := [entry0], verge := List.replicate n v } v
      s.keyed = true ∧ s.dev ≠ .fault ∧ nextFlight s (.hop h) (fun w => w == v) = some (flight0 h v) ∧ (flight0 h v).src ≠ h ∧
      dropped s v = false ∧ (getHop s h).verge.length = n) ∧
    ((∀ n, HopId.localSwitch 0 ≠ .linkIn n) ∧ (∀ n, HopId.localSwitch 0 ≠ .linkTx n) ∧ (∀ m, HopId.localSwitch 1 ≠ .linkIn m)) ∧
    (∀ k, k ∈ [0, 1] → let v := unit0 0 1
     let h := HopId.linkTx 0
     let s := { withHop h { table := [entry0], packs := [pack0 k] } v with slots := [(0, { slot0 with content := { content0 with
       frames := [{ sends := [{ lchip := 0, d := 0, l := 0, sid := 3, group := 0, lines := 16, depart := 0, road := 3 }], arrivals := [], slots := [] }] } })] }
     nextFlight s (.hop h) (fun w => w == v) = some (flight0 h v) ∧ (flight0 h v).src ≠ h ∧ dropped s v = false ∧
     (packLine (getHop s h) (roadLines s v.road.toNat) v).2.map (dropped s) = List.replicate k false ∧
     (getHop s h).verge.length < 16) ∧
    (let h := HopId.localSwitch 0
     let s := withHop h { table := [entry0], verge := [unit0 0 0] } (unit0 0 0)
     s.keyed = true ∧ s.dev ≠ .fault ∧ atWork s = true ∧ frozen s = false ∧ (getHop s h).verge = [unit0 0 0] ∧
     dropped s (unit0 0 0) = false ∧ turnEntry (getHop s h).table = some entry0 ∧ unitFault s (some entry0) (unit0 0 0) = none ∧
     slotNow s h = 5 ∧ scheduledSlot h entry0 = 5 ∧ (getHop s h).used < 1 ∧ outputFree s h = true ∧ turnNow s h entry0 = true ∧
     slotNow run0 h < scheduledSlot h entry0 ∧ unitFault s (some entry0) (unit0 1 0) = some (0x15, 0) ∧
     unitFault s (some { entry0 with road := 4 }) (unit0 0 0) = some (0x10, 5) ∧ unitFault s none (unit0 0 0) = some (0x10, 0) ∧
     unitFault s (some { entry0 with isLast := false }) (unit0 0 0) = some (0x12, 5)) ∧
    (let s := withHop (.linkTx 23) { table := [entry0], verge := [unit0 0 1] } (unit0 0 1)
     turnEntry (getHop s (.linkTx 23)).table = some entry0 ∧ slotNow s (.linkTx 23) = 5 ∧ outputFree s (.linkTx 23) = true ∧
     linkDiscards s (23 : LinkId).val = false ∧ (getLink s 23).waiting = []) ∧
    (let e : SlotEntry := { entry0 with outs := [.bridge 0 true] }
     let s := ingress { table := [e], verge := [unit0 0 1] } (unit0 0 1)
     turnEntry (getHop s (.linkIn 0)).table = some e ∧ e.outs = [.bridge 0 true] ∧ takesLines (.bridge 0 true) = true ∧
     (getHop s (.linkIn 0)).early = [] ∧ slotNow s (.linkIn 0) = 5 ∧ outputFree s (.linkIn 0) = true) ∧
    (let p : SchOut := { payload := [], last := false, slot := 0 }
     let s := withLink { state := .active, schQ := [p], starved := 65 }
     s.keyed = true ∧ s.dev ≠ .fault ∧ (getLink s 0).schQ = [p] ∧ linkActive s 0 = true ∧ creditOk (getLink s 0) 0 = false ∧
     64 < (getLink s 0).starved ∧ isCommitted s = true ∧ frozen s = false) := by
  and_intros <;> decide +kernel



/-! ### Witnesses: links -/

/-- An ACTIVE link with credits of every class. -/
def link0 : Link :=
  { state := .active, full := false, lanes := 15, version := 0x20, partner := 9, lanesOk := 15,
    credits := (List.range 6).map (fun k => (k, { adv := 64, limit := 64 })) }
/-- A flit kept for a replay. -/
def kept0 : TxFlit := { seq := 0, cls := .sch, last := true, payload := [7] }

theorem witness_OneFlitLeavesByPriority :
    ((withLink link0).keyed = true ∧ linkActive (withLink link0) (0 : LinkId).val = true) ∧
    replayFlit { link0 with unacked := [kept0], replayAt := some 0 } = some kept0 ∧
    (let l := { link0 with wayQ := [[1]] }
     replayFlit l = none ∧ l.replaySlots = 0 ∧ l.wayQ = [[1]] ∧ (!l.wayQ.isEmpty && mayLeave l 1) = true) ∧
    (let l := { link0 with schQ := [{ payload := [], last := true, slot := 4 }] }
     (!l.wayQ.isEmpty && mayLeave l 1) = false ∧ (!l.schQ.isEmpty && mayLeave l 0 && !frozen (withLink l)) = true) ∧
    (let l := { link0 with mgtQ := [[1]] }
     (!l.schQ.isEmpty && mayLeave l 0) = false ∧ (!l.mgtQ.isEmpty && mayLeave l 2 && !oldLink l) = true) ∧
    (!link0.mgtQ.isEmpty && mayLeave link0 2 && !oldLink link0) = false := by decide +kernel

/-- WAY before SCH (R242). -/
theorem test_way_first : (getLink (after (.flitTransmit 0)
    (withLink { link0 with wayQ := [[1]], schQ := [{ payload := [], last := true, slot := 4 }] })) 0).unacked.map (·.cls) = [.way] := by decide +kernel

/-- A flit of a class with an empty payload and a check. -/
def flit0 (cls check : Nat) : List Byte := leBytes 4 (cls * 2 ^ 30) ++ List.replicate 244 0 ++ leBytes 8 check
/-- A WAY flit of the payload that R200 lays out, with its check. -/
def wayFlit (check : Nat) : List Byte := leBytes 4 (2 ^ 30) ++ wayBytes (way 1) ++ leBytes 8 check
/-- An MGT flit with fragment 0 of `n` of frame 9: a command for every chip. -/
def mgtFlit (n : Byte) (check : Nat) : List Byte :=
  leBytes 4 (2 * 2 ^ 30) ++ [n, 0, 9, 0] ++ leBytes 2 0xD96C ++ [0x10, 0x55] ++ List.replicate 16 0 ++ leBytes 4 0xFFFFFFFF ++
  List.replicate 216 0 ++ leBytes 8 check
/-- The conditions under which it is accepted. -/
abbrev sound (f : List Byte) (cls : Nat) : Prop :=
  let h : Word := BitVec.ofNat 32 (num f 0 4)
  flitCrc 0 f = BitVec.ofNat 64 (num f 248 8) ∧ bits h 31 30 = cls ∧ badHeader cls h = false ∧ bits h 28 25 = 0 ∧
  ackValid link0 (BitVec.ofNat 16 (bits h 24 9)) = true

theorem witness_FlitsAreAcceptedInOrder :
    (sound (flit0 0 0) 0 ∧ sound (wayFlit 16570605466704797378) 1 ∧ sound (flit0 1 8200995300975075243) 1 ∧
      sound (flit0 3 10543026008155283709) 3 ∧ hasRoom (withLink link0) 0 0 = true ∧ hasRoom (withLink link0) 0 1 = true ∧
      wayWellFormed (slice (wayFlit 0) 4 244) = true ∧ wayWellFormed (slice (flit0 1 0) 4 244) = false ∧
      inMask { withLink link0 with csr := [(0xB0008, 1)] } 0 = true) ∧
    (sound (mgtFlit 1 2425007056394430534) 2 ∧ sound (mgtFlit 2 17685747585998596192) 2 ∧ oldLink link0 = false ∧
      hasRoom (withLink link0) 0 2 = true ∧ (addPart (withLink link0) 0 7 (slice (mgtFlit 2 0) 4 244)).2 = none ∧
      (∀ b, b ∈ (addPart (withLink link0) 0 7 (slice (mgtFlit 1 0) 4 244)).2 → num b 20 4 = 0xFFFFFFFF ∧ num b 4 2 % 2 = 0) ∧
      (addPart (withLink link0) 0 7 (slice (mgtFlit 1 0) 4 244)).2 ≠ none) ∧
    (¬ flitCrc 0 (flit0 0 1) = BitVec.ofNat 64 (num (flit0 0 1) 248 8) ∧ link0.nakState = false) ∧
    (([kept0] : List TxFlit) ≠ [] ∧ ∀ g, g ∈ [{ kept0 with replays := 7 }] → g.replays < 8) ∧
    (getReg run0 0x000A0034).toNat < 20000 := by decide +kernel

/-- A training block with its parity byte (R250). -/
def block (v : Nat) : BitVec 128 :=
  BitVec.ofNat 128 (v + 2 ^ 120 * (List.range 15).foldl (fun x i => x ^^^ (v / 256 ^ i % 256)) 0)
/-- A block of chip 9 with a TYPE, ACK, the versions 1.1 to 2.0, every lane usable, and the fields chosen for it. -/
def block9 (type ack c : Nat) : BitVec 128 :=
  block (type + 2048 * ack + 2 ^ 16 * 15 + 2 ^ 20 * 0x20 + 2 ^ 28 * 0x11 + 2 ^ 36 * c + 2 ^ 100 * 15 + 2 ^ 108 * 0x20)
/-- A block of chip 9 with a TYPE that belongs to a full initialisation. -/
def initBlock (type : Nat) : BitVec 128 := block9 (type + 1024) 0 9
/-- What it carries. -/
def chosen9 : Chosen := { laneSet := 15, width := 0, rate := 0, version := 0x20 }

theorem witness_TrainingAdvances :
    (∀ st, st ∈ [LinkState.detect, .align] → (withLink { state := st }).keyed = true ∧ ({ state := st } : Link).failedWait = false) ∧
    (blockError (block9 1 0 9) = none ∧ tsInit (block9 1 0 9) = false) ∧ (blockError (block9 3 0 9) = none ∧ tsInit (block9 3 0 9) = false) ∧
    (run0.dev ≠ .fault ∧ blockError (block9 1 0 9) = none ∧ tsInit (block9 1 0 9) = false ∧
      (∀ c, c ∈ [1, 2, 3] → blockError (initBlock c) = none ∧ tsInit (initBlock c) = true)) ∧
    (let l : Link := { state := .verify, failTimes := [0, 0], full := false }
     let times := (l.failTimes ++ [run0.tme.age]).filter (fun t => decide (run0.tme.age - t ≤ 10000000))
     l.state = .verify ∧ l.failedWait = false ∧ l.full = false ∧ 3 ≤ times.length) ∧
    (let l : Link := { state := .pause, ts1Seen := true, full := false, failedWait := true }
     l.state ≠ .test ∧ l.state ≠ .disabled ∧ l.state ≠ .down ∧ l.failedWait = true ∧ l.ts1Seen = true ∧
     ({ l with failedWait := false } : Link).failedWait = false ∧ ({ l with full := true, failTimes := [0, 0, 0] } : Link).full = true) ∧
    ((withLink { state := .test }).keyed = true ∧ ({ state := .test } : Link).failedWait = false ∧
      (List.range 8).all (parityOk 1) = false) := by decide +kernel

/-- The lines of a wire block of n elements, on road 3 (R87, R183). -/
def wireLines (n : Nat) : List RoadUnit :=
  let l := wireBlock false 1 (List.replicate n { x := 5 })
  (List.range (ceilDiv l.length 64)).map (fun i => { road := 3, ms := 0, hops := 1, last := false, data := slice l (64 * i) 64 })

/-- The units, the block and the chosen fields of the first and the last cases of the statement: one line, and 16 lines of four flits. -/
theorem witness_WhatALinkSendsReadsBack :
    (∀ n, n ∈ [1, 4, 15, 16] → let us : List RoadUnit := List.replicate n { road := 3, ms := 0, hops := 1, last := false, data := List.replicate 64 7 }
      us ≠ [] ∧ (∀ u, u ∈ us → u.road = (3 : BitVec 16) ∧ u.ms = (0 : BitVec 8) ∧ u.hops = (1 : BitVec 8) ∧ u.last = false ∧
        u.data.length = 64) ∧ (∀ p, p ∈ ({} : Hop).packs ++ ({} : Hop).packs → ¬ (p.road = 3 ∧ p.ms = 0))) ∧
    (let us := wireLines 8
     us ≠ [] ∧ us.length ≤ 70 ∧ (∀ u, u ∈ us → u.road = 3 ∧ u.ms = 0 ∧ u.hops = 1 ∧ u.last = false ∧ u.data.length = 64) ∧
     announcedLines (((markLast true us).foldl (fun (z : Hop × List RoadUnit) u =>
       let p := packLine z.1 70 u; (p.1, z.2 ++ p.2)) ({}, [])).2.flatMap (·.data)) = some us.length) ∧
    (let l : Link := { askWidth := 2, askRate := 1, chosen := some chosen9 }
     l.askWidth ≠ 3 ∧ l.askRate ≠ 3 ∧ (∀ c, l.chosen = some c → c.width ≠ 3 ∧ c.rate ≠ 3)) := by
  refine ⟨by decide +kernel, by decide +kernel, by decide, by decide, ?_⟩
  intro c h
  cases h
  decide

/-- 15 lines fill four flits, and 16 fill five (R204). -/
theorem test_flits_of_lines :
    [1, 15, 16].map (fun n => ((List.replicate n ({ road := 3, ms := 0, hops := 1, last := false, data := List.replicate 64 7 } : RoadUnit)).foldl
      (fun (z : Hop × Nat) u => let p := packLine z.1 n u; (p.1, z.2 + p.2.length)) ({}, 0)).2) = [1, 4, 5] := by decide +kernel

theorem witness_NegotiationReachesActive :
    (let l : Link := { state := .negotiate, lanesOk := 15 }
     let s := setReg (withLink l) 0x000B0000 3
     s.keyed = true ∧ blockError (block9 2 1 9) = none ∧ tsInit (block9 2 1 9) = false ∧ l.full = true ∧ l.state = .negotiate ∧
     l.failedWait = false ∧ pickVersion s (block9 2 1 9) = some 0x20 ∧ takeExpect l (block9 2 1 9) = some l ∧
     (coord s).toNat < (tsCoord (block9 2 1 9)).toNat ∧ l.chosen = none ∧ choose s 0 (block9 2 1 9) 0x20 = some chosen9 ∧
     tsAck (block9 2 1 9) = true ∧ tsChosen (block9 2 1 9) = chosen9) ∧
    (let s := setReg (withLink { state := .negotiate, lanesOk := 15 }) 0x000B0000 9
     tsCoord (block9 2 1 9) = coord s) ∧
    choose (withLink { state := .negotiate, lanesOk := 0 }) 0 (block9 2 1 9) 0x20 = none ∧
    (let l : Link := { state := .negotiate, chosen := some chosen9, ackSent := true }
     l.chosen = some chosen9 ∧ l.ackSent = true) ∧
    (let s := setReg (withLink { state := .negotiate, lanesOk := 15 }) 0x000B0000 3
     pickVersion s (block9 2 1 1) = some 0x20 ∧ blockError (block9 2 1 1) = none ∧ (tsCoord (block9 2 1 1)).toNat < (coord s).toNat ∧
     tsAck (block9 2 1 1) = true ∧ (tsChosen (block9 2 1 1)).width.toNat ≤ askedWidth {} (block9 2 1 1)) ∧
    (let b := block (2 + 2048 + 2 ^ 16 * 15 + 2 ^ 20 * 0x20 + 2 ^ 28 * 0x11 + 2 ^ 36 + 2 ^ 100 + 2 ^ 104 * 2 + 2 ^ 108 * 0x20)
     let s := setReg (setReg (withLink { state := .negotiate }) 0x000B0000 3) (lnkBase 0) 0x80000000
     blockError b = none ∧ askedWidth {} b < (tsChosen b).width.toNat ∧ autoNarrow s 0 = false) ∧
    (let l : Link := { state := .verify, chosen := some chosen9, unacked := [kept0] }
     l.chosen = some chosen9 ∧ l.state = .verify ∧ l.failedWait = false ∧ l.unacked ≠ []) ∧
    (∀ m, m < 24 → m ≠ 0 → (getLink (withLink { state := .verify }) m).raised = false) := by decide +kernel

theorem witness_RetrainsAndFailures :
    ((withLink link0).keyed = true ∧ linkActive (withLink link0) 0 = true ∧ link0.lanes.getLsbD (3 : Fin 4).val = true) ∧
    (let l : Link := { state := .pause, full := false }
     attempting l = true ∧ l.full = false ∧
     ((l.failTimes ++ [run0.tme.age]).filter (fun t => decide (run0.tme.age - t ≤ 10000000))).length < 3) ∧
    (let l : Link := { state := .pause, full := false, failTimes := [0, 0] }
     attempting l = true ∧ 3 ≤ ((l.failTimes ++ [run0.tme.age]).filter (fun t => decide (run0.tme.age - t ≤ 10000000))).length) ∧
    run0.dev ≠ .fault ∧
    blockError 1 = some 1 ∧ blockError 0 = some 2 := by decide +kernel

/-- TS1 after its 64 ns in PAUSE is over leads to ALIGN, as for chip B at 460 ns of the timeline (R251, R258). -/
theorem test_ts1_after_pause_timer :
    (getLink (after (.ts1 0 (block9 1 0 9)) (withLink { state := .pause, full := false, pauseOver := true })) 0).state = .align := by
  decide +kernel

/-! ### Witnesses: clocks, power, time -/

/-- A device with one district changed. -/
def withDist (d : Nat) (x : District) : State := { run0 with dists := [(d, x)] }

theorem witness_ClockCommandsComplete :
    (run0.keyed = true ∧ (∀ q, q < 4 → clocksRun run0 q = true)) ∧
    (leastMargin 0 < bits (getReg run0 0x00030008) 15 8 ∧ ¬ leastMargin 0xFFFFFFFF < bits (getReg run0 0x00030008) 15 8) ∧
    (streetNeighbour (143 : Fin 144).val (0 : Fin 4).val = some 137 ∧
      eventAhead (getDist (withDist 137 { event := 1 }) 137).event (getDist (withDist 137 { event := 1 }) 143).event = true) ∧
    (streetNeighbour (0 : Fin 144).val (1 : Fin 4).val ≠ none ∧ (1 : Fin 4).val ∉ (getDist run0 0).stopped) ∧
    (let s := { withDist 35 { stopped := [0] } with sch := { run0.sch with holds := 8 } }
     clocksRun s (0 : Fin 4).val = true ∧ frozen s = true ∧ dieStopped s (0 : Fin 4).val = true ∧ inTurn s 3 = true) ∧
    (let g : Flight := { src := .street 0 1, dests := [.hop (.street 6 1)], u := unit0 0 1 }
     let s := { withDist 6 { stopped := [0] } with flights := [g], sch := { run0.sch with holds := 8 } }
     s.flights.filter (onStreet (0 : Fin 4).val) = [g] ∧ dropped s (unit0 0 1) = false ∧ (getHop s (.street 6 1)).verge.length + 1 ≤ 16 ∧
     dieStopped s (0 : Fin 4).val = true ∧ (onStreet (1 : Fin 4).val g = false)) ∧
    (run0.porstN = true ∧ run0.dev ≠ .fault ∧ run0.holding = []) := by decide +kernel

theorem witness_PowerControllerKeepsItsBounds :
    (run0.keyed = true ∧ controls run0 = true ∧ (∀ q, q < 4 → 8 ≤ (getDie run0 q).budget ∧ (getDie run0 q).budget ≤ 64) ∧
      SMap.rising run0.pwr.dies = true ∧ SMap.rising run0.pwr.districtFj = true) ∧
    (let r : PowerReading := { mv := [], districtC := [255], stackC := [] }
     let s := { run0 with pwr := { hot := [0] } }
     controls s = true ∧ 0 ∈ s.pwr.hot ∧ 0 ∉ run0.pwr.hot ∧
     bits (getReg s 0x00040010) 15 8 ≤ min 255 ((r.districtC[0]?).getD 0)) := by decide +kernel

/-- A Sync with its Delay_Req of number 5, and a port with a PTP master behind it. -/
def exchange0 : Exchange := { port := .host, syncId := 5, t1 := some 0, t2 := 100, cS := 0, reqId := 5, t3 := 200 }
def slave0 (t : TimeUnit) : State :=
  setReg { run0 with ports := { hostUp := true, mgtUp := true }, tme := { t with exchanges := [{ exchange0 with reqId := 4 , syncId := 4}, exchange0] } }
    0x00050020 1
/-- A message of domain 0. -/
def msg (stamp : Nat) : PtpMsg := { stamp := stamp, correction := 0, domain := 0, seqId := 5, twoStep := false, source := 0 }
/-- The measurement that the message completes. -/
def theta (stamp : Nat) : Int := ptpTheta 0 0 100 200 stamp 0

theorem witness_MeasurementsSteerTheClock :
    (let s := slave0 {}
     let before := [{ exchange0 with reqId := 4, syncId := 4 }]
     ({ msg 0 with requester := ownIdentity s .host } : PtpMsg).requester = ownIdentity s .host ∧ (msg 0).requester ≠ ownIdentity s .host ∧
     s.keyed = true ∧ takesAsSlave s .host (msg 0) = true ∧ s.tme.exchanges = before ++ exchange0 :: [] ∧ exchange0.port = .host ∧
     exchange0.reqId = (msg 0).seqId ∧ exchange0.t1 = some 0 ∧ exchange0.resp = none ∧
     (∀ x, x ∈ before ++ [] → ¬ (x.port = .host ∧ x.reqId = (msg 0).seqId) ∧ completeExchange x = false) ∧
     s.tme.isSet = false ∧ s.tme.stepped = none ∧ s.tme.measured = [] ∧ s.porstN = true ∧ (slave0 { stepped := some 1 }).tme.stepped ≠ none) ∧
    (let s := slave0 { isSet := true }
     s.tme.isSet = true ∧ (getReg s 0x0005001C).toNat < (theta 10000).natAbs ∧ (theta 100).natAbs ≤ (getReg s 0x0005001C).toNat) ∧
    (let t : Word := BitVec.ofInt 32 ((100 : Int).fdiv 10)
     0 < (t - 5).toNat ∧ (t - 5).toNat < 2 ^ 31 ∧ (t - t).toNat = 0 ∧ 2 ^ 31 ≤ (t - 0x8000000A).toNat) := by decide +kernel

theorem witness_PtpMessagesAreAnswered :
    (takesAsSlave (slave0 {}) .host (msg 0) = true ∧
      (let e : Exchange := { exchange0 with t1 := none }
       let before := [{ exchange0 with reqId := 4, syncId := 4 }]
       e.port = .host ∧ e.syncId = (msg 0).seqId ∧ e.t1 = none ∧ e.resp = none ∧
       (∀ x, x ∈ before ++ [] → ¬ (x.port = .host ∧ x.syncId = (msg 0).seqId) ∧ completeExchange x = false))) ∧
    (let s := setReg (slave0 {}) 0x00050028 8
     isMaster s .mgt = true ∧ (msg 0).domain.toNat = bits (ptpCfg s) 31 24 ∧ runsTwoStep s .mgt = false) ∧
    (let s := setReg (slave0 {}) 0x00050028 0x28
     isMaster s .mgt = true ∧ runsTwoStep s .mgt = true) := by decide +kernel

theorem witness_TimeEventsComplete :
    (run0.keyed = true ∧ run0.porstN = true ∧ run0.wrstN = true ∧ wrapsNext run0 = false ∧ run0.tme.slewLeft ≠ 1 ∧
      wrapsNext { run0 with tme := { c := 0xFFFFFFFF } } = true ∧
      (settleMeasures { run0 with tme := { slewLeft := 1, slew := 5 } }).tme.slewLeft = 1 ∧ (settleMeasures run0).tme.slewLeft ≠ 1) ∧
    (let s := setReg (setReg run0 (outBase 3) 0x80000001) (outBase 3 + 8) 0x90000000
     reached s (getReg s (outBase 3 + 12)) = true ∧ reached s (getReg s (outBase 3 + 12) + getReg s (outBase 3 + 8)) = true ∧
     reached s (0x1000 : Word) = false) ∧
    (∀ k : Fin 4, let s := setReg run0 (outBase k.val) 0x80000001
      bit (getReg s (outBase k.val)) 31 = true ∧ reached s (getReg s (outBase k.val + 12)) = true ∧ getReg s (outBase k.val + 8) = 0) ∧
    (∀ j : Fin 2, let s := setReg run0 (0x00050080 + 0x10 * j.val) 0xC0000003
      let c := getReg s (0x00050080 + 0x10 * j.val)
      bit c 31 = true ∧ bit c 0 = true ∧ bit c 1 = true ∧ bit c 30 = true) ∧
    (let c := getReg (setReg run0 0x00050080 0x80000003) 0x00050080
     bit c 31 = true ∧ bit c 0 = true ∧ bit c 30 = false) := by decide +kernel

/-- Where the HBM3E scrub starts over. -/
def lastLine : Nat := 0x9000000000 - 64

theorem witness_ScrubVisitsEveryLine :
    let s : State := setReg { run0 with mem := { run0.mem with scrubHbm := lastLine } } 0x00070014 1
    s.keyed = true ∧ s.porstN = true ∧ s.wrstN = true ∧ bits (getReg s 0x00070014) 15 0 ≠ 0 ∧ usableT2 s ≠ 0 ∧ s.mem.trained = 1 ∧
    s.mem.stacksOk.getLsbD (stackOf s.mem.scrubHbm) = true ∧ s.mem.scrubHbm < 0x9000000000 ∧ s.mem.scrubHbm % 4096 = 4032 ∧
    s.mem.scrubT2 < 2 ^ 40 ∧ s.dev ≠ .fault ∧ s.holding = [] ∧ s.mem.preset.getLsbD (s.mem.scrubHbm / 0x2400000000) = false ∧
    (let t : State := { s with mem := { s.mem with tags := [(lastLine / 4096, { check := some 0 }), (0x10000000, { check := some 0 })] } }
     (getTag t (knownAs t t.mem.scrubHbm / 4096)).check ≠ none ∧ (getTag t (knownAs t (0x10000000000 + t.mem.scrubT2) / 4096)).check ≠ none) ∧
    (let t := { spill0 1 0 [(0x1FFFFF, .hbm 0)] with mem := { (spill0 1 0 [(0x1FFFFF, .hbm 0)]).mem with tags := [(0x3FFFFFFF, { check := some 0 })] } }
     let a := poolBase t (.hbm 0) + 0x1FFFC0
     knownAs t a = 0x3FFFFFFFFC0 ∧ liesAt t 0x3FFFFFFFFC0 = a ∧ (getTag t (knownAs t a / 4096)).check = some 0) := by
  and_intros <;> decide +kernel

theorem witness_JournalEngineCommandsComplete :
    (let s : State := { run0 with sinceRecord := 0x80000000 }
     s.jrn.kept = true ∧ tickDue s = true ∧ roomNow s = true ∧ tickDue { s with sinceRecord := 0x7FFFFFFF } = false) ∧
    (let e : Draft := { milestone := 0, type := 0x40, srcFlags := 0, time := 0, a0 := 1, a1 := 0, a2 := 0 }
     let s : State := { run0 with sinceRecord := 0x80000000, jrn := { kept := true, held := [e] } }
     tickDue s = true ∧ s.jrn.held = [] ++ [e] ∧ e.type = 0x40) ∧
    (let j : SealJob := { header := List.replicate 128 0, covered := 0, flash := true }
     let s : State := { run0 with jrn := { kept := true, running := some j } }
     s.jrn.running = some j ∧ roomNow s = true) ∧
    (let x : Seal := { number := 0, covered := 0, header := [], signature := 0 }
     let s : State := { run0 with jrn := { kept := true, flashWait := [x] }, boot := { run0.boot with flashMode := 1 } }
     s.jrn.flashWait = [x] ∧ s.boot.storeBusy = false ∧ storeAhead s = false ∧ flashUsable s = true) := by decide +kernel

/-! ### Witnesses: register writes -/

/-- A host. -/
def hostA : Source := .host 1
/-- The host port holds the low word of a pair, with its record or without it. -/
def retaining (owed : Option Nat) (s : State) : State := { s with holding := [{ src := .host 0, low := some 0, owed := owed }] }
/-- As many writes as there are wait for a boundary. -/
def waiting (n : Nat) (s : State) : State :=
  { s with sch := { s.sch with staged := List.replicate n { addr := 0x24, data := 0, src := hostA, time := 0 } } }

theorem witness_RegisterWritesAreRefusedStagedOrDone :
    ((0x13 : Word).toNat % 4 ≠ 0 ∧ regInfo (0x30 : Word).toNat = none ∧
      writeRefusal { idle0 with jrn := {} } (0x24 : Word).toNat ≠ none) ∧
    (let a := (0x00050020 : Word).toNat
     (regInfo a).map (·.w1c) = some 0 ∧ pairHalf a = none ∧ writeRefusal run0 a = none ∧ isStaged run0 a = true ∧
     (waiting 4095 run0).sch.staged.length < 4096 ∧ isStaged (waiting 4096 run0) a = true ∧
     4096 ≤ (waiting 4096 run0).sch.staged.length) ∧
    (∀ a, a ∈ [0x50080, 0x50090] → (regInfo a).map (·.w1c) ≠ some 0 ∧ (regInfo a).isSome = true ∧ pairHalf a = none ∧
      writeRefusal run0 a = none ∧ isStaged run0 a = true ∧ plainReg a = true ∧ run0.keyed = true) ∧
    ((regInfo 0x000A0034).isSome = true ∧ pairHalf 0x000A0034 = none ∧ WritesNow idle0 0x000A0034 ∧ plainReg 0x000A0034 = true) ∧
    WritesNow run0 0x24 ∧
    ((regInfo 0x71000).isSome = true ∧ pairHalf 0x71000 = some false ∧ (getHolding idle0 hostA).owed = none ∧ WritesNow idle0 0x71000 ∧
      KeepsStations idle0 hostA ∧ KeepsStations run0 hostA ∧
      writeRefusal run0 0x71000 = none ∧ isStaged run0 0x71000 = true ∧ accessSource .i3c ≠ accessSource hostA ∧
      isStation { src := accessSource .i3c } = false) ∧
    (let s := retaining (some 0x71000) run0
     KeepsStations s hostA ∧ (getHolding s hostA).owed = some 0x71000 ∧ (getHolding s hostA).low = some 0 ∧ roomNow s = true ∧
     writeRefusal s 0x71000 = none ∧ isStaged s 0x71000 = true ∧ (regInfo 0x71000).any (fun j => decide (j.rw ≠ 0)) = true) ∧
    (let src : Source := .mgt (.forwarded 0x100 0)
     let old : Holding := { src := .mgt (.forwarded 0x100 1), low := some 5, owed := some 0x71000 }
     let s : State := { run0 with holding := old :: (List.range 63).map (fun i => { src := .mgt (.forwarded 0x100 (BitVec.ofNat 16 (i + 2))) }) }
     ¬ KeepsStations s src ∧ (getHolding s src).owed = none ∧ isStaged s 0x71000 = true ∧
     s.holding.find? (fun x => x.src != accessSource src && isStation x) = some old ∧ roomNow s = true ∧ writeRefusal s 0x71000 = none) ∧
    ((regInfo 0x71004).isSome = true ∧ pairHalf 0x71004 = some true ∧ (getHolding (retaining none idle0) hostA).low = some 0 ∧
       KeepsStations (retaining none idle0) hostA ∧
      WritesNow (retaining none idle0) 0x71004 ∧ plainReg 0x71004 = true ∧ (getHolding (retaining none idle0) hostA).owed = none) ∧
    (∀ o, o ∈ [none, some 0x71000] → let s := retaining o run0
      writeRefusal s 0x71004 = none ∧ isStaged s 0x71004 = true ∧ (getHolding s hostA).low = some 0 ∧ (getHolding s hostA).owed = o ∧
      (waiting 4094 s).sch.staged.length + 2 ≤ 4096 ∧ 4096 < (waiting 4095 s).sch.staged.length + 2) := by and_intros <;> decide +kernel

/-- Bits [31:16] of TOP_COORD are written with the rest (R266). -/
theorem test_top_coord : coord (after (.topCoord hostA 0x00050123) idle0) = 0x00050123 := by decide +kernel

theorem witness_SealsAndReleases :
    (WritesNow idle0 0x20000 ∧ idle0.jrn.next % 4096 ≠ 4095) ∧
    (bit 2 1 = true ∧ bit 2 2 = false ∧ bit 4 1 = false ∧ bit 4 2 = true ∧ bit 6 2 = true) ∧
    (idle0.jrn.waits = none ∧ idle0.boot.signQ = [] ∧ ([.journalSeal] : List SignJob) ≠ []) ∧
    (let s := retaining none idle0
     (getHolding s hostA).low = some 0 ∧ (getHolding s hostA).owed = none ∧ s.sch.leftover = [] ∧ WritesNow s 0x20000 ∧
     KeepsStations s hostA ∧ (∀ x, x ∈ s.holding → x.owed = none) ∧ runOrHold run0 = true ∧
     releaseOk s 0 = true ∧ releaseOk s 1 = false) := by decide +kernel

theorem witness_TimeAndOtherWritesComplete :
    (WritesNow idle0 0x50018 ∧ idle0.tme.isSet = false) ∧
    (let s : State := { idle0 with tme := { isSet := true } }
     WritesNow s 0x50018 ∧ s.tme.isSet = true ∧ (getReg s 0x5001C).toNat < (1001 : Word).toInt.natAbs ∧
     (1000 : Word).toInt.natAbs ≤ (getReg s 0x5001C).toNat) ∧
    (WritesNow idle0 0x50000 ∧ isCommitted idle0 = false ∧ idle0.sch.draining = false ∧ bit 1 0 = true) ∧
    (∀ k : Fin 4, let s := setReg idle0 (outBase k.val + 4) 1
      WritesNow s (outBase k.val) ∧ bit (getReg s (outBase k.val)) 31 = false ∧ bit 0x80000001 31 = true ∧
      reached s (getReg s (outBase k.val + 4)) = false) := by decide +kernel

/-- The chip is at coordinate 0 of a block of 2 by 2 by 2. -/
def placed (s : State) : State := setReg (setReg s 0x000B0000 0) 0x000B0004 0x222

theorem witness_TopologyAndLinkWritesComplete :
    (linksLive idle0 = true ∧ idle0.sch.draining = false ∧ WritesNow idle0 0xB0000 ∧ WritesNow idle0 0xB0004 ∧ isCommitted idle0 = false ∧ ownValid idle0 = false ∧
      ownValid (placed idle0) = true) ∧
    (∀ n : LinkId, n.val = 0 ∨ n.val = 23 → WritesNow idle0 (lnkBase n.val)) ∧
    (let s := placed { idle0 with links := [(0, link0)] }
     let c := lnkCtrl s 0
     bit 0xC0010000 16 = true ∧ bit c 31 = bit 0xC0010000 31 ∧ bit c 29 = bit 0xC0010000 29 ∧ (getLink s 0).state = .active ∧
     bit 0xE0000000 16 = false ∧ bit c 31 = bit 0xE0000000 31 ∧ bit c 29 = false ∧ bit 0xE0000000 29 = true ∧
     bit 0x40000000 31 = false ∧ bit c 31 = true ∧ bit c 29 = bit 0x40000000 29) ∧
    (let s := setReg { idle0 with links := [(0, { state := .test })] } (lnkBase 0) 0xE0000000
     bit (lnkCtrl s 0) 29 = true ∧ bit (lnkCtrl s 0) 31 = bit 0xC0000000 31 ∧ bit 0xC0000000 29 = false ∧ (getLink s 0).state = .test) ∧
    (let s := placed (setReg idle0 (lnkBase 0) 0x40000000)
     bit (lnkCtrl s 0) 31 = false ∧ bit 0xC0000000 31 = true ∧ (getLink s 0).state = .disabled ∧ ownValid s = true) := by decide +kernel

theorem witness_TimeAndOtherWritesComplete_others :
    (∀ q : Fin 4, WritesNow idle0 (clkBase q.val)) ∧ (isCommitted idle0 = false ∧ 8 ≤ bits 8 4 0 ∧ bits 16 4 0 ≤ 16) ∧
    WritesNow idle0 0x30004 ∧ (WritesNow idle0 0x80004 ∧ bit 0x80000000 31 = true) ∧
    (WritesNow idle0 0x90004 ∧ bit (getReg idle0 0x90004) 31 ≠ bit 0x80000000 31 ∧ bit (getReg idle0 0x90004) 31 = bit 0 31 ∧
      mgtRecovery idle0 = false ∧ mgtRecovery { idle0 with dev := .recovery } = true ∧ WritesNow { idle0 with dev := .recovery } 0x90004) ∧
    (curDiv idle0 3 = 8 ∧ SMap.rising idle0.clk.phase = true ∧ SMap.rising idle0.clk.stop = true ∧ SMap.rising idle0.boot.flash = true) ∧
    (WritesNow idle0 0x10004 ∧ bit 1 0 = true ∧ idle0.boot.storeBusy = false ∧ idle0.jrn.flashBusy = false) ∧
    (let s : State := { idle0 with boot := { idle0.boot with storeBusy := true } }
     WritesNow s 0x10004 ∧ s.boot.storeBusy = true) := by decide +kernel

/-! ### Witnesses: operations -/

/-- Both ports are up and a host is bound with session 7 under version 1.1. -/
def ports0 : Ports := { hostUp := true, mgtUp := true, bound := some 1, session := 7, version := 0x11 }
def host0 : State := { idle0 with ports := ports0 }
/-- The same with another bound session or none. -/
def withPorts (p : Ports) : State := { idle0 with ports := p }

/-- A frame of an operation, with TAG 1 and no STATION (R402). -/
def frameOf (version : Byte) (op session target : Nat) (body : List Byte) : List Byte :=
  leBytes 2 0xD96C ++ [version, BitVec.ofNat 8 op, 0, 0] ++ leBytes 2 body.length ++ leBytes 4 session ++ leBytes 4 1 ++
  List.replicate 4 0 ++ leBytes 4 target ++ List.replicate 8 0 ++ body
/-- All ones. -/
def all1 : Nat := 0xFFFFFFFF
/-- A command of the bound host, an operation of a management station, and a HELLO of either. -/
def hostOp (op : Nat) (body : List Byte) : Req := { sender := hostA, dport := 49600, frame := frameOf 0x11 op 7 all1 body }
def station : StationKey := .direct 5 6
/-- The address of the station. -/
def atStation : Source := addressOf (.mgt station)
def mgtOp (op : Nat) (body : List Byte) : Req := { sender := .mgt station, dport := 0xC1C1, frame := frameOf 0x10 op 0 all1 body }
def helloOf (src : Source) (port : BitVec 16) (body : List Byte) : Req := { sender := src, dport := port, frame := frameOf 0 1 0 all1 body }
/-- The completion that an operation with TAG 1 left. -/
def keptOf (src : Source) (op : Byte) : Kept := { from_ := src, tag := 1, op := op, status := 0, body := [] }

theorem witness_OperationsAreAdmittedAndHelloBinds :
    (let r := mgtOp 0x55 []
     operation (.idKey r) = some (r, 0x55) ∧ isFor host0 r 0x56 = false ∧ isFor host0 r 0x55 = true ∧
     dispatched host0 { r with dport := 0xC1C0 } = false ∧ isFor host0 { r with dport := 0xC1C0 } 0x55 = true ∧
     dispatched host0 r = true ∧ keptFor host0 r 0x55 = none ∧ awaitsTollgate host0 r = false ∧ refusal host0 r 0x55 = none ∧
     bodyOk 0x55 (reqBody r) = true ∧ bodyOk 0x55 (reqBody (mgtOp 0x55 [0])) = false ∧ refusal host0 (mgtOp 0x55 [0]) 0x55 = none ∧
     keptFor (withPorts { ports0 with keptMgt := [keptOf atStation 0x55] }) r 0x55 = some (keptOf atStation 0x55) ∧
     wellFramed r = true) ∧
    (let r := hostOp 0x20 []
     let s : State := { host0 with sch := { tollgates := [r] } }
     operation (.tollgate r) = some (r, 0x20) ∧ isFor s r 0x20 = true ∧ dispatched s r = true ∧ keptFor s r 0x20 = none ∧
     awaitsTollgate s r = true) ∧
    (let r : Req := { hostOp 0x20 [] with frame := frameOf 0x11 0x20 8 all1 [] }
     isFor host0 r 0x20 = true ∧ dispatched host0 r = true ∧ refusal host0 r 0x20 = some stSession) ∧
    (∀ join, let r := hostOp 0x12 ([3, if join then 1 else 0] ++ List.replicate 38 0)
      isForm r join = true ∧ isForm r (!join) = false ∧ isFor host0 r 0x12 = true) ∧
    (let r := hostOp 0xFF []
     wellFramed r = false ∧ isFor host0 r 0xFF = true ∧ dispatched host0 r = true ∧ (refusal host0 r 0xFF).isSome = true) ∧
    (wellFramed (hostOp 0x55 []) = false ∧ bodyOk (reqOp (hostOp 0x55 [])) (reqBody (hostOp 0x55 [])) = true) := by decide +kernel

/-- The chip is at coordinate 0 of a block of 2 by 2 by 2 with link 0 ACTIVE. -/
def linked0 : State := placed { host0 with links := [(0, link0)] }
/-- An operation that the chip at coordinate 0x100 forwarded for its station 5. -/
def forwarded0 (op : Nat) (body : List Byte) : Req :=
  { mgtOp op body with sender := .mgt (.forwarded 0x100 5) }

theorem witness_CompletionsAreSentAndKept :
    (∀ c n, (hostOp 0x20 []).sender ≠ .mgt (.forwarded c n)) ∧
    (linked0.keyed = true ∧ (forwarded0 0x55 []).sender = .mgt (.forwarded 0x100 5) ∧
      pathOf { linked0 with ports := { linked0.ports with paths := [(.forwarded 0x100 5, 0)] } } 0x100 5 = some 0) ∧
    (∀ n, n ∈ [0, 1023, 1024] → let s := withPorts { ports0 with keptHost := List.replicate n { keptOf hostA 0x20 with tag := 2 } }
      (hostOp 0x20 []).sender = .host 1 ∧ s.ports.bound = some 1 ∧ reqSession (hostOp 0x20 []) = s.ports.session ∧
      s.ports.keptHost.length = n ∧ ∀ x, x ∈ s.ports.keptHost → x.tag ≠ reqTag (hostOp 0x20 [])) ∧
    (∀ n, n ∈ [0, 255, 256] → let s := withPorts { ports0 with keptMgt := List.replicate n { keptOf atStation 0x55 with tag := 2 } }
      (s.ports.keptMgt.filter (fun z => z.from_ == addressOf (mgtOp 0x55 []).sender)).length = n ∧
      ∀ z, z ∈ s.ports.keptMgt → z.tag ≠ reqTag (mgtOp 0x55 [])) :=
  ⟨fun _ _ h => by injection h, by decide +kernel, by decide +kernel, by decide +kernel⟩

theorem witness_OperationsAreAdmittedAndHelloBinds_hello :
    (let r := helloOf hostA 49600 [0x10, 0x20]
     bodyHello (reqBody r) = some (0x10, 0x20) ∧ Served host0 r 0x01 ∧ host0.ports.bound = some 1 ∧
     chooseVersion (versionRange host0 hostA) 0x10 0x20 = some 0x11) ∧
    (let r := helloOf (.host 2) 49600 [0x10, 0x20]
     Served (withPorts { hostUp := true }) r 0x01 ∧ Served host0 r 0x01 ∧ (1 : BitVec 128) ≠ 2) ∧
    (let r := helloOf hostA 49600 [0x12, 0x20]
     bodyHello (reqBody r) = some (0x12, 0x20) ∧ Served host0 r 0x01 ∧ chooseVersion (versionRange host0 hostA) 0x12 0x20 = none) ∧
    (let r := helloOf (.mgt station) 0xC1C1 [0x10, 0x20]
     Served host0 r 0x01 ∧ (chooseVersion (versionRange host0 r.sender) 0x10 0x20).isSome = true) := by decide +kernel

/-- A survey is armed. -/
def surveyed (s : State) : State := { s with ports := { ports0 with survey := some (2, true, 0) } }
/-- The body of a SURVEY. -/
def surveyBody (kind : Byte) (target : Nat) : List Byte := [kind, 1, 0, 0, 0, 0, 0, 0] ++ leBytes 8 target

theorem witness_RegisterOperationsComplete :
    (∀ n, n ∈ [1, 256] → ∀ op, op ∈ [0x02, 0x29] → let b := leBytes 4 0x80100 ++ leBytes 2 n
      bodyRead b = some (0x80100, n) ∧ Served host0 (hostOp op b) op ∧ Served host0 (mgtOp op b) op) ∧
    (∀ a, a ∈ [0x24, 0x10004] → let b := [1, 0, 0, 0] ++ leBytes 4 a ++ leBytes 4 1
      bodyWrite b = some [(BitVec.ofNat 32 a, 1)] ∧ Served host0 (hostOp 0x03 b) 0x03) ∧
    ((writeAccess host0 hostA 0x24 1).1.epoch = host0.epoch ∧ (writeAccess host0 hostA 0x10004 1).1.epoch ≠ host0.epoch ∧
      (host0.holding.filter isStation).length < 64) ∧
    (counterAt 0x80100 = some (0x80100, false) ∧ counterAt 0x80104 = some (0x80100, true) ∧ counterAt 0x24 = none) ∧
    (∀ k, k ∈ [1, 2, 3] → let r := hostOp 0x28 (surveyBody (BitVec.ofNat 8 k) 1)
      bodySurvey (reqBody r) = some (BitVec.ofNat 8 k, true, 1) ∧
           Served { run0 with ports := ports0 } r 0x28 ∧ Served host0 r 0x28 ∧ Served (surveyed run0) r 0x28) ∧
    (isCommitted run0 = true ∧ run0.sch.jobMs < (1 : DWord).toNat ∧ (0 : DWord).toNat ≤ run0.sch.jobMs ∧ isCommitted host0 = false ∧
      host0.ports.survey = none ∧ (surveyed run0).ports.survey ≠ none) ∧
    ((surveyed host0).keyed = true ∧ (surveyed host0).ports.survey = some (2, true, 0) ∧
      reached (surveyed host0) (half 0 false) = true) := by and_intros <;> decide +kernel

/-- An itinerary of seven sections that the checks of R225 admit: its header (R221), its directory (R222), one tile program of one STOP,
one relocation record and one base patch site (R408). -/
def site0 : PatchSite := { offset := 188, symbol := 0, addend := 9, width := 4 }
def content1 : ItinContent :=
  { content0 with
    tiles := [{ prog0 with codeLen := 1 }], code := [{ lchip := 0, d := 0, addr := 0, word := 0x1200800000000000 }], roads := []
    baseTargets := [.bytes] }
def bytes1 : List Byte :=
  leBytes 4 0x5954494E ++ [0x11, 2, 1, 0, 14, 0, 1, 0, 30, 0, 7, 0] ++ leBytes 8 2 ++ leBytes 4 1 ++ List.replicate 36 0 ++
  [(1, 192, 0, 1), (2, 192, 0, 0), (3, 192, 0, 0), (4, 192, 0, 0), (5, 192, 0, 0), (7, 192, 16, 1), (8, 256, 16, 1)].flatMap (fun e =>
    leBytes 4 e.1 ++ leBytes 4 e.2.1 ++ leBytes 4 e.2.2.1 ++ leBytes 4 e.2.2.2) ++
  List.replicate 16 0 ++ (leBytes 4 2 ++ leBytes 4 8 ++ leBytes 4 1 ++ leBytes 4 12) ++ List.replicate 48 0 ++
  (leBytes 4 188 ++ leBytes 4 0 ++ leBytes 4 9 ++ leBytes 4 4) ++ List.replicate 48 0
def slot1 : Slot := { copiedSlot bytes1 content1 with patchedBase := [0] }
/-- It is loaded, and the road map holds this chip. -/
def loaded0 : State := setReg { host0 with slots := [(0, slot1)] } 0x000B0000 3

theorem test_load_checks : bytes1.length = 320 ∧ loadFail slot1 = none ∧ baseSites slot1 = [site0] := by decide +kernel
/-- A directory without section 0x05 fails R222, and a relocation record of kind 0 fails R408. -/
theorem test_load_refused :
    (loadFail { slot1 with bytes := slot1.bytes.filter (fun p => decide (p.1 ≠ 128)) }).map (·.1) = some 222 ∧
    loadFail { slot1 with bytes := slot1.bytes.filter (fun p => decide (p.1 ≠ 192)) } = some (408, some 192) := by decide +kernel

theorem witness_LoadingOperationsComplete :
    host0.dev = .ready ∧
    (let s : State := { host0 with csr := win0, mem := { run0.mem with bytes := (List.range 320).zip (bytes1.map some) } }
     let b := List.replicate 16 0 ++ leBytes 8 320
     bodyLoad b = some (0, 0, 320) ∧ Served s (hostOp 0x10 b) 0x10 ∧ s.sch.committed ≠ some 0 ∧ 320 ≤ storeRoom s 0 ∧
     copyAllowed s 0 320 = true ∧ appendRefusal s = none ∧ s.jrn.held = [] ∧
     sitesOverlap (copiedSlot (memRead s 0 320) content1) = false ∧
     (∀ z, z ∈ ([(256, .corrected), (320, .uncorrectable)] : Damage) → lineIn 0 320 z.1 = true → z.2 ≠ .uncorrectable) ∧
     ([(256, .uncorrectable)] : Damage).filter (fun y => lineIn 0 320 y.1) = [] ++ (256, .uncorrectable) :: []) ∧
    (let b := fun (n : Nat) (v : Nat) => [0, 0, 1, 0, 0, 0, 0, 0, 0, 0, 0, 0] ++ leBytes 4 n ++ leBytes 8 v
     let e : PatchEntry := { coord := false, index := 0, value := 0xFFFFFFFF }
     bodyPatch (b 0 0xFFFFFFFF) = some (0, [e]) ∧ Served loaded0 (hostOp 0x11 (b 0 0xFFFFFFFF)) 0x11 ∧
     loaded0.sch.committed ≠ some 0 ∧ getSlot loaded0 0 = some slot1 ∧ (sitesOfKind slot1 false)[0]? = some site0 ∧
     e.value.toNat < 2 ^ (8 * site0.width) ∧ SMap.rising slot1.bytes = true ∧ entryRefusal slot1 e = none ∧
     bodyPatch (b 1 0) = some (0, [{ e with index := 1, value := 0 }]) ∧
     entryRefusal slot1 { e with index := 1 } = some stNotFound ∧ entryRefusal slot1 { e with value := 0x100000000 } = some stBadFrame) ∧
    (bodySlot [0] = some 0 ∧ Served loaded0 (hostOp 0x14 [0]) 0x14 ∧ getSlot loaded0 0 ≠ none ∧ Served { host0 with slots := [] } (hostOp 0x14 [0]) 0x14 ∧
      getSlot { host0 with slots := [] } 0 = none) ∧
    (let b := [255, 0, 0, 0, 0, 0, 0, 0] ++ leBytes 8 1
     bodySeed b = some (255, 1) ∧ Served host0 (hostOp 0x15 b) 0x15 ∧ isCommitted host0 = false ∧ appendRefusal host0 = none ∧
     host0.jrn.held = []) := by and_intros <;> decide +kernel

/-- The body of a COMMIT of slot 0, with a map of one chip, in either form, with a schedule or without. -/
def commit0 (join sched : Bool) : CommitBody :=
  { slot := 0, schedule := sched, map := [3], start := 0, j := if join then 9 else 0, p := 0, schedAddr := 0,
    schedCount := if sched then 1 else 0 }
def commitBytes (join sched : Bool) : List Byte :=
  [0, (if join then 1 else 0) + (if sched then 2 else 0), 1, 0, 0, 0, 0, 0] ++ leBytes 8 (if join then 9 else 0) ++ List.replicate 16 0 ++
  leBytes 4 (if sched then 1 else 0) ++ List.replicate 4 0 ++ leBytes 4 3

theorem witness_CommitAndAbort :
    (∀ join sched, bodyCommit (commitBytes join sched) = some (join, commit0 join sched) ∧
      Served loaded0 (hostOp 0x12 (commitBytes join sched)) 0x12) ∧
    (let r := hostOp 0x12 (commitBytes false false)
     let t := mapWrites r.sender [3] 0 (begun loaded0 r)
     0x11 ≤ loaded0.ports.version.toNat ∧ appendRefusal loaded0 = none ∧ appendRefusal t = none ∧ t.jrn.held = [] ∧ stateCode t = 2 ∧
     degraded t = false ∧ getSlot t 0 = some slot1 ∧ commitRefusal t slot1 [] = none ∧
     (commitRefusal t { slot1 with failRule := 221 } []).isSome = true ∧ t.boot.storeBusy = false ∧
     (mapWrites r.sender [3] 0 (begun { loaded0 with boot := { loaded0.boot with storeBusy := true } } r)).boot.storeBusy = true) ∧
    (copyAllowed { loaded0 with csr := win0 } 0 16 = true ∧ copyAllowed loaded0 0 16 = false ∧ lineIn 0 16 0 = true ∧
      lineIn 0 16 64 = false) ∧
    (let s : State := { loaded0 with ports := { ports0 with version := 0x10 } }
     Served s { hostOp 0x12 [] with frame := frameOf 0x10 0x12 7 all1 (commitBytes true true) } 0x12 ∧ s.ports.version.toNat < 0x11) ∧
    (∀ n, n ∈ [1, 7] → let s : State := { run0 with ports := ports0 }
      bodyAbort [BitVec.ofNat 8 n] = some (BitVec.ofNat 8 n) ∧ Served s (hostOp 0x13 [BitVec.ofNat 8 n]) 0x13 ∧ runOrHold s = true ∧
      appendRefusal s = none ∧ s.jrn.held = [] ∧ s.sch.staged = [] ∧ s.dists = [] ∧
      Served host0 (hostOp 0x13 [BitVec.ofNat 8 n]) 0x13 ∧ runOrHold host0 = false) ∧
    underTest (({} : District)).spare = false := by decide +kernel

theorem witness_JobOperationsComplete :
    (let s : State := { run0 with ports := ports0 }
     let f : State := { host0 with dev := .fault }
     bodyNone (reqBody (hostOp 0x20 [])) = some () ∧ Served s (hostOp 0x20 []) 0x20 ∧ s.dev = .ready ∧ isCommitted s = true ∧
     isCommitted host0 = false ∧ Served host0 (hostOp 0x20 []) 0x20 ∧ Served f (hostOp 0x20 []) 0x20 ∧ f.dev ≠ .ready) ∧
    (∀ h, h ∈ [0, 1, 0x403] → ∀ d, let s : State := { run0 with ports := ports0, sch := { run0.sch with holds := BitVec.ofNat _ h, done := d } }
      Served s (hostOp 0x21 []) 0x21 ∧ runOrHold s = true ∧ appendRefusal s = none ∧ s.sch.running = true ∧
      (inTurn s 0 = decide (h ≠ 0x403))) ∧
    (Served host0 (hostOp 0x21 []) 0x21 ∧ runOrHold host0 = false) ∧
    (let s : State := { run0 with ports := ports0 }
     let b := List.replicate 8 0 ++ leBytes 8 1 ++ leBytes 8 0 ++ leBytes 4 1 ++ leBytes 4 0
     let x : DetourBody := { substs := [], j := 1, p := 0, g := 1, t0 := 0 }
     bodyDetour b = some x ∧ Served s (hostOp 0x22 b) 0x22 ∧ committedSlot s = some slot0 ∧ appendRefusal s = none ∧
     detourRefused s slot0 x = false ∧ detourRefused s slot0 { x with j := 0 } = true ∧
     bodyDetour ([1] ++ List.replicate 7 0 ++ leBytes 8 1 ++ leBytes 8 0 ++ leBytes 4 1 ++ leBytes 4 0 ++
       ([1, 0, 3] ++ [0] ++ leBytes 2 1 ++ leBytes 2 0 ++ List.replicate 8 0)) = some { x with substs := [.rank 0 3 1 0] }) := by
  decide +kernel

/-- A record of the journal. -/
def rec0 : Record :=
  { recno := 0, milestone := 0, type := 1, srcFlags := 0, time := 0, a0 := 0, a1 := 0, a2 := 0, chain := 0 }

theorem witness_ExportsAndAttestation :
    (∀ n, n ∈ [1, 127] → let s : State := { host0 with jrn := { kept := true, records := [rec0], next := 1 } }
      bodyJrnRead (leBytes 8 0 ++ leBytes 2 n) = some (0, n) ∧ Served s (mgtOp 0x40 (leBytes 8 0 ++ leBytes 2 n)) 0x40 ∧
      (s.jrn.records.filter (fun x => decide (0 ≤ x.recno))).take n = [rec0]) ∧
    (∀ o, o ∈ [MemOutcome.ok, .corrected, .uncorrectable] → let dm : Damage := [(recordAddr 0, o), (recordAddr 1, .uncorrectable)]
      noRepeat (dm.map (·.1)) = true ∧ outcomeAt dm (recordAddr rec0.recno) = o) ∧
    (∀ n, n ∈ [1, 8192] → let x : Seal := { number := 5, covered := 0, header := [], signature := 0 }
      let s : State := { host0 with jrn := { kept := true, seals := [x] } }
      let b := leBytes 8 5 ++ leBytes 4 21728 ++ leBytes 2 n
      bodySealRead b = some (5, 21728, n) ∧ Served s (mgtOp 0x41 b) 0x41 ∧ 21728 + n ≤ 29920 ∧
      s.jrn.seals.find? (fun x => x.number == 5) = some x) ∧
    (∀ o, o ∈ [MemOutcome.ok, .corrected, .uncorrectable] → let dm : Damage := [(sealAddr 5 + 21696, o)]
      ∀ z, z ∈ dm → lineIn (sealAddr 5 + 21728) 1 z.1 = true ∧ z.2 = o) ∧
    (∀ n, n ∈ [1, 64] → let s : State := withPorts { ports0 with reports := [(0, [])] }
      let b := leBytes 4 0 ++ leBytes 1 n
      bodyReportRead b = some (0, n) ∧ Served s (mgtOp 0x42 b) 0x42 ∧
      (s.ports.reports.filter (fun p => decide (0 ≤ p.1))).take n = [(0, [])]) ∧
    (let s : State := { host0 with boot := { host0.boot with flashMiB := 64 } }
     let b := leBytes 4 0x03FFE000 ++ leBytes 2 8192
     bodySpan b = some (0x03FFE000, 8192) ∧ Served s (mgtOp 0x54 b) 0x54 ∧ s.dev ≠ .boot ∧ 0x03FFE000 + 8192 ≤ flashSize s) ∧
    (bodyNone (reqBody (mgtOp 0x55 [])) = some () ∧ Served host0 (mgtOp 0x55 []) 0x55 ∧ host0.dev ≠ .boot) ∧
    (let b := leBytes 32 9
     bodyAttest b = some 9 ∧ Served host0 (mgtOp 0x56 b) 0x56 ∧ host0.boot.attestBusy = false ∧ host0.boot.signQ = [] ∧
     Served { host0 with boot := { host0.boot with attestBusy := true } } (mgtOp 0x56 b) 0x56) ∧
    ({ host0.boot with signQ := [.attest 0] } : Boot).signQ = [.attest 0] ∧
    (let s : State := { host0 with boot := { host0.boot with attestReady := true } }
     let b := leBytes 4 21728 ++ leBytes 2 8192
     bodySpan b = some (21728, 8192) ∧ Served s (mgtOp 0x57 b) 0x57 ∧ s.boot.attestReady = true ∧ 21728 + 8192 ≤ 29920 ∧
     Served host0 (mgtOp 0x57 b) 0x57 ∧ host0.boot.attestReady = false) := by and_intros <;> decide +kernel

/-- An image session of a station. -/
def staging (session : Option (Source × Nat)) (verified busy : Bool) : State :=
  { host0 with boot := { host0.boot with flashMode := 1, flashMiB := 64, session := session, verified := verified, storeBusy := busy } }
/-- The session of the station. -/
def mine : Option (Source × Nat) := some (atStation, 16384)

theorem witness_ImageSessionRuns :
    (∀ session, session ∈ [none, mine] → ∀ n, n ∈ [0x3FD0000, 0x3FD0001] → let s := staging session false false
      bodyImgBegin (leBytes 8 n) = some n ∧ Served s (mgtOp 0x50 (leBytes 8 n)) 0x50 ∧ stagingState s = true ∧
      s.boot.session = session ∧ min (imageSlot s) (2 ^ 26) = 0x3FD0000) ∧
    (let s := staging mine false false
     let b := leBytes 4 16383 ++ leBytes 4 0 ++ [7]
     bodyImgData b = some (16383, [7]) ∧ bodyImgData (leBytes 8 16383 ++ [7, 8]) = some (16383, [7, 8]) ∧ Served s (mgtOp 0x51 b) 0x51 ∧
     Served s (mgtOp 0x51 (leBytes 8 16383 ++ [7, 8])) 0x51 ∧ stagingState s = true ∧
     s.boot.session = some (addressOf (mgtOp 0x51 b).sender, 16384) ∧ SMap.rising s.boot.stage = true ∧
     Served s (mgtOp 0x52 []) 0x52 ∧ Served s (mgtOp 0x53 []) 0x53 ∧ s.boot.verified = false) ∧
    (let s := staging (some (.host 0, 64)) false false
     bodyNone (reqBody (mgtOp 0x53 [])) = some () ∧ Served s (mgtOp 0x53 []) 0x53 ∧ stateCode s = 2 ∧ s.boot.storeBusy = false ∧
     s.jrn.flashBusy = false ∧ s.boot.verified = false) ∧
    (let s := staging mine true false
     lineIn stageAddr 16384 (stageAddr + 16320) = true ∧ 16384 ≤ 2 ^ 26 ∧
     Served s (mgtOp 0x53 []) 0x53 ∧ stateCode s = 2 ∧ s.boot.storeBusy = false ∧ s.jrn.flashBusy = false ∧ s.boot.verified = true) ∧
    (let s := staging mine true true
     s.boot.storeBusy = true ∧ s.boot.session = some (atStation, 16384) ∧ SMap.rising s.boot.flash = true ∧
     s.boot.storeSectors < ceilDiv 16384 65536 ∧
     (let b := { s.boot with storeSectors := 1, storePages := 63 }
      ceilDiv 16384 65536 ≤ b.storeSectors ∧ b.storePages < pages 16384)) := by and_intros <;> decide +kernel

/-- Queue pair 15 is open, with a WRITE message under way or without, and window 0 is the host's. -/
def pair (psn : BitVec 24) (run : Option WriteRun) (cnp : Option Nat) : QueuePair :=
  { pmtu := 0, hostQpn := 1, reqPsn := 0, respPsn := 0, gid := 0, psn := psn, run := run, cnpAt := cnp }
def rdma0 (q : QueuePair) : State := { host0 with csr := win0, ports := { ports0 with qps := [(15, q)] } }
/-- 1,024 bytes, the least path MTU. -/
def packet0 : List Byte := List.replicate 1024 7

theorem witness_QueuePairsAndRdma :
    (let b := [15, 2, 0, 0] ++ leBytes 4 1 ++ leBytes 4 0x1000005 ++ leBytes 4 3 ++ leBytes 16 4
     bodyQpOpen b = some (15, 2, 1, 0x1000005, 3, 4) ∧ Served host0 (hostOp 0x30 b) 0x30) ∧
    (bodyQpClose [15] = some 15 ∧ Served (rdma0 (pair 0 none none)) (hostOp 0x31 [15]) 0x31 ∧
      lookup (rdma0 (pair 0 none none)).ports.qps (15 : Fin 16).val ≠ none) ∧
    ((rdma0 (pair 0 none none)).keyed = true ∧ qpLive (rdma0 (pair 0 none none)) (15 : Fin 16).val = true) ∧
    (∀ n, n ∈ [0, 49999, 50000] → let s : State := { rdma0 (pair 0 none (some 0)) with tme := { age := n } }
      (getQp s 15).cnpAt = some 0 ∧ (decide (0 + 50000 ≤ s.tme.age) = decide (n = 50000))) ∧
    (writeRun (pair 0 none none) (.first 0 0 1025) packet0.length = some { start := 0, next := 0, left := 1 } ∧
      writeRun (pair 0 none none) (.only 0 4 1) 1 = some { start := 4, next := 4, left := 0 } ∧
      writeRun (pair 0 (some { start := 0, next := 8, left := 1025 }) none) .middle 1024 = some { start := 0, next := 8, left := 1 } ∧
      writeRun (pair 0 (some { start := 0, next := 8, left := 1 }) none) .last 1 = some { start := 0, next := 8, left := 0 } ∧
      writeRun (pair 0 none none) .last 1 = none ∧ writeRun (pair 0 none none) (.first 0 0 1024) 1024 = none) ∧
    (let s := rdma0 (pair 0 none none)
     writeAdmits s (.first 0 0xFFFC00 1024) = true ∧ writeAdmits s (.only 0 0xFFFC01 1024) = false ∧ writeAdmits s .middle = true ∧
     rdmaAdmits s 0 0xFFFFFC 4 2 = true ∧ rdmaAdmits s 64 0 4 2 = false) ∧
    (psnSeen (pair 5 none none) 4 = true ∧ psnSeen (pair 5 none none) 5 = false ∧ psnSeen (pair 5 none none) 6 = false) ∧
    (∀ x, x ∈ ([] : Damage) → x.2 = .ok) ∧ soundSpan (rdma0 (pair 0 none none)) 0 4 [(0, .uncorrectable)] = false := by and_intros <;> decide +kernel

theorem witness_PortsAndSidebandAnswer :
    (host0.keyed = true ∧ portUp host0 .host = true ∧ portUp host0 .mgt = true ∧ onRecovery host0 .host = false ∧
      onRecovery host0 .mgt = false ∧ onRecovery { host0 with dev := .recovery } .mgt = true) ∧
    (matchesRow host0 .host (.udp 4791 []) = true ∧ matchesRow host0 .mgt (.udp 4791 []) = false ∧
      matchesRow host0 .host (.udp 49600 [0x6C, 0xD9]) = true ∧ matchesRow host0 .host (.udp 49600 [0x6C, 0xD8]) = false) ∧
    (let r : Req := { mgtOp 0x02 [] with frame := frameOf 0x10 0x02 0 0x100 [] }
     linked0.keyed = true ∧ r.sender = .mgt station ∧ arrives linked0 r = true ∧ forOther linked0 r = true ∧ dispatched linked0 r = true ∧
     onItsWay linked0 r = false ∧ keptFor linked0 r (reqOp r) = none ∧ frameOk r = true ∧ reqSession r = 0 ∧
     routeTo linked0 (reqTarget r) = some 0 ∧
     dispatched linked0 { r with dport := 1 } = false ∧ forOther linked0 { r with dport := 1 } = true ∧
     onItsWay { linked0 with ports := { ports0 with forwards := [(0, r)] } } r = true ∧
     routeTo { linked0 with links := [] } (reqTarget r) = none ∧
     keptFor { linked0 with ports := { ports0 with keptMgt := [keptOf atStation 2] } } r (reqOp r) = some (keptOf atStation 2) ∧
     frameOk { r with frame := r.frame ++ [0] } = false) ∧
    (let s : State := withPorts { ports0 with forwards := [(9, mgtOp 0x55 [])] }
     s.ports.forwards.find? (fun f => f.1 == 9) = some (9, mgtOp 0x55 [])) ∧
    (i3cLive host0 = true ∧ (writeAccess host0 .i3c 0x24 5).1.porstN = true ∧ (writeAccess host0 .i3c 0x24 5).1.wrstN = true ∧
      i3cLive State.reset = false) := by and_intros <;> decide +kernel

/-- A mapped COMMIT, a LOAD and a PATCH for the layouts of R409 to R412, and the largest completion. -/
theorem witness_FramesReadAsLaidOut :
    (List.replicate 8192 (0 : Byte)).length < 2 ^ 16 ∧ stTooLate < 2 ^ 16 ∧ (1 ≤ 256 ∧ 256 ≤ 256) ∧
    (192 < 2 ^ 64 ∧ 192 ≠ 0 ∧ 192 % 64 = 0) ∧ (∀ e, e ∈ ([{ coord := true, index := 5, value := 6 }] : List PatchEntry) → e.index < 2 ^ 32) ∧
    (∀ join sched, let b := commit0 join sched
      b.map.length ≤ 1024 ∧ (join = false → b.j = 0 ∧ b.p = 0) ∧ (b.schedule = true → 1 ≤ b.schedCount ∧ b.schedCount ≤ 2 ^ 20) ∧
      (b.schedule = false → b.schedCount = 0)) := by decide +kernel

/-! ### Witnesses: resets and the rules of the whole machine -/

/-- A device that has reached a step of start-up. -/
def boot0 (step trained : Nat) : State :=
  { porstN := true, clk := run0.clk, mem := { trained := BitVec.ofNat 2 trained }, boot := { cold := false, step := step } }

theorem witness_ResetsAndStartUp :
    (run0.porstN = true ∧ run0.wrstN = true ∧ State.reset.porstN = false ∧ State.reset.wrstN = true ∧ State.reset.boot.cold = true ∧
      run0.boot.storeBusy = false ∧ run0.jrn.flashBusy = false ∧ run0.keyed = true) ∧
    (let s : State := { State.reset with wrstN := false }
     s.wrstN = false ∧ s.porstN = false ∧ ({ s with porstN := true } : State).porstN = true) ∧
    (let s : State := { run0 with wrstN := false }
     let f : Sfdp := { readable := true, mib := 64, erase64 := true, addr4 := true, ddr8 := false, sdr8 := true, sdr4 := true }
     s.wrstN = false ∧ s.porstN = true ∧ s.boot.cold = false ∧ SMap.rising s.boot.flash = true ∧ usableMode f = 2 ∧
     usableMode { f with mib := 63 } = 0 ∧ flashUsable { s with boot := { s.boot with flashMode := usableMode f, flashMiB := f.mib } } = true) ∧
    (let s := boot0 5 0
     s.porstN = true ∧ s.mem.trained = 0 ∧ s.clk.locks.getLsbD 10 = true ∧ s.boot.step = 5 ∧ s.dev = .boot ∧ s.boot.found = none ∧
     s.jrn.next = 0 ∧ s.jrn.retain = 0 ∧ s.jrn.held = [] ∧ (boot0 4 0).boot.step ≠ 5) ∧
    (booting (boot0 4 0) = true ∧ (boot0 4 0).boot.step = 4 ∧ (boot0 4 0).boot.cut = false ∧ (boot0 4 0).mem.trained = 0 ∧ (boot0 4 1).mem.trained = 1 ∧
      (boot0 4 1).jrn.records = []) ∧
    (booting (boot0 6 1) = true ∧ (boot0 6 1).boot.step = 6 ∧ (boot0 6 1).boot.found = none) ∧
    (let i : ImageInfo := { format := 0x12, imageId := 0, length := 0, digest := 0, registers := [], power := [], addresses := [],
                            optics := [], scan := none }
     let s : State := { boot0 6 1 with boot := { (boot0 6 1).boot with found := some i } }
     booting s = true ∧ s.boot.step = 6 ∧ s.boot.found ≠ none) ∧
    (run0.clk.timeOk = true ∧ run0.clk.locks.getLsbD 17 = true ∧ run0.clk.locks.getLsbD 18 = true ∧ run0.dev = .ready ∧
      (boot0 4 0).dev ≠ .ready ∧ (boot0 4 0).clk.timeOk = true) := by decide +kernel

theorem witness_EveryStepKeepsTheTablesInForm : run0.keyed = true ∧ Memory.wf run0.mem = true ∧ step run0 = .next (idle run0) :=
  ⟨by decide, by decide, rfl⟩
theorem witness_EveryStepKeepsTheChain :
    (run0.jrn.chained = true ∧ step run0 = .next (idle run0)) ∧ run0.jrn.kept = true ∧ roomNow run0 = true :=
  ⟨⟨by decide, rfl⟩, by decide, by decide⟩
theorem witness_OnlyAResetLeavesFault :
    ∃ s u : State, s.dev = .fault ∧ s.pending = [.porstAssert] ∧ step s = .next u :=
  ⟨{ run0 with dev := .fault, pending := [.porstAssert] }, _, rfl, rfl, rfl⟩

theorem witness_MmaAccumulatesEveryProduct : 0 < 64 ∧ 63 < 64 := by decide

/-- A write of BOOT_CTRL.REBOOT is a pulse of WRST_N: after it the pin is high and the device boots (R461). -/
theorem test_reboot : (after (.bootCtrlReboot hostA 1) idle0).wrstN = true ∧ (after (.bootCtrlReboot hostA 1) idle0).dev = .boot := by
  decide +kernel

/-! ### Values that the spec works out -/

/-- Position 5 in row 3, column 4 of QD2 (spec/01). -/
theorem test_tile_address : tileBase (36 * 2 + 6 * 3 + 4) 5 = 0x015E5000 ∧ dstBase 94 + 0xF000 = 0x015EF000 := by decide

/-- The tie in BF16 (spec/03): RNE, RTZ, both draws of SR, and the odd neighbour. -/
theorem test_bf16_tie :
    roundExs false { x := 0x08080000_0000 } .bf16 .rne false 0 = 0x3F80 ∧ roundExs false { x := 0x08080000_0000 } .bf16 .rtz false 0 = 0x3F80 ∧
    roundExs false { x := 0x08080000_0000 } .bf16 .sr false 0x3A1C0000 = 0x3F81 ∧
    roundExs false { x := 0x08080000_0000 } .bf16 .sr false 0xC0000000 = 0x3F80 ∧
    roundExs false { x := 0x08180000_0000 } .bf16 .rne false 0 = 0x3F82 := by decide +kernel

/-- The element on the wire (spec/03), and its sum with 2^130 in FP32. -/
theorem test_wire_element :
    let x : Exs := { x := 2 ^ 576 - (2 ^ 409 + 3 * 2 ^ 129) }
    descriptor true x = 0x2044 ∧ (sentWords true x).map (magWord (exsMag true x)) = [6, 0x02000000] ∧
    roundExs true (exsAdd true x { x := 2 ^ 409 }) .fp32 .rne false 0 = 0x80000002 := by decide +kernel

/-- X[0][0] = 1.5 × 3.0 + 2.0 × 0.5 (spec/06). -/
theorem test_product_sum :
    exsAcc false (exsAcc false {} (product (decode .e4m3 0x3C) (decode .e4m3 0x44))) (product (decode .e4m3 0x40) (decode .e4m3 0x30)) =
      { x := 0x2C00_0000_0000 } ∧
    exsAcc false {} (product (decode .e4m3 0x3C) (decode .e4m3 0xB8)) = { x := 0xFFFFFFFFFFFFF400_0000_0000 } := by decide +kernel

/-- One waymark across the wrap (spec/14): θ = -12 ns with KI 6. -/
theorem test_waymark_measurement :
    let s : State := setReg { run0 with tme := { c := 0x20, isSet := true, prev := some 0xFFFFB4D5 } } 0x00050020 0x00060000
    let u := measure s (-12) 0x20
    getReg u 0x00050024 = 0xFFFFFFF4 ∧ u.tme.slew = 0xFFD7330B ∧ u.tme.rate = 0xFFFF5CCD := by decide +kernel

/-- Simultaneous width requests (spec/08): the smaller width wins, on lane 0. -/
theorem test_width_requests :
    choose (withLink { askWidth := 1, lanesOk := 15 }) 0 (block (2 + 2 ^ 12 * 2 + 2 ^ 16 * 15)) 0x20 =
      some { laneSet := 1, width := 2, rate := 0, version := 0x20 } := by decide +kernel

/-- VEXP of +0 is 1 (R93). -/
theorem test_vexp_zero : vexp32 0 = 0x3F800000 := by decide +kernel

end Sys2Proof.Tests
end

