-- ==== Sys2Proof/Proofs/FormRules.lean ====
section
/-! SUPPORT. The two forms of O57 as a relation between the state before and one reached from it, and changes of each table of the state
within them. -/

namespace Sys2Proof.Machine

open Sys2Proof.SMap

/-! ### The forms that a command keeps -/

/-- The keyed tables of tiles: the keys rise, and every tile's own tables are keyed. -/
def tilesKeyed (m : List (Nat × Tile)) : Bool := rising m && m.all (fun p => p.2.keyed)

/-- The tables of device memory that `State.keyed` speaks of. -/
def memKeyed (m : DevMem) : Bool := rising m.bytes && (rising m.tags && m.copied && m.spilled)

theorem keyed_iff (s : State) : s.keyed = true ↔
    rising s.csr = true ∧ rising s.cnt = true ∧ tilesKeyed s.tiles = true ∧ rising s.links = true ∧ rising s.dists = true ∧
    rising s.hops = true ∧ rising s.seeds = true ∧ memKeyed s.mem = true := by
  simp only [State.keyed, tilesKeyed, memKeyed, Bool.and_eq_true, and_assoc]

theorem tilesKeyed_iff (m : List (Nat × Tile)) : tilesKeyed m = true ↔ rising m = true ∧ ∀ p ∈ m, p.2.keyed = true := by
  simp only [tilesKeyed, Bool.and_eq_true, List.all_eq_true]

/-- `s` has each of the two forms of the obligation that `s₀` has: it is reached from `s₀` by operations that keep them. -/
structure Keeps (s₀ s : State) : Prop where
  keyed : s₀.keyed = true → s.keyed = true
  canonical : Memory.wf s₀.mem = true → Memory.wf s.mem = true

/-- A tile whose tables are keyed if those of `s₀` are. -/
def KeepsTile (s₀ : State) (x : Tile) : Prop := s₀.keyed = true → x.keyed = true

/-- A group whose registers are keyed if the tables of `s₀` are. -/
def KeepsGroup (s₀ : State) (y : Group) : Prop := s₀.keyed = true → y.keyed = true

/-- An outcome whose next state, if it has one, keeps the forms of `s₀`. -/
def KeepsNext (s₀ : State) (o : Host.Outcome State Fault Refusal) : Prop := ∀ u, o = .next u → Keeps s₀ u

variable {s₀ s u : State} {x x' : Tile} {y : Group}

theorem Keeps.refl (s : State) : Keeps s s := ⟨id, id⟩

theorem Keeps.trans (h : Keeps s₀ s) (k : Keeps s u) : Keeps s₀ u := ⟨k.keyed ∘ h.keyed, k.canonical ∘ h.canonical⟩

/-- The forms part by part: what holds of each table of `s` holds of the table of `u`; a table that is not named is the same. -/
theorem Keeps.parts (h : Keeps s₀ s)
    (csr : rising s.csr = true → rising u.csr = true := by exact id)
    (cnt : rising s.cnt = true → rising u.cnt = true := by exact id)
    (tiles : (s₀.keyed = true → tilesKeyed s.tiles = true) → s₀.keyed = true → tilesKeyed u.tiles = true := by exact id)
    (links : rising s.links = true → rising u.links = true := by exact id)
    (dists : rising s.dists = true → rising u.dists = true := by exact id)
    (hops : rising s.hops = true → rising u.hops = true := by exact id)
    (seeds : rising s.seeds = true → rising u.seeds = true := by exact id)
    (mem : memKeyed s.mem = true → memKeyed u.mem = true := by exact id)
    (canonical : Memory.wf s.mem = true → Memory.wf u.mem = true := by exact id) : Keeps s₀ u := by
  refine ⟨fun h0 => ?_, fun h0 => canonical (h.canonical h0)⟩
  obtain ⟨h1, h2, h3, h4, h5, h6, h7, h8⟩ := (keyed_iff s).mp (h.keyed h0)
  exact (keyed_iff u).mpr ⟨csr h1, cnt h2, tiles (fun _ => h3) h0, links h4, dists h5, hops h6, seeds h7, mem h8⟩

/-- A change of any part of the state but the tables. -/
theorem Keeps.elsewhere (h : Keeps s₀ s) {pending out fresh epoch porstN wrstN throtN dev faultCause readySeen shadowCnt holding jrn
    sinceRecord sch flights code slots dig tme clk pwr boot ports} :
    Keeps s₀ (State.mk pending out fresh epoch porstN wrstN throtN dev faultCause readySeen s.csr s.cnt shadowCnt holding jrn
      sinceRecord sch s.hops flights s.links s.tiles s.dists code s.mem slots s.seeds dig tme clk pwr boot ports) := h.parts

/-- A change of any part of the state but the tables, and of the parts of device memory that neither form speaks of. -/
theorem Keeps.elsewhereMem (h : Keeps s₀ s) {pending out fresh epoch porstN wrstN throtN dev faultCause readySeen shadowCnt holding jrn
    sinceRecord sch flights code slots dig tme clk pwr boot ports readThis trained installed stacksOk preset restoring writeback
    scrubHbm scrubT2 attemptResets} :
    Keeps s₀ (State.mk pending out fresh epoch porstN wrstN throtN dev faultCause readySeen s.csr s.cnt shadowCnt holding jrn
      sinceRecord sch s.hops flights s.links s.tiles s.dists code
      (DevMem.mk s.mem.bytes s.mem.zeroed s.mem.mirror s.mem.tags s.mem.retained readThis s.mem.spill trained installed stacksOk
        preset restoring writeback scrubHbm scrubT2 attemptResets)
      slots s.seeds dig tme clk pwr boot ports) := h.parts

theorem Keeps.ite {c : Prop} [Decidable c] {t : State} (ha : Keeps s₀ s) (hb : Keeps s₀ t) : Keeps s₀ (if c then s else t) := by
  split <;> assumption

theorem Keeps.when {c : Prop} [Decidable c] {t : State} (h : Keeps s₀ s) (ht : Keeps s₀ s → Keeps s₀ t) :
    Keeps s₀ (if c then t else s) := .ite (ht h) h

theorem Keeps.unless {c : Prop} [Decidable c] {t : State} (h : Keeps s₀ s) (ht : Keeps s₀ s → Keeps s₀ t) :
    Keeps s₀ (if c then s else t) := .ite h (ht h)

theorem Keeps.foldl {β : Type} {f : State → β → State} {l : List β} (h : Keeps s₀ s)
    (hf : ∀ s b, Keeps s₀ s → Keeps s₀ (f s b)) : Keeps s₀ (l.foldl f s) := by
  induction l generalizing s with
  | nil => exact h
  | cons b r ih => exact ih (hf _ _ h)

/-! ### Outcomes -/

theorem Keeps.next (h : Keeps s₀ s) : KeepsNext s₀ (.next s) := fun _ e => Host.Outcome.next.inj e ▸ h

theorem KeepsNext.refused {r : Refusal} : KeepsNext s₀ (.refused r) := fun _ e => nomatch e

theorem KeepsNext.ite {c : Prop} [Decidable c] {o p : Host.Outcome State Fault Refusal} (ho : KeepsNext s₀ o) (hp : KeepsNext s₀ p) :
    KeepsNext s₀ (if c then o else p) := by
  split <;> assumption

/-! ### Registers, counters, links, districts, hops -/

theorem Keeps.setReg (h : Keeps s₀ s) {a : Nat} {v : Word} : Keeps s₀ (setReg s a v) := h.parts (csr := rising_set _ _ _ _)

theorem Keeps.bump (h : Keeps s₀ s) {a n : Nat} : Keeps s₀ (bump s a n) := h.parts (cnt := rising_set _ _ _ _)

theorem Keeps.setLink (h : Keeps s₀ s) {n : Nat} {l : Link} : Keeps s₀ (setLink s n l) := h.parts (links := rising_set _ _ _ _)

theorem Keeps.setDist (h : Keeps s₀ s) {d : Nat} {z : District} : Keeps s₀ (setDist s d z) := h.parts (dists := rising_set _ _ _ _)

theorem Keeps.setHop (h : Keeps s₀ s) {k : HopId} {z : Hop} : Keeps s₀ (setHop s k z) := h.parts (hops := rising_set _ _ _ _)

theorem Keeps.setSeed (h : Keeps s₀ s) {a : Nat} {v : DWord} : Keeps s₀ { s with seeds := SMap.set 0 s.seeds a v } :=
  h.parts (seeds := rising_set _ _ _ _)

theorem Keeps.noTiles (h : Keeps s₀ s) : Keeps s₀ { s with tiles := [] } := h.parts (tiles := fun _ _ => rfl)

/-! ### Tiles and groups -/

theorem tile_keyed_iff (x : Tile) : x.keyed = true ↔ rising x.groups = true ∧ (∀ p ∈ x.groups, p.2.keyed = true) ∧
    rising x.spad = true ∧ rising x.tags = true ∧ rising x.t = true ∧ rising x.x = true := by
  simp only [Tile.keyed, Bool.and_eq_true, List.all_eq_true, and_assoc]

theorem group_keyed_iff (y : Group) : y.keyed = true ↔ rising y.s = true ∧ rising y.p = true ∧ rising y.v = true := by
  simp only [Group.keyed, Bool.and_eq_true, and_assoc]

/-- The entries of a table after a write are those before it and the one written. -/
theorem mem_of_mem_set {α : Type} [DecidableEq α] (d : α) (m : List (Nat × α)) (a : Nat) (v : α) (p : Nat × α)
    (h : p ∈ SMap.set d m a v) : p = (a, v) ∨ p ∈ m := by
  induction m with
  | nil => simp only [SMap.set] at h; split at h <;> simp_all
  | cons q r ih =>
    simp only [SMap.set] at h
    split at h
    · split at h
      · exact .inr h
      · simpa using h
    · split at h
      · split at h
        · exact .inr (List.mem_cons_of_mem _ h)
        · rcases List.mem_cons.mp h with e | e
          · exact .inl e
          · exact .inr (List.mem_cons_of_mem _ e)
      · rcases List.mem_cons.mp h with e | e
        · exact .inr (e ▸ List.mem_cons_self)
        · exact (ih e).imp id (List.mem_cons_of_mem _)

theorem mem_of_mem_put {α : Type} (m : List (Nat × α)) (a : Nat) (v : α) (p : Nat × α) (h : p ∈ SMap.put m a v) :
    p = (a, v) ∨ p ∈ m := by
  induction m with
  | nil => simpa [SMap.put] using h
  | cons q r ih =>
    simp only [SMap.put] at h
    split at h
    · simpa using h
    · split at h
      · rcases List.mem_cons.mp h with e | e
        · exact .inl e
        · exact .inr (List.mem_cons_of_mem _ e)
      · rcases List.mem_cons.mp h with e | e
        · exact .inr (e ▸ List.mem_cons_self)
        · exact (ih e).imp id (List.mem_cons_of_mem _)

theorem Keeps.setTile (h : Keeps s₀ s) {t : TileRef} (hx : KeepsTile s₀ x) : Keeps s₀ (setTile s t x) := by
  refine h.parts (tiles := fun ht h0 => ?_)
  obtain ⟨hr, ha⟩ := (tilesKeyed_iff _).mp (ht h0)
  refine (tilesKeyed_iff _).mpr ⟨rising_set _ _ _ _ hr, fun p hp => ?_⟩
  rcases mem_of_mem_set _ _ _ _ _ hp with e | e
  · exact e ▸ hx h0
  · exact ha p e

theorem Keeps.getTile (h : Keeps s₀ s) {t : TileRef} : KeepsTile s₀ (getTile s t) := fun h0 => keyed_getTile (h.keyed h0) t

theorem KeepsTile.getGroup (h : KeepsTile s₀ x) {g : Nat} : KeepsGroup s₀ (getGroup x g) := fun h0 => keyed_getGroup (h h0) g

theorem KeepsTile.setGroup (h : KeepsTile s₀ x) {g : Nat} (hy : KeepsGroup s₀ y) : KeepsTile s₀ (setGroup x g y) := by
  intro h0
  obtain ⟨h1, h2, h3⟩ := (tile_keyed_iff x).mp (h h0)
  refine (tile_keyed_iff _).mpr ⟨rising_put _ _ _ h1, fun p hp => ?_, h3⟩
  rcases mem_of_mem_put _ _ _ _ hp with e | e
  · exact e ▸ hy h0
  · exact h2 p e

/-- A change of any part of a tile but its tables. -/
theorem KeepsTile.elsewhere (h : KeepsTile s₀ x) {prog rr slate banks tUse xUse locks queue nextOp arrivals sends reqs gen frames
    pageSwaps moving useClock swap forced loadQ viols} :
    KeepsTile s₀ (Tile.mk prog x.groups rr slate banks x.spad x.tags tUse xUse x.t x.x locks queue nextOp arrivals sends reqs gen
      frames pageSwaps moving useClock swap forced loadQ viols) := h

theorem KeepsTile.ite {c : Prop} [Decidable c] (ha : KeepsTile s₀ x) (hb : KeepsTile s₀ x') :
    KeepsTile s₀ (if c then x else x') := by
  split <;> assumption

theorem KeepsTile.when {c : Prop} [Decidable c] (h : KeepsTile s₀ x) (hx : KeepsTile s₀ x → KeepsTile s₀ x') :
    KeepsTile s₀ (if c then x' else x) := .ite (hx h) h

theorem KeepsTile.unless {c : Prop} [Decidable c] (h : KeepsTile s₀ x) (hx : KeepsTile s₀ x → KeepsTile s₀ x') :
    KeepsTile s₀ (if c then x else x') := .ite h (hx h)

theorem KeepsTile.foldl {β : Type} {f : Tile → β → Tile} {l : List β} (h : KeepsTile s₀ x)
    (hf : ∀ x b, KeepsTile s₀ x → KeepsTile s₀ (f x b)) : KeepsTile s₀ (l.foldl f x) := by
  induction l generalizing x with
  | nil => exact h
  | cons b r ih => exact ih (hf _ _ h)

/-- A change of any part of a group but its registers. -/
theorem KeepsGroup.elsewhere (h : KeepsGroup s₀ y) {ia slot loops seedSlot wait resident waited needs pendS pendV sig outputs loads
    tolls tollAt} : KeepsGroup s₀ (Group.mk ia slot loops y.s y.p y.v seedSlot wait resident waited needs pendS pendV sig outputs
      loads tolls tollAt) := h

theorem KeepsGroup.ite {c : Prop} [Decidable c] {z : Group} (ha : KeepsGroup s₀ y) (hb : KeepsGroup s₀ z) :
    KeepsGroup s₀ (if c then y else z) := by
  split <;> assumption

theorem KeepsGroup.when {c : Prop} [Decidable c] {z : Group} (h : KeepsGroup s₀ y) (hz : KeepsGroup s₀ y → KeepsGroup s₀ z) :
    KeepsGroup s₀ (if c then z else y) := .ite (hz h) h

theorem KeepsGroup.unless {c : Prop} [Decidable c] {z : Group} (h : KeepsGroup s₀ y) (hz : KeepsGroup s₀ y → KeepsGroup s₀ z) :
    KeepsGroup s₀ (if c then y else z) := .ite h (hz h)

theorem KeepsGroup.foldl {β : Type} {f : Group → β → Group} {l : List β} (h : KeepsGroup s₀ y)
    (hf : ∀ y b, KeepsGroup s₀ y → KeepsGroup s₀ (f y b)) : KeepsGroup s₀ (l.foldl f y) := by
  induction l generalizing y with
  | nil => exact h
  | cons b r ih => exact ih (hf _ _ h)

theorem KeepsGroup.setS (h : KeepsGroup s₀ y) {r k : Nat} {v : DWord} : KeepsGroup s₀ (setS y r k v) := by
  intro h0
  obtain ⟨h1, h2, h3⟩ := (group_keyed_iff y).mp (h h0)
  refine (group_keyed_iff _).mpr ⟨rising_setS _ _ _ _ h1, ?_⟩
  rw [setS_rest]
  exact ⟨h2, h3⟩

theorem KeepsGroup.setP (h : KeepsGroup s₀ y) {r : Nat} {v : DWord} : KeepsGroup s₀ (setP y r v) := by
  unfold Machine.setP
  split
  · exact h
  · intro h0
    obtain ⟨h1, h2, h3⟩ := (group_keyed_iff y).mp (h h0)
    exact (group_keyed_iff _).mpr ⟨h1, rising_set _ _ _ _ h2, h3⟩

theorem KeepsGroup.setV (h : KeepsGroup s₀ y) {r i : Nat} {v : Word} : KeepsGroup s₀ (setV y r i v) := by
  intro h0
  obtain ⟨h1, h2, h3⟩ := (group_keyed_iff y).mp (h h0)
  exact (group_keyed_iff _).mpr ⟨h1, h2, rising_set _ _ _ _ h3⟩

/-- A map over the groups of a tile that keeps their keys and registers. -/
theorem KeepsTile.mapGroups (h : KeepsTile s₀ x) {f : Nat × Group → Nat × Group} {prog rr slate banks tUse xUse locks queue nextOp
    arrivals sends reqs gen frames pageSwaps moving useClock swap forced loadQ viols} (hk : ∀ p, (f p).1 = p.1)
    (hf : ∀ p, KeepsGroup s₀ p.2 → KeepsGroup s₀ (f p).2) :
    KeepsTile s₀ (Tile.mk prog (x.groups.map f) rr slate banks x.spad x.tags tUse xUse x.t x.x locks queue nextOp arrivals sends reqs
      gen frames pageSwaps moving useClock swap forced loadQ viols) := by
  intro h0
  obtain ⟨h1, h2, h3⟩ := (tile_keyed_iff x).mp (h h0)
  refine (tile_keyed_iff _).mpr ⟨rising_map _ _ hk h1, fun p hp => ?_, h3⟩
  obtain ⟨q, hq, rfl⟩ := List.mem_map.mp hp
  exact hf q (fun _ => h2 q hq) h0

end Sys2Proof.Machine
end

