-- ==== Sys2Proof/Proofs/FormTables.lean ====
section
/-! SUPPORT. Folds, maps, and writes of the tables of a tile and of device memory keep the forms. -/

namespace Sys2Proof.Machine

open Sys2Proof.SMap

variable {s₀ s u : State} {x x' : Tile} {y : Group}

/-! ### Folds of writes, and tables that begin empty -/

theorem rising_foldl {α β : Type} {f : List (Nat × α) → β → List (Nat × α)} {l : List β} {m : List (Nat × α)}
    (h : rising m = true) (hf : ∀ m b, rising m = true → rising (f m b) = true) : rising (l.foldl f m) = true := by
  induction l generalizing m with
  | nil => exact h
  | cons b r ih => exact ih (hf _ _ h)

theorem Keeps.foldlFst {α β : Type} {f : State × α → β → State × α} {l : List β} {z : State × α} (h : Keeps s₀ z.1)
    (hf : ∀ z b, Keeps s₀ z.1 → Keeps s₀ (f z b).1) : Keeps s₀ (l.foldl f z).1 := by
  induction l generalizing z with
  | nil => exact h
  | cons b r ih => exact ih (hf _ _ h)

theorem KeepsTile.foldlFst {α β : Type} {f : Tile × α → β → Tile × α} {l : List β} {z : Tile × α} (h : KeepsTile s₀ z.1)
    (hf : ∀ z b, KeepsTile s₀ z.1 → KeepsTile s₀ (f z b).1) : KeepsTile s₀ (l.foldl f z).1 := by
  induction l generalizing z with
  | nil => exact h
  | cons b r ih => exact ih (hf _ _ h)

theorem Keeps.reset : Keeps s₀ State.reset := ⟨fun _ => rfl, fun _ => rfl⟩

theorem KeepsTile.fresh : KeepsTile s₀ {} := fun _ => rfl

theorem KeepsGroup.fresh {ia slot loops seedSlot wait resident waited needs pendS pendV sig outputs loads tolls tollAt} :
    KeepsGroup s₀ (Group.mk ia slot loops [] [] [] seedSlot wait resident waited needs pendS pendV sig outputs loads tolls tollAt) :=
  fun _ => rfl

/-! ### The tables of a tile -/

theorem KeepsTile.spadWrite (h : KeepsTile s₀ x) {a : Nat} {l : List Byte} : KeepsTile s₀ (spadWrite x a l) := by
  intro h0
  obtain ⟨h1, h2, h3, h4⟩ := (tile_keyed_iff x).mp (h h0)
  exact (tile_keyed_iff _).mpr ⟨h1, h2, rising_foldl h3 fun _ _ => rising_set _ _ _ _, h4⟩

theorem KeepsTile.setTags (h : KeepsTile s₀ x) {ls : List Nat} {v : Nat} :
    KeepsTile s₀ { x with tags := setAll 0 x.tags ls v } := by
  intro h0
  obtain ⟨h1, h2, h3, h4, h5⟩ := (tile_keyed_iff x).mp (h h0)
  exact (tile_keyed_iff _).mpr ⟨h1, h2, h3, rising_foldl h4 fun _ _ => rising_set _ _ _ _, h5⟩

theorem KeepsTile.tagLines (h : KeepsTile s₀ x) {g : Nat} {ls : List Nat} : KeepsTile s₀ (tagLines x g ls) := h.setTags

theorem KeepsTile.clearTags (h : KeepsTile s₀ x) {ls : List Nat} : KeepsTile s₀ (clearTags x ls) := h.setTags

theorem KeepsTile.newGeneration (h : KeepsTile s₀ x) : KeepsTile s₀ (newGeneration x) := by
  intro h0
  obtain ⟨h1, h2, h3, -, h5⟩ := (tile_keyed_iff x).mp (h h0)
  exact (tile_keyed_iff _).mpr ⟨h1, h2, h3, rfl, h5⟩

theorem KeepsTile.setAcc (h : KeepsTile s₀ x) {r : Nat} {a : Acc} : KeepsTile s₀ (setAcc x r a) := by
  intro h0
  obtain ⟨h1, h2, h3, h4, h5, h6⟩ := (tile_keyed_iff x).mp (h h0)
  exact (tile_keyed_iff _).mpr ⟨h1, h2, h3, h4, h5, rising_set _ _ _ _ h6⟩

theorem KeepsTile.setOperand (h : KeepsTile s₀ x) {r : Nat} {o : OpTile} : KeepsTile s₀ { x with t := SMap.set {} x.t r o } := by
  intro h0
  obtain ⟨h1, h2, h3, h4, h5, h6⟩ := (tile_keyed_iff x).mp (h h0)
  exact (tile_keyed_iff _).mpr ⟨h1, h2, h3, h4, rising_set _ _ _ _ h5, h6⟩

/-- A tile whose groups are kept or started afresh, with nothing in its other tables. -/
theorem KeepsTile.restarted (h : KeepsTile s₀ x) {f : Nat × Group → Nat × Group} {prog rr slate banks tUse xUse locks queue nextOp
    arrivals sends reqs gen frames pageSwaps moving useClock swap forced loadQ viols} (hk : ∀ p, (f p).1 = p.1)
    (hf : ∀ p, KeepsGroup s₀ p.2 → KeepsGroup s₀ (f p).2) :
    KeepsTile s₀ (Tile.mk prog (x.groups.map f) rr slate banks [] [] tUse xUse [] [] locks queue nextOp arrivals sends reqs
      gen frames pageSwaps moving useClock swap forced loadQ viols) := by
  intro h0
  have hm : KeepsTile s₀ { x with groups := x.groups.map f } := h.mapGroups hk hf
  obtain ⟨h1, h2, -⟩ := (tile_keyed_iff _).mp (hm h0)
  exact (tile_keyed_iff _).mpr ⟨h1, h2, rfl, rfl, rfl, rfl⟩

/-! ### Tables that are mapped value by value -/

/-- The districts change value by value, beside parts of the state that are no tables. -/
theorem Keeps.mapDists (h : Keeps s₀ s) {f : Nat × District → Nat × District} {pending out fresh epoch porstN wrstN throtN dev
    faultCause readySeen shadowCnt holding jrn sinceRecord sch flights code slots dig tme clk pwr boot ports} (hf : ∀ p, (f p).1 = p.1) :
    Keeps s₀ (State.mk pending out fresh epoch porstN wrstN throtN dev faultCause readySeen s.csr s.cnt shadowCnt holding jrn
      sinceRecord sch s.hops flights s.links s.tiles (s.dists.map f) code s.mem slots s.seeds dig tme clk pwr boot ports) :=
  h.parts (dists := rising_map _ _ hf)

/-- The hops change value by value. -/
theorem Keeps.mapHops (h : Keeps s₀ s) {f : Nat × Hop → Nat × Hop} {flights : List Flight} (hf : ∀ p, (f p).1 = p.1) :
    Keeps s₀ { s with hops := s.hops.map f, flights := flights } := h.parts (hops := rising_map _ _ hf)

theorem tilesKeyed_map {m : List (Nat × Tile)} {f : Nat × Tile → Nat × Tile} (h : s₀.keyed = true → tilesKeyed m = true)
    (hk : ∀ p, (f p).1 = p.1) (hf : ∀ p, KeepsTile s₀ p.2 → KeepsTile s₀ (f p).2) (h0 : s₀.keyed = true) :
    tilesKeyed (m.map f) = true := by
  obtain ⟨hr, ha⟩ := (tilesKeyed_iff m).mp (h h0)
  refine (tilesKeyed_iff _).mpr ⟨rising_map _ _ hk hr, fun p hp => ?_⟩
  obtain ⟨q, hq, rfl⟩ := List.mem_map.mp hp
  exact hf q (fun _ => ha q hq) h0

/-- The tiles change value by value. -/
theorem Keeps.mapTiles (h : Keeps s₀ s) {f : Nat × Tile → Nat × Tile} {sch : Sched} (hk : ∀ p, (f p).1 = p.1)
    (hf : ∀ p, KeepsTile s₀ p.2 → KeepsTile s₀ (f p).2) : Keeps s₀ { s with tiles := s.tiles.map f, sch := sch } :=
  h.parts (tiles := fun ht => tilesKeyed_map ht hk hf)

/-- The hops and the links change value by value. -/
theorem Keeps.mapHopsLinks (h : Keeps s₀ s) {f : Nat × Hop → Nat × Hop} {g : Nat × Link → Nat × Link} {flights : List Flight}
    (hf : ∀ p, (f p).1 = p.1) (hg : ∀ p, (g p).1 = p.1) :
    Keeps s₀ { s with hops := s.hops.map f, links := s.links.map g, flights := flights } :=
  h.parts (hops := rising_map _ _ hf) (links := rising_map _ _ hg)

theorem Keeps.noHops (h : Keeps s₀ s) {flights : List Flight} : Keeps s₀ { s with hops := [], flights := flights } :=
  h.parts (hops := fun _ => rfl)

/-! ### Device memory -/

theorem memKeyed_iff (m : DevMem) : memKeyed m = true ↔
    rising m.bytes = true ∧ rising m.tags = true ∧
    (∀ c ∈ m.retained, rising c.bytes = true ∧ ∀ p ∈ c.bytes, p.1 / 4096 = c.block) ∧
    (m.spill.map (·.1)).Nodup ∧ ∀ p ∈ m.spill, inSpill (2 ^ 21 * p.1) = true := by
  simp only [memKeyed, DevMem.copied, DevMem.spilled, Bool.and_eq_true, List.all_eq_true, decide_eq_true_eq, beq_iff_eq, and_assoc]

theorem keyed_setMem {m : DevMem} (h : s.keyed = true) (hm : memKeyed s.mem = true → memKeyed m = true) :
    State.keyed { s with mem := m } = true := by
  obtain ⟨h1, h2, h3, h4, h5, h6, h7, h8⟩ := (keyed_iff s).mp h
  exact (keyed_iff _).mpr ⟨h1, h2, h3, h4, h5, h6, h7, hm h8⟩

theorem keyed_bump {a n : Nat} (h : s.keyed = true) : (bump s a n).keyed = true := (Keeps.refl s).bump.keyed h

/-- Device memory changes, and nothing else that the forms speak of. -/
theorem Keeps.setMem (h : Keeps s₀ s) {m : DevMem} (hk : memKeyed s.mem = true → memKeyed m = true)
    (hw : Memory.wf s.mem = true → Memory.wf m = true) : Keeps s₀ { s with mem := m } := h.parts (mem := hk) (canonical := hw)

theorem Keeps.setTag (h : Keeps s₀ s) {b : Nat} {w : WriteTag} : Keeps s₀ (setTag s b w) := by
  refine h.setMem (fun hm => ?_) (memory_wf_setTag s b w)
  obtain ⟨h1, h2, h3⟩ := (memKeyed_iff _).mp hm
  exact (memKeyed_iff _).mpr ⟨h1, rising_set _ _ _ _ h2, h3⟩

/-- A change of the listed bytes alone, which stay in order of address. -/
theorem memKeyed_bytes {m : DevMem} {l : List (Nat × Option Byte)} (h : memKeyed m = true) (hl : rising l = true) :
    memKeyed { m with bytes := l } = true := by
  obtain ⟨-, h⟩ := (memKeyed_iff m).mp h
  exact (memKeyed_iff _).mpr ⟨hl, h⟩

theorem memKeyed_putByte {m : DevMem} {a : Nat} {b : Byte} (h : memKeyed m = true) : memKeyed (putByte m a b) = true :=
  memKeyed_bytes h (rising_set _ _ _ _ ((memKeyed_iff m).mp h).1)

theorem memKeyed_settleZeros {m : DevMem} (h : memKeyed m = true) : memKeyed (settleZeros m) = true :=
  memKeyed_bytes h (rising_filter _ _ ((memKeyed_iff m).mp h).1)

theorem memKeyed_putBytes {a : Nat} {l : List (Nat × Byte)} {m : DevMem} (h : memKeyed m = true) :
    memKeyed (l.foldl (fun m p => putByte m (a + p.1) p.2) m) = true := by
  induction l generalizing m with
  | nil => exact h
  | cons p r ih => exact ih (memKeyed_putByte h)

theorem rising_putBlock {m l : List (Nat × Option Byte)} {b : Nat} (h : rising m = true) : rising (putBlock m b l) = true :=
  rising_foldl (rising_filter _ _ h) fun _ _ => rising_set _ _ _ _

theorem Keeps.memWrite (h : Keeps s₀ s) {a : Nat} {l : List Byte} : Keeps s₀ (memWrite s a l) :=
  h.setMem memKeyed_putBytes (memory_wf_memWrite s a l)

theorem Keeps.toMirror (h : Keeps s₀ s) {b : Nat} : Keeps s₀ (toMirror s b) := h.setMem id (memory_wf_toMirror s b)

/-! ### Spill pages -/

/-- The first byte of a spill page lies in the spill space. -/
theorem inSpill_page {a : Nat} (h : inSpill a = true) : inSpill (2 ^ 21 * (a / 2 ^ 21)) = true := by
  simp only [inSpill, Bool.and_eq_true, decide_eq_true_eq] at h ⊢
  omega

theorem placeOf_eq_none {page : Nat} : placeOf s page = none ↔ page ∉ s.mem.spill.map (·.1) := by
  simp only [placeOf, Option.map_eq_none_iff, List.find?_eq_none, beq_iff_eq, List.mem_map, not_exists, not_and]

/-- A page that is placed has its first byte in the spill space, and had no place before. -/
theorem memKeyed_place {a : Nat} {p : Placement} {l : List (Nat × Option Byte)} (h : memKeyed s.mem = true) (hs : inSpill a = true)
    (hp : placeOf s (a / 2 ^ 21) = none) :
    memKeyed { s.mem with spill := s.mem.spill ++ [(a / 2 ^ 21, p)], mirror := l } = true := by
  obtain ⟨h1, h2, h3, hn, hi⟩ := (memKeyed_iff _).mp h
  refine (memKeyed_iff _).mpr ⟨h1, h2, h3, ?_, fun q hq => ?_⟩
  · rw [List.map_append, List.nodup_append]
    refine ⟨hn, by simp, fun b hb c hc => ?_⟩
    obtain rfl : c = a / 2 ^ 21 := by simpa using hc
    rintro rfl
    exact placeOf_eq_none.mp hp hb
  · rcases List.mem_append.mp hq with hq | hq
    · exact hi q hq
    · obtain rfl : q = (a / 2 ^ 21, p) := by simpa using hq
      exact inSpill_page hs

theorem Keeps.touchSpill (h : Keeps s₀ s) {q a : Nat} (ht : touchSpill s q a = some u) : Keeps s₀ u := by
  refine h.trans ⟨?_, fun hw => memory_wf_touchSpill s u q a hw ht⟩
  unfold Machine.touchSpill at ht
  intro hk
  split at ht
  · next hs =>
    dsimp only at ht
    split at ht
    · exact Option.some.inj ht ▸ hk
    · next hp =>
      split at ht
      · cases ht
      · rw [← Option.some.inj ht]
        exact keyed_bump (keyed_setMem hk fun hm => memKeyed_place hm hs hp)
  · exact Option.some.inj ht ▸ hk

end Sys2Proof.Machine
end

