-- ==== Sys2Proof/Proofs/FormOfDevice.lean ====
section
/-! SUPPORT. The machine's own parts keep the forms: registers, resets, the journal, links, clocks, power, time and register writes. -/

namespace Sys2Proof.Machine

open Sys2Proof.SMap

variable {s₀ s u : State} {x x' : Tile} {y : Group}

/-! ### The shared operations -/

theorem Keeps.charge {d n k : Nat} (h : Keeps s₀ s) : Keeps s₀ (charge s d n k) :=
  Keeps.ite h h.elsewhere

theorem Keeps.chargeDie {q fj : Nat} (h : Keeps s₀ s) : Keeps s₀ (chargeDie s q fj) :=
  Keeps.ite h h.elsewhere

theorem Keeps.chargeHub {n k : Nat} (h : Keeps s₀ s) : Keeps s₀ (chargeHub s n k) :=
  Keeps.ite h h.elsewhere

theorem Keeps.chargeT2 {a n : Nat} (h : Keeps s₀ s) : Keeps s₀ (chargeT2 s a n) :=
  h.chargeHub

theorem Keeps.emit {o : Out} (h : Keeps s₀ s) : Keeps s₀ (emit s o) :=
  h.elsewhere

theorem Keeps.report {type : Nat} {body : List Word} (h : Keeps s₀ s) : Keeps s₀ (report s type body) :=
  (h.elsewhere.when fun k => k.emit).when fun k => k.emit

theorem Keeps.queueWay {w : WayFlit} {n : Nat} (h : Keeps s₀ s) : Keeps s₀ (queueWay s w n) :=
  h.setLink

theorem Keeps.sendWay {w : WayFlit} {except : Option Nat} (h : Keeps s₀ s) : Keeps s₀ (sendWay s w except) :=
  h.foldl (fun _ _ k => k.queueWay)

theorem Keeps.putCause {b : Nat} {v : Bool} (h : Keeps s₀ s) : Keeps s₀ (putCause s b v) :=
  h.elsewhere

theorem Keeps.settleResume (h : Keeps s₀ s) : Keeps s₀ (settleResume s) := by
  unfold Machine.settleResume
  split
  · exact h
  · exact Keeps.ite h.putCause (Keeps.ite h.elsewhere.putCause h.putCause)

theorem Keeps.waitUntil {t : Word} {from_ : Nat} (h : Keeps s₀ s) : Keeps s₀ (waitUntil s t from_) :=
  h.elsewhere.settleResume

theorem Keeps.sendHold (h : Keeps s₀ s) : Keeps s₀ (sendHold s) :=
  h.elsewhere.sendWay

theorem Keeps.sendRelease {rippleOnly : Bool} (h : Keeps s₀ s) : Keeps s₀ (sendRelease s rippleOnly) :=
  h.sendWay.waitUntil

theorem Keeps.raiseCause {b : Nat} (h : Keeps s₀ s) : Keeps s₀ (raiseCause s b) :=
  Keeps.ite h (h.putCause.settleResume.report.when fun k => k.sendHold)

theorem Keeps.clearCause {b : Nat} (h : Keeps s₀ s) : Keeps s₀ (clearCause s b) :=
  Keeps.ite (h.putCause.when fun k => k.sendRelease) h

theorem Keeps.clearInTurn {b : Nat} (h : Keeps s₀ s) : Keeps s₀ (clearInTurn s b) :=
  Keeps.ite h.clearCause h

theorem Keeps.settleDecision (h : Keeps s₀ s) : Keeps s₀ (settleDecision s) :=
  Keeps.ite h.elsewhere.clearCause h

theorem Keeps.setAbandon {c : Nat} (h : Keeps s₀ s) : Keeps s₀ (setAbandon s c) :=
  Keeps.ite (Keeps.ite h.elsewhere h.elsewhere) h

theorem Keeps.tileViolation {t : TileRef} {code g line : Nat} {more : List Word} (h : Keeps s₀ s) :
    Keeps s₀ (tileViolation s t code g line more) :=
  (h.setTile h.getTile.elsewhere).unless fun k => Keeps.raiseCause (Keeps.report (Keeps.ite k k.setReg))

theorem Keeps.schedViolation {code kind slot district link road : Nat} (h : Keeps s₀ s) :
    Keeps s₀ (schedViolation s code kind slot district link road) :=
  Keeps.raiseCause (Keeps.report (Keeps.ite h h.setReg.setReg.setReg))

theorem Keeps.sendViolation {t : TileRef} {code sid road : Nat} (h : Keeps s₀ s) :
    Keeps s₀ (sendViolation s t code sid road) := by
  unfold Machine.sendViolation
  split
  · exact h.setTile h.getTile.elsewhere
  · exact (h.setTile h.getTile.elsewhere).schedViolation

theorem Keeps.hopViolation {h : HopId} {code slot road : Nat} (hs : Keeps s₀ s) :
    Keeps s₀ (hopViolation s h code slot road) :=
  hs.schedViolation

theorem Keeps.takeFresh (h : Keeps s₀ s) : Keeps s₀ (takeFresh s) :=
  h.elsewhere

/-! ### Flash -/

theorem Keeps.storeUnit {total : Nat} (h : Keeps s₀ s) : Keeps s₀ (storeUnit s total) :=
  Keeps.ite h.elsewhere (Keeps.ite h.elsewhere h)

theorem Keeps.storeTick (h : Keeps s₀ s) : Keeps s₀ (storeTick s) := by
  unfold Machine.storeTick
  split
  · exact h.takeFresh.when fun k => k.storeUnit
  · exact h

/-! ### Clock dividers -/

theorem Keeps.realignDie {q : Nat} (h : Keeps s₀ s) : Keeps s₀ (realignDie s q) := by
  unfold Machine.realignDie
  exact (Keeps.bump (h.foldl (fun _ _ k => k.setDist))).unless fun k => k.clearCause

theorem Keeps.restartPcap {q : Nat} (h : Keeps s₀ s) : Keeps s₀ (restartPcap s q) :=
  Keeps.ite h.elsewhere h

theorem Keeps.stopClock {q : Nat} (h : Keeps s₀ s) : Keeps s₀ (stopClock s q) :=
  h.elsewhere

theorem Keeps.changeDiv {q : Nat} (h : Keeps s₀ s) : Keeps s₀ (changeDiv s q) :=
  Keeps.ite h h.restartPcap.stopClock.realignDie.setReg.bump

theorem Keeps.changeDivs (h : Keeps s₀ s) : Keeps s₀ (changeDivs s) :=
  h.foldl (fun _ _ k => k.changeDiv)

/-! ### Resets -/

theorem Keeps.resetCommon  : Keeps s₀ (resetCommon s) :=
  Keeps.reset.elsewhere

theorem Keeps.porstReset  : Keeps s₀ (porstReset s) :=
  Keeps.resetCommon.elsewhere

theorem Keeps.wrstReset  : Keeps s₀ (wrstReset s) :=
  Keeps.resetCommon.elsewhereMem

/-! ### Start-up -/

theorem Keeps.putCopy {b : Bool} {l : List Byte} (h : Keeps s₀ s) : Keeps s₀ (putCopy s b l) :=
  h.elsewhere

theorem Keeps.takeSeeds {seeds : List Byte} (h : Keeps s₀ s) : Keeps s₀ (takeSeeds s seeds) :=
  h.elsewhere

theorem Keeps.resolveIdentity (h : Keeps s₀ s) : Keeps s₀ (resolveIdentity s) := by
  unfold Machine.resolveIdentity
  dsimp only
  split
  · exact h.takeFresh.takeSeeds.unless fun k => k.putCopy.elsewhere
  · exact h.takeFresh.elsewhere.takeSeeds.when fun k => k.putCopy.putCopy

theorem Keeps.verifySeal (h : Keeps s₀ s) : Keeps s₀ (verifySeal s) :=
  Keeps.ite h (Keeps.ite h.elsewhere h.elsewhere)

theorem Keeps.startClocks (h : Keeps s₀ s) : Keeps s₀ (startClocks s) :=
  Keeps.foldl (Keeps.ite h.elsewhere h) (fun _ _ k => k.realignDie)

theorem Keeps.startBoot {f : Sfdp} (h : Keeps s₀ s) : Keeps s₀ (startBoot s f) :=
  h.startClocks.elsewhere.takeFresh.resolveIdentity.elsewhere.verifySeal.elsewhere

theorem Keeps.reboot  : Keeps s₀ (reboot s) :=
  Keeps.wrstReset.elsewhere.startBoot

/-! ### The journal -/

theorem Keeps.startSeal {flash : Bool} (h : Keeps s₀ s) : Keeps s₀ (startSeal s flash) :=
  h.elsewhere

theorem Keeps.requestSeal {flash : Bool} (h : Keeps s₀ s) : Keeps s₀ (requestSeal s flash) := by
  unfold Machine.requestSeal
  extract_lets
  split
  · exact h
  · split
    · exact Keeps.elsewhere (Keeps.ite h.elsewhere h)
    · split
      · exact Keeps.startSeal (Keeps.elsewhere (Keeps.ite h.elsewhere h))
      · exact Keeps.elsewhere (Keeps.ite h.elsewhere h)

theorem Keeps.nextSign (h : Keeps s₀ s) : Keeps s₀ (nextSign s) := by
  unfold Machine.nextSign
  split
  · exact h.startSeal
  · exact h.elsewhere
  · exact h

theorem Keeps.endSign (h : Keeps s₀ s) : Keeps s₀ (endSign s) :=
  h.elsewhere.nextSign

theorem Keeps.settleWarn (h : Keeps s₀ s) : Keeps s₀ (settleWarn s) :=
  h.elsewhere.when fun k => k.report

theorem Keeps.settleFull (h : Keeps s₀ s) : Keeps s₀ (settleFull s) :=
  Keeps.ite (Keeps.ite h h.report.raiseCause) h.clearInTurn

theorem Keeps.settleLevels (h : Keeps s₀ s) : Keeps s₀ (settleLevels s) :=
  h.settleWarn.settleFull

theorem Keeps.appendNow {d : Draft} (h : Keeps s₀ s) : Keeps s₀ (appendNow s d) :=
  h.elsewhere.chargeHub.settleLevels.when fun k => k.requestSeal

theorem Keeps.append {d : Draft} (h : Keeps s₀ s) : Keeps s₀ (append s d) :=
  Keeps.ite h (Keeps.ite h.appendNow h.elsewhere)

theorem Keeps.appendAll {l : List Draft} (h : Keeps s₀ s) : Keeps s₀ (appendAll s l) :=
  h.foldl (fun _ _ k => k.append)

theorem Keeps.flushHeld {n : Nat} (h : Keeps s₀ s) : Keeps s₀ (flushHeld n s) := by
  induction n generalizing s with
  | zero => exact h
  | succ n ih =>
    unfold Machine.flushHeld
    split
    · exact h
    · split
      · exact ih h.elsewhere.appendNow
      · exact h

theorem Keeps.selfRecord {addr : Nat} {old new : Word} (h : Keeps s₀ s) : Keeps s₀ (selfRecord s addr old new) :=
  h.append

theorem Keeps.selfWrite {addr : Nat} {v : Word} (h : Keeps s₀ s) : Keeps s₀ (selfWrite s addr v) :=
  h.setReg.selfRecord

theorem Keeps.appendLate {d : Draft} (h : Keeps s₀ s) : Keeps s₀ (appendLate s d) :=
  Keeps.ite h (Keeps.ite h.appendNow h.elsewhere)

theorem Keeps.flushLate {n : Nat} (h : Keeps s₀ s) : Keeps s₀ (flushLate n s) := by
  induction n generalizing s with
  | zero => exact h
  | succ n ih =>
    unfold Machine.flushLate
    split
    · exact h
    · split
      · exact ih h.elsewhere.appendNow
      · exact h

theorem Keeps.recordOwed {h : Holding} (hs : Keeps s₀ s) : Keeps s₀ (recordOwed s h) := by
  unfold Machine.recordOwed
  split
  · exact hs.appendLate
  · exact hs

theorem Keeps.clearOwed {src : Source} (h : Keeps s₀ s) : Keeps s₀ (clearOwed s src) :=
  h.elsewhere

theorem Keeps.recordAllOwed (h : Keeps s₀ s) : Keeps s₀ (recordAllOwed s) :=
  h.foldl (fun _ _ k => Keeps.ite k.recordOwed.clearOwed k)

theorem Keeps.enterFault {cause : Nat} (h : Keeps s₀ s) : Keeps s₀ (enterFault s cause) :=
  Keeps.ite h h.recordAllOwed.elsewhere.report

/-! ### Links -/

theorem Keeps.bumpLink {n off k : Nat} (h : Keeps s₀ s) : Keeps s₀ (bumpLink s n off k) :=
  h.bump

theorem Keeps.discardReplay {n : LinkId} (h : Keeps s₀ s) : Keeps s₀ (discardReplay s n) :=
  h.setHop.setLink.bumpLink

theorem Keeps.discardIngress {n : LinkId} (h : Keeps s₀ s) : Keeps s₀ (discardIngress s n) :=
  h.setHop.setLink

theorem Keeps.freshSequence {n : Nat} (h : Keeps s₀ s) : Keeps s₀ (freshSequence s n) :=
  h.setLink

theorem Keeps.raiseRetrain {n : Nat} (h : Keeps s₀ s) : Keeps s₀ (raiseRetrain s n) :=
  h.setLink.raiseCause

theorem Keeps.clearRetrain {n : Nat} (h : Keeps s₀ s) : Keeps s₀ (clearRetrain s n) :=
  h.setLink.unless fun k => k.clearCause

theorem Keeps.settleReplay (h : Keeps s₀ s) : Keeps s₀ (settleReplay s) :=
  Keeps.ite h.clearInTurn h

theorem Keeps.sendTs {n : LinkId} {type turn : Nat} (h : Keeps s₀ s) : Keeps s₀ (sendTs s n type turn) := by
  unfold Machine.sendTs
  dsimp only
  split
  · exact h
  · split
    · exact h.emit
    · exact h.emit

theorem Keeps.sendTest {n : LinkId} (h : Keeps s₀ s) : Keeps s₀ (sendTest s n) :=
  Keeps.ite h h.emit.takeFresh

theorem Keeps.startRetrain {n : LinkId} {byWrite : Bool} (h : Keeps s₀ s) : Keeps s₀ (startRetrain s n byWrite) :=
  Keeps.ite h h.setLink.bumpLink.sendTs.setLink.raiseRetrain.settleReplay

theorem Keeps.startFull {n : LinkId} (h : Keeps s₀ s) : Keeps s₀ (startFull s n) :=
  h.setLink.elsewhere.discardReplay.discardIngress.freshSequence.sendTs.settleReplay

theorem Keeps.followFull {n : LinkId} (h : Keeps s₀ s) : Keeps s₀ (followFull s n) :=
  h.startFull.raiseRetrain

theorem Keeps.markDown {n : LinkId} (h : Keeps s₀ s) : Keeps s₀ (markDown s n) :=
  h.setLink.discardReplay.report.clearRetrain.settleReplay

theorem Keeps.nextAttempt {n : LinkId} (h : Keeps s₀ s) : Keeps s₀ (nextAttempt s n) :=
  h.setLink.sendTs

theorem Keeps.failAttempt {n : LinkId} {cause : Nat} (h : Keeps s₀ s) : Keeps s₀ (failAttempt s n cause) := by
  unfold Machine.failAttempt
  extract_lets
  split
  · exact h.setLink.takeFresh.bumpLink.report.markDown
  · exact h.setLink.takeFresh.bumpLink.report.when fun k => k.nextAttempt

theorem Keeps.disableLink {n : LinkId} (h : Keeps s₀ s) : Keeps s₀ (disableLink s n) :=
  h.setLink.discardReplay.discardIngress.clearRetrain.settleReplay

theorem Keeps.wakeLink {n : LinkId} (h : Keeps s₀ s) : Keeps s₀ (wakeLink s n) :=
  Keeps.ite h.startFull h

theorem Keeps.coordChanged {wasValid : Bool} {was : Word} (h : Keeps s₀ s) : Keeps s₀ (coordChanged s wasValid was) := by
  unfold Machine.coordChanged
  dsimp only
  split
  · exact h.foldl (fun _ _ k => Keeps.ite k k.disableLink)
  · split
    · exact h.foldl (fun _ _ k => Keeps.ite k (Keeps.ite k.wakeLink k.startFull))
    · exact h

theorem Keeps.changeTest {n : LinkId} (h : Keeps s₀ s) : Keeps s₀ (changeTest s n) :=
  Keeps.ite h (h.setLink.unless fun k => k.sendTest)

theorem Keeps.enterTest {n : LinkId} (h : Keeps s₀ s) : Keeps s₀ (enterTest s n) := by
  unfold Machine.enterTest
  dsimp only
  split
  · exact h.changeTest
  · exact Keeps.ite h (h.setLink.settleReplay.sendTest.when fun k => k.raiseRetrain)

theorem Keeps.leaveTest {n : LinkId} (h : Keeps s₀ s) : Keeps s₀ (leaveTest s n) :=
  Keeps.ite h h.setLink.bumpLink.sendTs.raiseRetrain

theorem Keeps.ctrlWritten {n : LinkId} {old : Word} {retrain : Bool} (h : Keeps s₀ s) :
    Keeps s₀ (ctrlWritten s n old retrain) := by
  unfold Machine.ctrlWritten
  extract_lets new disabled woken tested left
  have hd : Keeps s₀ disabled := Keeps.ite h.disableLink h
  have hw : Keeps s₀ woken := Keeps.ite hd.wakeLink hd
  have ht : Keeps s₀ tested := Keeps.ite hw.enterTest hw
  have hl : Keeps s₀ left := Keeps.ite ht.leaveTest ht
  exact Keeps.ite hl.startRetrain hl

/-! ### Power settings -/

theorem Keeps.setDie {q : Nat} {x : DiePower} (h : Keeps s₀ s) : Keeps s₀ (setDie s q x) :=
  h.elsewhere

theorem Keeps.setTarget {q r v : Nat} (h : Keeps s₀ s) : Keeps s₀ (setTarget s q r v) :=
  h.setDie.when fun k => k.setReg

theorem Keeps.droop {q : Nat} {spent : Bool} (h : Keeps s₀ s) : Keeps s₀ (droop s q spent) :=
  h.setTarget

/-! ### Time -/

theorem Keeps.firePulse {k : Fin 4} {late : Bool} (h : Keeps s₀ s) : Keeps s₀ (firePulse s k late) := by
  unfold Machine.firePulse
  dsimp only
  split
  · exact Keeps.setReg (Keeps.ite h.emit.setReg h.emit)
  · exact Keeps.setReg (Keeps.ite h.emit.setReg h.emit)

theorem Keeps.fireLate {n : Nat} {k : Fin 4} (h : Keeps s₀ s) : Keeps s₀ (fireLate n s k) := by
  induction n generalizing s with
  | zero => exact h
  | succ n ih =>
    unfold Machine.fireLate
    split
    · exact ih h.firePulse
    · exact h

theorem Keeps.fireOutput {k : Fin 4} {late : Bool} (h : Keeps s₀ s) : Keeps s₀ (fireOutput s k late) :=
  h.firePulse.fireLate

theorem Keeps.armOutput {k : Fin 4} (h : Keeps s₀ s) : Keeps s₀ (armOutput s k) :=
  h.setReg.fireLate

theorem Keeps.stepTime {d : Int} {keep : Bool} (h : Keeps s₀ s) : Keeps s₀ (stepTime s d keep) :=
  h.elsewhere.foldl (fun _ _ k => k.fireLate)

theorem Keeps.fireSkipped {was : Word} (h : Keeps s₀ s) : Keeps s₀ (fireSkipped s was) :=
  h.foldl (fun _ _ k => Keeps.ite k.fireOutput k)

theorem Keeps.refuseTime {d : Int} (h : Keeps s₀ s) : Keeps s₀ (refuseTime s d) :=
  h.setReg.elsewhere.bump.report

theorem Keeps.measure {d : Int} {t : Word} (h : Keeps s₀ s) : Keeps s₀ (measure s d t) := by
  unfold Machine.measure
  dsimp only
  split
  · exact h
  · split
    · exact h.elsewhere.stepTime
    · split
      · exact h.refuseTime
      · split
        · exact h.setReg.bump.elsewhere
        · exact h.setReg.bump.elsewhere.unless fun k => k.elsewhere

theorem Keeps.setWraps {full : Int} (h : Keeps s₀ s) : Keeps s₀ (setWraps s full) :=
  h.elsewhere

theorem Keeps.noteMeasure {m : Measurement} (h : Keeps s₀ s) : Keeps s₀ (noteMeasure s m) :=
  h.elsewhere

theorem Keeps.takeMeasure {m : Measurement} (h : Keeps s₀ s) : Keeps s₀ (takeMeasure s m) := by
  unfold Machine.takeMeasure
  dsimp only
  split
  · exact h.measure.when fun k => k.elsewhere
  · split
    · exact Keeps.setWraps (h.measure.when fun k => k.elsewhere)
    · exact h.measure.when fun k => k.elsewhere

theorem Keeps.settleMeasures (h : Keeps s₀ s) : Keeps s₀ (settleMeasures s) :=
  h.elsewhere.foldl (fun _ _ k => k.takeMeasure)

theorem Keeps.tickUnit (h : Keeps s₀ s) : Keeps s₀ (tickUnit s) :=
  h.settleMeasures.elsewhere.elsewhere.fireSkipped

theorem Keeps.adjust {w : Word} (h : Keeps s₀ s) : Keeps s₀ (adjust s w).1 := by
  unfold Machine.adjust
  split
  · exact h.refuseTime
  · exact h.stepTime

theorem Keeps.dropPrev (h : Keeps s₀ s) : Keeps s₀ (dropPrev s) := by
  unfold Machine.dropPrev
  split
  · exact h.elsewhere
  · exact h.elsewhere

/-! ### Register accesses -/

theorem Keeps.storeFields {a : Nat} {d : Word} (h : Keeps s₀ s) : Keeps s₀ (storeFields s a d) := by
  unfold Machine.storeFields
  split
  · exact h
  · split
    · exact h.elsewhere
    · split
      · exact h.elsewhere
      · split
        · exact h.elsewhere
        · exact Keeps.ite h.elsewhere (Keeps.ite h.elsewhere (Keeps.ite h h.setReg))

theorem Keeps.unbindHost (h : Keeps s₀ s) : Keeps s₀ (unbindHost s) :=
  h.elsewhere

theorem Keeps.actLow {a : Nat} {old d : Word} {refused : Bool} (h : Keeps s₀ s) : Keeps s₀ (actLow s a old d refused) := by
  unfold Machine.actLow
  split
  · exact Keeps.ite Keeps.reboot h
  · split
    · exact Keeps.ite h.settleWarn.requestSeal (h.settleWarn.when fun k => k.requestSeal)
    · split
      · exact Keeps.ite h h.changeDiv
      · split
        · exact Keeps.ite h.elsewhere h
        · split
          · exact h.adjust
          · split
            · exact Keeps.ite h h.dropPrev
            · exact Keeps.ite (Keeps.ite h.unbindHost h) (Keeps.ite (Keeps.ite h h.elsewhere) h)

theorem Keeps.act {a : Nat} {old d : Word} {refused wasValid : Bool} {wasCoord : Word} (h : Keeps s₀ s) :
    Keeps s₀ (act s a old d refused wasValid wasCoord) := by
  unfold Machine.act
  split
  · exact Keeps.ite h.armOutput h
  · exact Keeps.ite h.coordChanged (Keeps.ite h.ctrlWritten h.actLow)

theorem Keeps.writeWord {src flags a : Nat} {d time : Word} {ms : Nat} (h : Keeps s₀ s) :
    Keeps s₀ (writeWord s src flags a d time ms) :=
  h.storeFields.append.act

theorem Keeps.revertWord {e : Effected} (h : Keeps s₀ s) : Keeps s₀ (revertWord s e) :=
  Keeps.ite h.append h.storeFields.append.act

theorem Keeps.writeNow {src flags a : Nat} {d : Word} (h : Keeps s₀ s) : Keeps s₀ (writeNow s src flags a d) :=
  h.writeWord

theorem Keeps.effectWrite {w : StagedWrite} {ms : Nat} (h : Keeps s₀ s) : Keeps s₀ (effectWrite s w ms) :=
  Keeps.ite h.writeWord h.storeFields

theorem Keeps.drainLeftover {n : Nat} (h : Keeps s₀ s) : Keeps s₀ (drainLeftover n s) := by
  induction n generalizing s with
  | zero => exact h
  | succ n ih =>
    unfold Machine.drainLeftover
    split
    · exact h
    · dsimp only
      split
      · exact ih h.elsewhere.effectWrite.elsewhere
      · exact h

theorem Keeps.drainWaiting (h : Keeps s₀ s) : Keeps s₀ (drainWaiting s) :=
  Keeps.ite h h.drainLeftover.changeDivs

theorem Keeps.release {src v : Nat} (h : Keeps s₀ s) : Keeps s₀ (release s src v) :=
  Keeps.flushLate (Keeps.drainWaiting (Keeps.settleLevels (Keeps.flushHeld (Keeps.ite h.elsewhere.append h.elsewhere.elsewhere))))

theorem Keeps.putHolding {h : Holding} (hs : Keeps s₀ s) : Keeps s₀ (putHolding s h) := by
  unfold Machine.putHolding
  dsimp only
  split
  · split
    · exact hs.elsewhere.recordOwed
    · exact hs.elsewhere
  · exact hs.elsewhere

theorem Keeps.touchHolding {src : Source} (h : Keeps s₀ s) : Keeps s₀ (touchHolding s src) := by
  unfold Machine.touchHolding
  split
  · exact h.putHolding
  · exact h

theorem Keeps.clearOnRead {a : Nat} (h : Keeps s₀ s) : Keeps s₀ (clearOnRead s a) :=
  Keeps.ite h.setReg h

theorem Keeps.readAccess {src : Source} {addr : Word} (h : Keeps s₀ s) : Keeps s₀ (readAccess s src addr).1 := by
  unfold Machine.readAccess
  dsimp only
  split
  · exact h
  · split
    · exact h
    · split
      · exact h.putHolding
      · exact h.touchHolding
      · exact h.clearOnRead

theorem Keeps.stage {l : List StagedWrite} (h : Keeps s₀ s) : Keeps s₀ (stage s l).1 := by
  unfold Machine.stage
  split
  · exact h
  · exact h.elsewhere

theorem Keeps.writeLow {src : Source} {a : Nat} {d : Word} (h : Keeps s₀ s) : Keeps s₀ (writeLow s src a d).1 := by
  unfold Machine.writeLow
  dsimp only
  split
  · exact h.recordOwed.putHolding
  · exact h.recordOwed.putHolding.append

theorem Keeps.writeHigh {src : Source} {a : Nat} {d : Word} (h : Keeps s₀ s) : Keeps s₀ (writeHigh s src a d).1 := by
  unfold Machine.writeHigh
  dsimp only
  split
  · split
    · split
      · exact Keeps.ite h.stage.putHolding h.stage.touchHolding
      · exact h.stage
    · split
      · exact Keeps.ite h.stage.recordOwed.putHolding h.stage.recordOwed.touchHolding
      · exact h.stage
  · split
    · exact Keeps.release (Keeps.ite h.recordOwed.putHolding h.touchHolding)
    · exact Keeps.writeNow (Keeps.storeFields (Keeps.ite h.recordOwed.putHolding h.touchHolding))

theorem Keeps.writeSingle {src : Source} {a : Nat} {d : Word} (h : Keeps s₀ s) : Keeps s₀ (writeSingle s src a d).1 := by
  unfold Machine.writeSingle
  dsimp only
  split
  · split
    · exact h
    · split
      · exact h.stage
      · exact h.stage.writeNow
  · exact h.writeNow

theorem Keeps.writeAccess {src : Source} {addr data : Word} (h : Keeps s₀ s) :
    Keeps s₀ (writeAccess s src addr data).1 := by
  unfold Machine.writeAccess
  dsimp only
  split
  · exact h
  · split
    · exact h
    · split
      · exact h
      · split
        · exact h.writeLow
        · exact h.writeHigh
        · exact h.writeSingle

/-! ### Images -/

theorem Keeps.configRecord {a flags : Nat} (h : Keeps s₀ s) : Keeps s₀ (configRecord s a flags) :=
  h.append

theorem Keeps.configSet {a : Nat} {v : Word} (h : Keeps s₀ s) : Keeps s₀ (configSet s a v) :=
  h.setReg.configRecord

theorem Keeps.configWrite {e : Word × Word} (h : Keeps s₀ s) : Keeps s₀ (configWrite s e) :=
  h.storeFields.configRecord.act

theorem Keeps.applyImage {x : ImageInfo} (h : Keeps s₀ s) : Keeps s₀ (applyImage s x) :=
  Keeps.foldl (Keeps.foldl (h.elsewhere.foldl (fun _ _ k => k.configSet)) (fun _ _ k => k.configSet)) (fun _ _ k => k.configWrite)

/-! ### Steps of start-up -/

theorem Keeps.execPorstAssert (h : Keeps s₀ s) : KeepsNext s₀ (execPorstAssert s) :=
  Keeps.next (Keeps.ite Keeps.porstReset h)

theorem Keeps.execPorstRelease {f : Sfdp} (h : Keeps s₀ s) : KeepsNext s₀ (execPorstRelease f s) :=
  Keeps.next (Keeps.ite h (h.elsewhere.when fun k => k.startBoot))

theorem Keeps.execWrstAssert (h : Keeps s₀ s) : KeepsNext s₀ (execWrstAssert s) :=
  Keeps.next (Keeps.ite h (Keeps.ite Keeps.wrstReset h.elsewhere))

theorem Keeps.execWrstRelease {f : Sfdp} (h : Keeps s₀ s) : KeepsNext s₀ (execWrstRelease f s) :=
  Keeps.next (Keeps.ite h (h.elsewhere.when fun k => k.startBoot))

theorem Keeps.epochRecords (h : Keeps s₀ s) : Keeps s₀ (epochRecords s) :=
  h.append.appendAll.appendAll

theorem Keeps.stepSix (h : Keeps s₀ s) : Keeps s₀ (stepSix s) := by
  unfold Machine.stepSix
  dsimp only
  split
  · exact h
  · split
    · exact h.enterFault
    · split
      · exact h.elsewhere.epochRecords.elsewhere.applyImage
      · exact h.elsewhere.epochRecords.elsewhere

theorem Keeps.execLpddrTrainingDone {ok : Bool} {units : Fin 31} (h : Keeps s₀ s) :
    KeepsNext s₀ (execLpddrTrainingDone ok units s) :=
  Keeps.next (Keeps.ite h.elsewhereMem.stepSix h)

theorem Keeps.execImageCheckDone (h : Keeps s₀ s) : KeepsNext s₀ (execImageCheckDone s) :=
  Keeps.next (Keeps.ite h.takeFresh.elsewhere.stepSix h)

theorem Keeps.wakeLinks (h : Keeps s₀ s) : Keeps s₀ (wakeLinks s) :=
  h.foldl (fun _ _ k => Keeps.ite k.enterTest k.wakeLink)

theorem Keeps.restartFec (h : Keeps s₀ s) : Keeps s₀ (restartFec s) :=
  Keeps.ite h.elsewhere h

theorem Keeps.execBootReady (h : Keeps s₀ s) : KeepsNext s₀ (execBootReady s) := by
  unfold Machine.execBootReady
  dsimp only
  refine Keeps.next ?_
  split
  · split
    · exact h.elsewhere.restartFec.elsewhereMem.wakeLinks
    · exact h.elsewhere.restartFec.elsewhere
  · exact h

theorem Keeps.execPortLinkUp {p : PortId} (h : Keeps s₀ s) : KeepsNext s₀ (execPortLinkUp p s) := by
  refine Keeps.next ?_
  cases p
  · exact .ite h (.ite h.elsewhere h)
  · exact .ite h h.elsewhere

theorem Keeps.execPortLinkDown {p : PortId} (h : Keeps s₀ s) : KeepsNext s₀ (execPortLinkDown p s) := by
  unfold Machine.execPortLinkDown
  refine Keeps.next ?_
  split
  · exact h.elsewhere
  · exact h.elsewhere

end Sys2Proof.Machine
end

