-- ==== Sys2Proof/Proofs/FormOfTiles.lean ====
section
/-! SUPPORT. The tiles keep the forms: operands, device memory, tolls, loads and stores, hops, departures and the engines. -/

namespace Sys2Proof.Machine

open Sys2Proof.SMap

variable {s₀ s u : State} {x x' : Tile} {y : Group}

/-! ### Operands and issue -/

theorem KeepsGroup.writeThreads {x : Group} {r : Nat} {ks : List Nat} {f : Nat → DWord} (hy : KeepsGroup s₀ x) :
    KeepsGroup s₀ (writeThreads x r ks f) :=
  hy.foldl (fun _ _ h => h.setS)

theorem KeepsGroup.writeLanes {x : Group} {r : Nat} {is : List Nat} {f : Nat → Word} (hy : KeepsGroup s₀ x) :
    KeepsGroup s₀ (writeLanes x r is f) :=
  hy.foldl (fun _ _ h => h.setV)

theorem KeepsGroup.advance {x : Group} (hy : KeepsGroup s₀ x) : KeepsGroup s₀ (advance x) :=
  hy.elsewhere

theorem Keeps.chargeIssue {d : Nat} {c : Port} (h : Keeps s₀ s) : Keeps s₀ (chargeIssue s d c) := by
  unfold Machine.chargeIssue
  split
  · exact h.charge
  · exact h
  · exact h.charge

theorem Keeps.countIssue {t : TileRef} {g : Nat} {p : Port} (h : Keeps s₀ s) : Keeps s₀ (countIssue s t g p) :=
  (h.setTile h.getTile.elsewhere).bump.chargeIssue

theorem Keeps.putGroup {t : TileRef} {g : Nat} {y : Group} (h : Keeps s₀ s) (hy : KeepsGroup s₀ y) :
    Keeps s₀ (putGroup s t g y) :=
  h.setTile (h.getTile.setGroup hy)

theorem Keeps.advanceGroup {t : TileRef} {g : Nat} (h : Keeps s₀ s) : Keeps s₀ (advanceGroup s t g) :=
  h.putGroup h.getTile.getGroup.advance

theorem Keeps.decoded {ok : Bool} (h : Keeps s₀ s) : KeepsNext s₀ (decoded ok s) :=
  KeepsNext.ite h.next KeepsNext.refused

theorem Keeps.issueGroup {t : TileRef} {g : Nat} {p : Port} {ss vs : List Nat} {f : Group → Group} (h : Keeps s₀ s)
    (hf : ∀ y, KeepsGroup s₀ y → KeepsGroup s₀ (f y)) : Keeps s₀ (issueGroup s t g p ss vs f) :=
  Keeps.ite (h.countIssue.putGroup (hf _ h.getTile.getGroup).advance) h

theorem KeepsTile.touchPage {x : Tile} {wr : Bool} {page : Nat} (hx : KeepsTile s₀ x) :
    KeepsTile s₀ (touchPage x wr page) :=
  hx.elsewhere

theorem Keeps.noteNeed {t : TileRef} {g : Nat} {n : Need} (h : Keeps s₀ s) : Keeps s₀ (noteNeed s t g n) :=
  h.putGroup h.getTile.getGroup.elsewhere

theorem Keeps.wantPages {t : TileRef} {ps : List Nat} (h : Keeps s₀ s) : Keeps s₀ (wantPages s t ps) :=
  h.setTile h.getTile.elsewhere

theorem Keeps.awaitPages {t : TileRef} {g : Nat} {ps : List Nat} (h : Keeps s₀ s) : Keeps s₀ (awaitPages s t g ps) :=
  h.wantPages.noteNeed

theorem KeepsTile.touchLines {x : Tile} {wr : Bool} {ls : List Nat} (hx : KeepsTile s₀ x) :
    KeepsTile s₀ (touchLines x wr ls) :=
  hx.foldl (fun _ _ h => h.touchPage)

theorem KeepsTile.bookBanks {x : Tile} {place : Nat} {ls : List Nat} (hx : KeepsTile s₀ x) :
    KeepsTile s₀ (bookBanks x place ls) :=
  hx.elsewhere

theorem KeepsTile.serveBanks {x : Tile} (hx : KeepsTile s₀ x) : KeepsTile s₀ (serveBanks x).1 :=
  hx.elsewhere

theorem Keeps.useLines {t : TileRef} {place : Nat} {wr : Bool} {ls : List Nat} (h : Keeps s₀ s) :
    Keeps s₀ (useLines s t place wr ls) :=
  (h.setTile h.getTile.bookBanks.touchLines).charge

theorem KeepsTile.noteUse {x : Tile} {g : Nat} {c : Use} (hx : KeepsTile s₀ x) : KeepsTile s₀ (noteUse x g c) := by
  unfold Machine.noteUse
  split
  · exact hx.elsewhere
  · exact hx.elsewhere
  · exact hx.elsewhere
  · exact hx.elsewhere
  · exact hx.elsewhere

/-! ### Device memory -/

theorem Keeps.updateCheck {b : Nat} (h : Keeps s₀ s) : Keeps s₀ (updateCheck s b) := by
  unfold Machine.updateCheck
  split
  · exact h.setTag
  · exact h

theorem Keeps.giveCheck {b : Nat} (h : Keeps s₀ s) : Keeps s₀ (giveCheck s b) := by
  unfold Machine.giveCheck
  split
  · exact h
  · exact h.setTag

theorem Keeps.chargeAccess {a k : Nat} (h : Keeps s₀ s) : Keeps s₀ (chargeAccess s a k) := by
  unfold Machine.chargeAccess
  split
  · exact h.chargeDie
  · exact h.chargeHub

theorem Keeps.chargeRetain {b : Nat} (h : Keeps s₀ s) : Keeps s₀ (chargeRetain s b) :=
  h.chargeAccess.when fun k => k.chargeHub

/-- A retain copy holds the bytes of its own block, in order of address. -/
theorem memKeyed_retain {m : DevMem} {c : Retain} (h : memKeyed m = true) (hc : c.bytes = blockOf m.bytes c.block) :
    memKeyed { m with retained := m.retained ++ [c] } = true := by
  obtain ⟨h1, h2, h3, h4⟩ := (memKeyed_iff m).mp h
  refine (memKeyed_iff _).mpr ⟨h1, h2, fun d hd => ?_, h4⟩
  rcases List.mem_append.mp hd with hd | hd
  · exact h3 d hd
  · obtain rfl : d = c := by simpa using hd
    rw [hc]
    refine ⟨rising_filter _ _ h1, fun p hp => ?_⟩
    simpa using (List.mem_filter.mp hp).2

theorem Keeps.retainBlock (h : Keeps s₀ s) {b : Nat} : Keeps s₀ (retainBlock s b) := by
  unfold Machine.retainBlock
  split
  · exact h
  · exact (h.chargeRetain.giveCheck.setMem (fun hm => memKeyed_retain hm rfl) id).setTag.bump

theorem Keeps.tileStore {t : TileRef} {g a : Nat} {l : List Byte} (h : Keeps s₀ s) : Keeps s₀ (tileStore s t g a l) :=
  Keeps.foldl (Keeps.memWrite (h.foldl (fun _ _ k => k.retainBlock))) (fun _ _ k => k.setTag.updateCheck)

/-- An access that nothing stops has its page placed. -/
theorem Keeps.tileAccess (h : Keeps s₀ s) {t : TileRef} {g a n : Nat} {wr : Bool} (ha : tileAccess s t g a n wr = .inr u) :
    Keeps s₀ u := by
  unfold Machine.tileAccess at ha
  split at ha
  · cases ha
  · split at ha
    · cases ha
    · split at ha
      · cases ha
      · next v hv => exact Sum.inr.inj ha ▸ .ite (h.touchSpill hv).bump (h.touchSpill hv)

theorem Keeps.noteRead {a n : Nat} (h : Keeps s₀ s) : Keeps s₀ (noteRead s a n) :=
  h.elsewhereMem

theorem Keeps.chargeLines {lines whole : List Nat} (h : Keeps s₀ s) : Keeps s₀ (chargeLines s lines whole) :=
  Keeps.foldl (h.foldl (fun _ _ k => k.chargeAccess)) (fun _ _ k => k.chargeAccess)

theorem Keeps.hostStore {a : Nat} {l : List Byte} {whole : List Nat} (h : Keeps s₀ s) : Keeps s₀ (hostStore s a l whole) := by
  unfold Machine.hostStore
  extract_lets bs written copied checked
  have hw : Keeps s₀ written := h.memWrite
  have hc : Keeps s₀ copied := hw.foldl fun _ _ k => Keeps.ite k.chargeHub.toMirror k
  have hu : Keeps s₀ checked := hc.foldl fun _ _ k => k.updateCheck
  exact hu.foldl fun _ _ k => k.giveCheck

theorem KeepsTile.resetTile {x : Tile} (hx : KeepsTile s₀ x) : KeepsTile s₀ (resetTile x) :=
  hx.restarted (fun _ => rfl) (fun _ _ => KeepsGroup.fresh)

/-- What a partition reset takes out: the tiles of the partition lose their working state, their code and their tags. -/
theorem Keeps.clearPartition (h : Keeps s₀ s) {qs : List Nat} {f : Nat × District → Nat × District} {k : Nat × WriteTag → Bool}
    {code : List (Nat × DWord)} {n : Nat} (hf : ∀ p, (f p).1 = p.1) :
    Keeps s₀ { s with
      tiles := s.tiles.map (fun p => if keyIn qs p.1 then (p.1, resetTile p.2) else p), dists := s.dists.map f, code := code
      mem := { s.mem with tags := s.mem.tags.filter k, attemptResets := n } } := by
  refine h.parts (dists := rising_map _ _ hf) (tiles := fun ht => tilesKeyed_map ht (fun p => by split <;> rfl) fun p hp => ?_)
    (mem := fun hm => ?_)
  · split
    · exact hp.resetTile
    · exact hp
  · obtain ⟨h1, h2, h3⟩ := (memKeyed_iff _).mp hm
    exact (memKeyed_iff _).mpr ⟨h1, rising_filter _ _ h2, h3⟩

theorem Keeps.partitionReset (h : Keeps s₀ s) {q : Nat} : Keeps s₀ (partitionReset s q) := by
  unfold Machine.partitionReset
  extract_lets qs m marked raised abandoned m' cleared
  have ha : Keeps s₀ abandoned := h.elsewhereMem.raiseCause.setAbandon
  have hc : Keeps s₀ cleared := ha.clearPartition fun p => by split <;> rfl
  exact .ite h (hc.when fun k => k.enterFault)

theorem Keeps.uncorrectable {a source : Nat} {restore : Bool} (h : Keeps s₀ s) :
    Keeps s₀ (uncorrectable s a source restore) := by
  unfold Machine.uncorrectable
  dsimp only
  split
  · exact h.setReg.setReg.setReg.report.enterFault
  · split
    · exact h.setReg.setReg.setReg.report.partitionReset
    · exact h.setReg.setReg.setReg.report.enterFault

theorem Keeps.pathFailure {a : Nat} {parity : Bool} (h : Keeps s₀ s) : Keeps s₀ (pathFailure s a parity) :=
  h.bump.report.setAbandon

theorem Keeps.corrected {a : Nat} (h : Keeps s₀ s) : Keeps s₀ (corrected s a) :=
  Keeps.ite h.bump h.bump

theorem Keeps.memOutcome {a source : Nat} {verify : Bool} {o : MemOutcome} (h : Keeps s₀ s) :
    Keeps s₀ (memOutcome s a source verify o) := by
  unfold Machine.memOutcome
  split
  · exact h
  · exact h.corrected
  · exact h.uncorrectable
  · exact Keeps.ite h.uncorrectable h.pathFailure
  · exact h.pathFailure

theorem Keeps.meet {source : Nat} {verify : Bool} {hit : Nat → Bool} {d : Damage} (h : Keeps s₀ s) :
    Keeps s₀ (meet s source verify hit d) :=
  h.foldl (fun _ _ k => k.memOutcome)

theorem Keeps.copyError {a : Nat} (h : Keeps s₀ s) : Keeps s₀ (copyError s a) :=
  h.uncorrectable.takeFresh

theorem Keeps.copyMeets {hit : Nat → Bool} {d : Damage} (h : Keeps s₀ s) : Keeps s₀ (copyMeets s hit d).1 := by
  unfold Machine.copyMeets
  dsimp only
  split
  · exact Keeps.copyError (h.foldl (fun _ _ k => Keeps.ite k.corrected k))
  · exact h.foldl (fun _ _ k => Keeps.ite k.corrected k)

theorem Keeps.chargeRestore {b : Nat} (h : Keeps s₀ s) : Keeps s₀ (chargeRestore s b) :=
  h.chargeAccess.chargeHub

/-- Restored bytes and the copies that stay. -/
theorem memKeyed_restored {m : DevMem} {l : List (Nat × Option Byte)} {k : Retain → Bool} {z : List (Nat × Nat)}
    (h : memKeyed m = true) (hl : rising l = true) :
    memKeyed (settleZeros { m with bytes := l, retained := m.retained.filter k, zeroed := z }) = true := by
  obtain ⟨-, h2, h3, h4⟩ := (memKeyed_iff m).mp h
  exact memKeyed_settleZeros ((memKeyed_iff _).mpr ⟨hl, h2, fun c hc => h3 c (List.mem_filter.mp hc).1, h4⟩)

theorem rising_putBlocks {m : List (Nat × Option Byte)} {l : List Retain} (h : rising m = true) :
    rising (l.foldl (fun m c => putBlock m c.block c.bytes) m) = true := rising_foldl h fun _ _ => rising_putBlock

theorem Keeps.restorePartition (h : Keeps s₀ s) {qs : List Nat} : Keeps s₀ (restorePartition s qs) := by
  refine ⟨fun h0 => ?_, fun h0 => memory_wf_restorePartition s qs (h.canonical h0)⟩
  unfold Machine.restorePartition
  refine Keeps.keyed (s₀ := { s with mem := _ }) (((Keeps.refl _).foldl fun _ _ k => k.chargeRestore.setTag).foldl
    fun _ _ k => k.chargeRestore.giveCheck) (keyed_setMem (h.keyed h0) fun hm => memKeyed_restored hm ?_)
  exact rising_putBlocks (rising_foldl (rising_filter _ _ ((memKeyed_iff _).mp hm).1) fun _ _ => rising_set _ _ _ _)

theorem Keeps.restoreRetained (h : Keeps s₀ s) : Keeps s₀ (restoreRetained s) := by
  refine ⟨fun h0 => ?_, fun h0 => memory_wf_restoreRetained s (h.canonical h0)⟩
  unfold Machine.restoreRetained
  refine keyed_bump (keyed_setMem (((Keeps.refl s).foldl fun _ _ k => k.chargeAccess).keyed (h.keyed h0)) fun _ => ?_)
  obtain ⟨-, -, -, -, -, -, -, hm⟩ := (keyed_iff s).mp (h.keyed h0)
  obtain ⟨h1, h2, h3, h4⟩ := (memKeyed_iff _).mp hm
  exact memKeyed_settleZeros ((memKeyed_iff _).mpr
    ⟨rising_putBlocks h1, rising_foldl h2 fun _ _ => rising_set _ _ _ _, by simp, h4⟩)

/-! ### Digests -/

theorem Keeps.comparePeer {k : Nat} {p : Nat × BitVec 256} (h : Keeps s₀ s) : Keeps s₀ (comparePeer s k p) :=
  Keeps.ite (h.elsewhere.unless fun k => k.bump.setReg.setAbandon.report) h

theorem Keeps.comparePeers {t : TileRef} (h : Keeps s₀ s) : Keeps s₀ (comparePeers s t) :=
  h.foldl (fun _ _ k => k.comparePeer)

theorem Keeps.keepPeers (h : Keeps s₀ s) : Keeps s₀ (keepPeers s) :=
  h.elsewhere

theorem Keeps.deliverTo {t : TileRef} {dg : BitVec 256} (h : Keeps s₀ s) : Keeps s₀ (deliverTo s t dg) := by
  unfold Machine.deliverTo
  extract_lets x
  split
  · exact h
  · extract_lets bytes written woken charged
    have hx : KeepsTile s₀ woken := h.getTile.spadWrite.clearTags.mapGroups (fun _ => by split <;> rfl) fun _ k => by
      split
      · exact k.elsewhere
      · exact k
    have hc : Keeps s₀ charged := (h.setTile hx).charge
    exact Keeps.ite hc hc.elsewhere.comparePeers

theorem Keeps.deliverDigest (h : Keeps s₀ s) : Keeps s₀ (deliverDigest s) := by
  unfold Machine.deliverDigest
  split
  · exact h
  · split
    · exact h
    · exact h.foldl (fun _ _ k => Keeps.ite (k.deliverTo.when fun k => k.deliverTo) k)

/-! ### Spans -/

theorem KeepsTile.setSend {x : Tile} {sid : Nat} {st : SendState} (hx : KeepsTile s₀ x) :
    KeepsTile s₀ (setSend x sid st) :=
  hx.elsewhere

theorem KeepsGroup.addOutput {y : Group} {o : Output} (hy : KeepsGroup s₀ y) : KeepsGroup s₀ (addOutput y o) :=
  hy.elsewhere

theorem KeepsGroup.fillOutput {y : Group} {op : Nat} {l : List Byte} (hy : KeepsGroup s₀ y) :
    KeepsGroup s₀ (fillOutput y op l) :=
  hy.elsewhere

/-! ### Tolls -/

theorem KeepsTile.releaseScope {scope : Nat} {x : Tile} (hx : KeepsTile s₀ x) : KeepsTile s₀ (releaseScope scope x) :=
  hx.mapGroups (fun _ => by split <;> rfl) (fun _ h => by
    split
    · exact h.elsewhere
    · exact h)

theorem KeepsTile.settleGroups {x : Tile} (hx : KeepsTile s₀ x) : KeepsTile s₀ (settleGroups x) :=
  hx.mapGroups (fun _ => by split <;> rfl) (fun _ h => by
    split
    · exact h.elsewhere
    · exact h)

theorem KeepsTile.settleTile {x : Tile} (hx : KeepsTile s₀ x) : KeepsTile s₀ (settleTile x) :=
  KeepsTile.ite hx.releaseScope.newGeneration hx

theorem KeepsTile.settleShadow {p x : Tile} (hx : KeepsTile s₀ x) : KeepsTile s₀ (settleShadow p x) := by
  unfold Machine.settleShadow
  extract_lets ok atTile atGroup
  have ht : KeepsTile s₀ atTile := KeepsTile.ite hx.releaseScope hx
  have hg : KeepsTile s₀ atGroup := KeepsTile.ite ht.releaseScope.newGeneration ht
  exact KeepsTile.ite hg.releaseScope.newGeneration hg

theorem Keeps.settleTolls {d : Fin 144} (h : Keeps s₀ s) : Keeps s₀ (settleTolls s d) := by
  unfold Machine.settleTolls
  extract_lets ts settled released x passed
  have hs : Keeps s₀ settled := h.foldl fun _ _ k => k.setTile k.getTile.settleGroups.settleTile
  have hr : Keeps s₀ released := hs.foldl fun _ _ k => k.setTile k.getTile.releaseScope.newGeneration
  have hp : Keeps s₀ passed := Keeps.ite hr.setDist hs
  exact hp.foldl fun _ _ k => Keeps.ite (k.setTile k.getTile.settleShadow) k

/-! ### Loads and stores -/

theorem KeepsGroup.applyPuts {y : Group} {l : List RegPut} (hy : KeepsGroup s₀ y) : KeepsGroup s₀ (applyPuts y l) :=
  hy.foldl (fun _ _ h => by
    split
    · exact h.setS
    · exact h.setV)

theorem Keeps.endAccesses {t : TileRef} {g : Nat} {vs : List (Nat × Nat × List Word)} (h : Keeps s₀ s) :
    Keeps s₀ (endAccesses s t g vs) :=
  Keeps.ite h.advanceGroup (h.foldl (fun _ _ k => k.tileViolation))

theorem KeepsTile.spadPut {x : Tile} {g a : Nat} {l : List Byte} (hx : KeepsTile s₀ x) :
    KeepsTile s₀ (spadPut x g a l).1 := by
  unfold Machine.spadPut
  dsimp only
  split
  · exact hx.spadWrite.tagLines
  · exact hx

theorem Keeps.ldSpad {t : TileRef} {g : Nat} {f : MFields} {acc : List Access} (h : Keeps s₀ s) :
    Keeps s₀ (ldSpad s t g f acc) := by
  unfold Machine.ldSpad
  dsimp only
  split
  · exact h.noteNeed
  · split
    · exact h.awaitPages
    · exact (h.countIssue.useLines.putGroup h.countIssue.useLines.getTile.getGroup.applyPuts).endAccesses

theorem Keeps.stSpad {t : TileRef} {g : Nat} {f : MFields} {acc : List Access} (h : Keeps s₀ s) :
    Keeps s₀ (stSpad s t g f acc) := by
  unfold Machine.stSpad
  extract_lets x y ls issued written
  split
  · exact h.noteNeed
  · split
    · exact h.awaitPages
    · have hi : Keeps s₀ issued := h.countIssue.useLines
      have hw : KeepsTile s₀ written.1 := KeepsTile.foldlFst hi.getTile fun _ _ k => k.spadPut
      exact (hi.setTile hw).endAccesses

theorem Keeps.feedShadow {t : TileRef} {g ia count : Nat} {l : List RegPut} (h : Keeps s₀ s) :
    Keeps s₀ (feedShadow s t g ia count l) := by
  unfold Machine.feedShadow
  split
  · exact h.setTile h.getTile.elsewhere
  · exact h

theorem Keeps.roomAgain {t : TileRef} (h : Keeps s₀ s) : Keeps s₀ (roomAgain s t) :=
  h.setTile (h.getTile.mapGroups (fun _ => by split <;> rfl) (fun _ k => by
    split
    · exact k.elsewhere
    · exact k))

theorem Keeps.ldShadow {t : TileRef} {g : Nat} {f : MFields} {acc : List Access} (h : Keeps s₀ s) :
    Keeps s₀ (ldShadow s t g f acc) := by
  unfold Machine.ldShadow
  extract_lets x y issued x'
  split
  · exact h.noteNeed
  · extract_lets taken y' put
    have hi : Keeps s₀ issued := h.countIssue
    have ht : Keeps s₀ taken := (hi.setTile hi.getTile.elsewhere).roomAgain
    have hp : Keeps s₀ put := ht.putGroup ht.getTile.getGroup.elsewhere.applyPuts
    exact hp.endAccesses

theorem Keeps.foldOutput {t : TileRef} {g : Nat} {l : List Byte} (h : Keeps s₀ s) : Keeps s₀ (foldOutput s t g l) :=
  Keeps.ite (h.putGroup h.getTile.getGroup.addOutput) h

theorem Keeps.ldDesc {t : TileRef} {g : Nat} {f : MFields} {acc : List Access} (h : Keeps s₀ s) :
    Keeps s₀ (ldDesc s t g f acc) := by
  unfold Machine.ldDesc
  split
  · exact h.noteNeed
  · exact (h.countIssue.feedShadow.putGroup h.countIssue.getTile.getGroup.elsewhere.applyPuts).endAccesses

theorem Keeps.devAccess {t : TileRef} {g n : Nat} {data : Option (Nat → List Byte)} {z : DevResult} {p : Access}
    (h : Keeps s₀ z.s) : Keeps s₀ (Machine.devAccess t g n data z p).s := by
  unfold Machine.devAccess
  split
  · exact h
  · next v hv =>
    split
    · exact (h.tileAccess hv).tileStore.foldOutput
    · exact (h.tileAccess hv).noteRead

theorem Keeps.devAccesses (h : Keeps s₀ s) {t : TileRef} {g n : Nat} {data : Option (Nat → List Byte)} {acc : List Access} :
    Keeps s₀ (devAccesses s t g n data acc).s := by
  have all : ∀ z : DevResult, Keeps s₀ z.s → Keeps s₀ (acc.foldl (Machine.devAccess t g n data) z).s := by
    induction acc with
    | nil => exact fun z hz => hz
    | cons p r ih => exact fun z hz => ih _ hz.devAccess
  exact all { s := s } h

theorem Keeps.ldDev {t : TileRef} {g : Nat} {f : MFields} {acc : List Access} (h : Keeps s₀ s) :
    Keeps s₀ (ldDev s t g f acc) := by
  unfold Machine.ldDev
  split
  · exact h.noteNeed
  · split
    · exact h.noteNeed
    · extract_lets issued r first charged y x e queued y' put
      have hc : Keeps s₀ charged := h.countIssue.charge.devAccesses.chargeLines
      have hq : Keeps s₀ queued := hc.setTile hc.getTile.elsewhere
      have hy : KeepsGroup s₀ y' := hc.getTile.getGroup.elsewhere
      have hp : Keeps s₀ put := hq.putGroup (by
        split
        · exact hy.elsewhere
        · exact hy.elsewhere)
      exact hp.endAccesses

theorem Keeps.stShadow {t : TileRef} {g : Nat} {f : MFields} {acc : List Access} (h : Keeps s₀ s) :
    Keeps s₀ (stShadow s t g f acc) :=
  Keeps.endAccesses (h.countIssue.foldl (fun _ _ k => k.foldOutput))

theorem Keeps.stDev {t : TileRef} {g : Nat} {f : MFields} {acc : List Access} {dm : Damage} (h : Keeps s₀ s) :
    Keeps s₀ (stDev s t g f acc dm) := by
  unfold Machine.stDev
  split
  · exact h.noteNeed
  · extract_lets y issued r charged
    have hc : Keeps s₀ charged := h.countIssue.charge.devAccesses.chargeLines
    exact (hc.setTile hc.getTile.elsewhere).endAccesses.meet.meet

theorem Keeps.execLd {t : TileRef} {g : GroupId} {gd : Guard} {f : MFields} (h : Keeps s₀ s) :
    KeepsNext s₀ (execLd t g gd f s) := by
  unfold Machine.execLd
  dsimp only
  refine Keeps.decoded ?_
  split
  · split
    · exact h.countIssue.advanceGroup
    · exact Keeps.ite h.ldSpad (Keeps.ite h.ldShadow (Keeps.ite h.ldDev h.ldDesc))
  · exact h

theorem Keeps.execSt {t : TileRef} {g : GroupId} {gd : Guard} {f : MFields} {dm : Damage} (h : Keeps s₀ s) :
    KeepsNext s₀ (execSt t g gd f dm s) := by
  unfold Machine.execSt
  dsimp only
  refine Keeps.decoded ?_
  split
  · split
    · exact h.countIssue.advanceGroup
    · exact Keeps.ite h.stSpad (Keeps.ite h.stShadow h.stDev)
  · exact h

theorem Keeps.readWhole {r : MemReq} (h : Keeps s₀ s) : Keeps s₀ (readWhole s r) :=
  Keeps.ite (h.foldl (fun _ _ k => k.giveCheck)) h

theorem Keeps.execLdDataReturn {t : TileRef} {req : Fin 128} {dm : Damage} (h : Keeps s₀ s) :
    KeepsNext s₀ (execLdDataReturn t req dm s) := by
  unfold Machine.execLdDataReturn
  dsimp only
  split
  · exact h.next
  · exact ((h.takeFresh.setTile h.getTile.elsewhere).putGroup (by
    split
    · exact h.getTile.getGroup.applyPuts.elsewhere
    · exact h.getTile.getGroup.applyPuts.elsewhere)).feedShadow.readWhole.meet.settleTolls.next

theorem Keeps.execStAck {t : TileRef} {req : Fin 128} (h : Keeps s₀ s) : KeepsNext s₀ (execStAck t req s) := by
  unfold Machine.execStAck
  dsimp only
  split
  · exact h.next
  · exact (h.setTile h.getTile.elsewhere).settleTolls.next

/-! ### Transfers -/

theorem Keeps.issueSend {t : TileRef} {g : Nat} {e : SendEntry} {line : Nat} (h : Keeps s₀ s) :
    Keeps s₀ (issueSend s t g e line) := by
  unfold Machine.issueSend
  split
  · exact h.foldOutput.setTile h.foldOutput.getTile.setSend
  · exact h.foldOutput.setTile h.foldOutput.getTile.setSend.elsewhere

theorem Keeps.execSendSlot {t : TileRef} {g : GroupId} {sid : BitVec 9} {line : BitVec 17} (h : Keeps s₀ s) :
    KeepsNext s₀ (execSendSlot t g sid line s) := by
  unfold Machine.execSendSlot
  dsimp only
  refine Keeps.next ?_
  split
  · split
    · exact h.countIssue.sendViolation
    · split
      · exact h.noteNeed
      · split
        · exact h.awaitPages
        · split
          · exact h.countIssue.tileViolation
          · exact h.countIssue.issueSend.advanceGroup
  · exact h

theorem Keeps.execRecvWait {t : TileRef} {g : GroupId} {tag : BitVec 9} (h : Keeps s₀ s) :
    KeepsNext s₀ (execRecvWait t g tag s) := by
  unfold Machine.execRecvWait
  refine Keeps.next ?_
  split
  · exact h.countIssue.putGroup (h.getTile.getGroup.advance.when fun k => k.elsewhere)
  · exact h

/-! ### The tables of an itinerary -/

theorem rising_range {α : Type} {n : Nat} {f : Nat → α} : rising ((List.range n).map fun g => (g, f g)) = true := by
  have all : ∀ k m, rising ((List.range' k m).map fun g => (g, f g)) = true := by
    intro k m
    induction m generalizing k with
    | zero => rfl
    | succ m ih =>
      simp only [List.range'_succ, List.map_cons, rising, ih, Bool.and_true, above, List.all_map, List.all_eq_true,
        List.mem_range'_1, Function.comp_apply, decide_eq_true_eq]
      omega
  rw [List.range_eq_range']
  exact all 0 n

theorem KeepsTile.freshTile {p : TileProg} : KeepsTile s₀ (freshTile p) := by
  refine fun _ => (tile_keyed_iff _).mpr ⟨rising_range, fun q hq => ?_, rfl, rfl, rfl, rfl⟩
  obtain ⟨g, -, rfl⟩ := List.mem_map.mp hq
  rfl

theorem KeepsGroup.startGroup {y : Group} {ia : Nat}  : KeepsGroup s₀ (startGroup y ia) :=
  KeepsGroup.fresh

theorem KeepsTile.startTile {x : Tile} {record : Nat} {rewinds : Bool} (hx : KeepsTile s₀ x) :
    KeepsTile s₀ (startTile x record rewinds) := by
  unfold Machine.startTile
  split
  · exact hx
  · exact KeepsTile.ite hx (hx.restarted (fun _ => rfl) (fun _ _ => KeepsGroup.startGroup))

theorem Keeps.installTiles {f : FrameDef} (h : Keeps s₀ s) : Keeps s₀ (installTiles s f) :=
  h.foldl (fun _ _ k => k.setTile k.getTile.elsewhere)

theorem Keeps.addSlot {h : HopId} {e : SlotEntry} (hs : Keeps s₀ s) : Keeps s₀ (addSlot s h e) :=
  hs.setHop

theorem Keeps.installHops {f : FrameDef} (h : Keeps s₀ s) : Keeps s₀ (installHops s f) := by
  unfold Machine.installHops
  split
  · exact h
  · extract_lets cleared filled
    have hc : Keeps s₀ cleared := h.mapHops fun _ => by rfl
    have hf : Keeps s₀ filled := hc.foldl fun _ _ k => by
      split
      · exact k.addSlot
      · exact k
    exact hf.mapHops fun _ => by rfl

theorem Keeps.loadCode {f : Nat → Bool} (h : Keeps s₀ s) : Keeps s₀ (loadCode s f) := by
  unfold Machine.loadCode
  split
  · exact h
  · exact h.chargeHub.elsewhere

theorem Keeps.installJob (h : Keeps s₀ s) : Keeps s₀ (installJob s) := by
  unfold Machine.installJob
  split
  · exact h
  · refine Keeps.loadCode (h.noTiles.foldl fun _ _ k => ?_)
    split
    · exact k.setTile KeepsTile.freshTile
    · exact k

theorem Keeps.makeShadow {t : TileRef} (h : Keeps s₀ s) : Keeps s₀ (makeShadow s t) := by
  unfold Machine.makeShadow
  split
  · exact h.setTile KeepsTile.freshTile.elsewhere
  · exact h

theorem Keeps.dropShadows {d : Fin 144} (h : Keeps s₀ s) : Keeps s₀ (dropShadows s d) :=
  h.foldl (fun _ _ k => k.setTile KeepsTile.fresh)

theorem Keeps.sampleDistrict {c : Nat} {moved : Bool} {d : Fin 144} (h : Keeps s₀ s) :
    Keeps s₀ (sampleDistrict s c moved d) :=
  Keeps.foldl (Keeps.bump (Keeps.setDist (h.dropShadows.unless fun k => k.bump))) (fun _ _ k => k.makeShadow)

theorem Keeps.sampleAll {moved : Fin 144 → Bool} (h : Keeps s₀ s) : Keeps s₀ (sampleAll s moved) :=
  h.elsewhere.foldl (fun _ _ k => k.sampleDistrict)

/-! ### Hops -/

theorem Keeps.leaveIngress {h : HopId} {u : RoadUnit} (hs : Keeps s₀ s) : Keeps s₀ (leaveIngress s h u) := by
  unfold Machine.leaveIngress
  split
  · exact Keeps.ite hs.setLink hs
  · exact hs

theorem Keeps.discardUnit {h : HopId} {u : RoadUnit} (hs : Keeps s₀ s) : Keeps s₀ (discardUnit s h u) :=
  hs.leaveIngress

theorem Keeps.enterVerge {h : HopId} {u : RoadUnit} (hs : Keeps s₀ s) : Keeps s₀ (enterVerge s h u) := by
  unfold Machine.enterVerge
  dsimp only
  split
  · exact hs.setHop
  · split
    · exact Keeps.ite hs.setLink hs.hopViolation.discardUnit
    · exact Keeps.ite hs.setHop hs.hopViolation.discardUnit
    · exact hs.hopViolation.discardUnit

theorem Keeps.admitUnit {h : HopId} {u : RoadUnit} (hs : Keeps s₀ s) : Keeps s₀ (admitUnit s h u) :=
  Keeps.ite hs.discardUnit hs.enterVerge

theorem Keeps.takeEarly {n : Nat} {k : HopId} (h : Keeps s₀ s) : Keeps s₀ (takeEarly n s k) := by
  induction n generalizing s with
  | zero => exact h
  | succ n ih =>
    unfold Machine.takeEarly
    dsimp only
    split
    · exact h
    · split
      · exact h
      · exact ih h.setHop.admitUnit

theorem Keeps.takeAllEarly (h : Keeps s₀ s) : Keeps s₀ (takeAllEarly s) :=
  h.foldl (fun _ _ k => k.takeEarly)

theorem Keeps.takeUnit {h src : HopId} {u : RoadUnit} (hs : Keeps s₀ s) : Keeps s₀ (takeUnit s h src u) := by
  unfold Machine.takeUnit
  split
  · exact hs.admitUnit
  · exact Keeps.ite hs (hs.setHop.foldl (fun _ _ h => h.admitUnit))
  · exact hs.admitUnit

theorem Keeps.landFlight {f : Flight} {dest : Dest} (h : Keeps s₀ s) : Keeps s₀ (landFlight s f dest) :=
  h.elsewhere.when fun k => k.setHop

theorem Keeps.deliverFlight {f : Flight} (h : Keeps s₀ s) : Keeps s₀ (deliverFlight s f) :=
  h.elsewhere.foldl (fun _ _ k => by
    split
    · exact k.takeUnit
    · exact k)

theorem Keeps.deliverStreets {q : Nat} (h : Keeps s₀ s) : Keeps s₀ (deliverStreets s q) :=
  h.foldl (fun _ _ k => k.deliverFlight)

/-! ### Clocks -/

theorem Keeps.noteDivergence {q : Nat} {v : Int} (h : Keeps s₀ s) : Keeps s₀ (noteDivergence s q v) :=
  h.setReg

theorem Keeps.moveDelta {d port : Nat} {by_ : Int} (h : Keeps s₀ s) : Keeps s₀ (moveDelta s d port by_) :=
  Keeps.ite h h.setDist.noteDivergence

theorem Keeps.stretchFifos {d : Nat} (h : Keeps s₀ s) : Keeps s₀ (stretchFifos s d) :=
  Keeps.takeFresh (h.foldl (fun _ _ k => by
    dsimp only
    split
    · exact k.moveDelta.moveDelta
    · exact k.moveDelta))

theorem Keeps.takeEvent {d cnt : Nat} {deep : Bool} (h : Keeps s₀ s) : Keeps s₀ (takeEvent s d cnt deep) :=
  h.setDist.bump.stretchFifos

theorem Keeps.execOwnStretch {d : Fin 144} {margins : Word} (h : Keeps s₀ s) :
    KeepsNext s₀ (execOwnStretch d margins s) :=
  Keeps.next (Keeps.ite (h.setReg.setDist.when fun k => k.takeEvent) h)

theorem Keeps.execSympatheticStretch {d : Fin 144} {port : Fin 4} (h : Keeps s₀ s) :
    KeepsNext s₀ (execSympatheticStretch d port s) := by
  unfold Machine.execSympatheticStretch
  refine Keeps.next ?_
  split
  · exact Keeps.ite h.takeEvent h
  · exact h

theorem Keeps.execCrossingAlert {d : Fin 144} {port : Fin 4} {plus : Bool} (h : Keeps s₀ s) :
    KeepsNext s₀ (execCrossingAlert d port plus s) :=
  Keeps.next (Keeps.ite h.setDist.noteDivergence.setReg.report.raiseCause h)

theorem Keeps.execRealignment {q : Fin 4} (h : Keeps s₀ s) : KeepsNext s₀ (execRealignment q s) :=
  Keeps.next (Keeps.ite h.deliverStreets.realignDie h)

theorem Keeps.execClockLoss {c : ClockSource} (h : Keeps s₀ s) : KeepsNext s₀ (execClockLoss c s) :=
  Keeps.next (Keeps.ite (h.elsewhere.elsewhere.when fun k => k.enterFault) h)

/-! ### Flags of a milestone -/

theorem KeepsGroup.writePred {x : Group} {r : Nat} {ks : List Nat} {f : Nat → Bool} (hy : KeepsGroup s₀ x) :
    KeepsGroup s₀ (writePred x r ks f) :=
  hy.setP

/-! ### Control -/

theorem Keeps.execBr {t : TileRef} {g : GroupId} {gd : Guard} {all wide : Bool} {offset : BitVec 24} (h : Keeps s₀ s) :
    KeepsNext s₀ (execBr t g gd all wide offset s) := by
  unfold Machine.execBr
  dsimp only
  refine Keeps.next ?_
  split
  · split
    · exact h.countIssue.putGroup h.getTile.getGroup.elsewhere
    · exact h.countIssue.putGroup h.getTile.getGroup.advance
  · exact h

theorem KeepsGroup.loopGroup {y : Group} {count body : Nat} (hy : KeepsGroup s₀ y) :
    KeepsGroup s₀ (loopGroup y count body) :=
  KeepsGroup.ite hy.elsewhere hy.elsewhere

theorem Keeps.execLoop {t : TileRef} {g : GroupId} {i : Bool} {body : BitVec 16} {imm : BitVec 32} (h : Keeps s₀ s) :
    KeepsNext s₀ (execLoop t g i body imm s) :=
  Keeps.decoded (Keeps.ite (h.countIssue.putGroup h.getTile.getGroup.loopGroup) h)

theorem Keeps.execNop {t : TileRef} {g : GroupId} (h : Keeps s₀ s) : KeepsNext s₀ (execNop t g s) :=
  Keeps.next (h.issueGroup (fun _ k => k))

theorem Keeps.waitGroup {t : TileRef} {g : Nat} {w : Wait} (h : Keeps s₀ s) : Keeps s₀ (waitGroup s t g w) := by
  unfold Machine.waitGroup
  split
  · exact (h.countIssue.putGroup h.getTile.getGroup.advance.elsewhere).settleTolls
  · exact h

theorem Keeps.execMsEnd {t : TileRef} {g : GroupId} (h : Keeps s₀ s) : KeepsNext s₀ (execMsEnd t g s) :=
  h.waitGroup.next

theorem Keeps.execStop {t : TileRef} {g : GroupId} (h : Keeps s₀ s) : KeepsNext s₀ (execStop t g s) :=
  h.waitGroup.next

theorem Keeps.execToll {t : TileRef} {g : GroupId} {scope : BitVec 3} (h : Keeps s₀ s) :
    KeepsNext s₀ (execToll t g scope s) :=
  h.waitGroup.decoded

theorem Keeps.execRngSeed {t : TileRef} {g : GroupId} {i : Bool} {imm : BitVec 32} (h : Keeps s₀ s) :
    KeepsNext s₀ (execRngSeed t g i imm s) :=
  Keeps.decoded (h.issueGroup (fun _ k => k.elsewhere))

theorem Keeps.execCntSnap {t : TileRef} {g : GroupId} {d : BitVec 6} {imm : BitVec 32} (h : Keeps s₀ s) :
    KeepsNext s₀ (execCntSnap t g d imm s) :=
  Keeps.decoded (h.issueGroup (fun _ k => k.writeThreads))

/-! ### Departures -/

theorem Keeps.depart {t : TileRef} {e : SendEntry} {zero : Bool} {first line lines : Nat} {last : Bool} (h : Keeps s₀ s) :
    Keeps s₀ (depart s t e zero first line lines last) := by
  unfold Machine.depart
  extract_lets x hop n us used admitted
  have hu : Keeps s₀ used := Keeps.ite h h.useLines
  have ha : Keeps s₀ admitted := hu.foldl fun _ _ k => k.admitUnit
  split
  · exact ha.setTile ha.getTile.setSend.elsewhere
  · exact ha.setTile ha.getTile.setSend

theorem Keeps.execDeparture {t : TileRef} {sid : BitVec 9} (h : Keeps s₀ s) : KeepsNext s₀ (execDeparture t sid s) := by
  unfold Machine.execDeparture
  dsimp only
  refine Keeps.next ?_
  split
  · exact h
  · split
    · exact h
    · split
      · exact h
      · split
        · exact h.depart
        · exact Keeps.ite h.depart h
        · exact Keeps.ite h.depart h
        · exact h

theorem Keeps.execSlotMissed {t : TileRef} {sid : BitVec 9} (h : Keeps s₀ s) : KeepsNext s₀ (execSlotMissed t sid s) := by
  unfold Machine.execSlotMissed
  dsimp only
  refine Keeps.next ?_
  split
  · exact h
  · split
    · exact h
    · split
      · exact h
      · split
        · exact (h.setTile h.getTile.setSend).sendViolation
        · exact (h.setTile h.getTile.setSend).sendViolation
        · exact h

theorem KeepsTile.landLine {x : Tile} {e : Arrival} {idx : Nat} {data : List Byte} {last : Bool} (hx : KeepsTile s₀ x) :
    KeepsTile s₀ (landLine x e idx data last) :=
  hx.spadWrite.clearTags.mapGroups (fun _ => by split <;> rfl) (fun _ h => by
    split
    · exact h.elsewhere
    · exact h)

theorem Keeps.landTag {t : TileRef} {tag : Nat} {u : RoadUnit} (h : Keeps s₀ s) : Keeps s₀ (landTag s t tag u) := by
  unfold Machine.landTag
  split
  · exact (h.setTile h.getTile.landLine).useLines
  · exact h

theorem Keeps.landUnit {t : TileRef} {tag : Nat} {src : HopId} {u : RoadUnit} (h : Keeps s₀ s) :
    Keeps s₀ (landUnit s t tag src u) := by
  unfold Machine.landUnit
  split
  · exact h.hopViolation
  · split
    · exact h.hopViolation
    · refine Keeps.comparePeers ?_
      split
      · exact h.landTag.landTag
      · exact h.landTag

theorem Keeps.execLineArrival {t : TileRef} {tag : BitVec 9} (h : Keeps s₀ s) :
    KeepsNext s₀ (execLineArrival t tag s) := by
  unfold Machine.execLineArrival
  dsimp only
  refine Keeps.next ?_
  split
  · exact h
  · exact h.landFlight.unless fun k => k.landUnit

/-! ### The engines -/

theorem KeepsTile.enqueue {x : Tile} {g : Nat} {e : EngineId} {op : EngOp} (hx : KeepsTile s₀ x) :
    KeepsTile s₀ (enqueue x g e op) := by
  unfold Machine.enqueue
  extract_lets id used tagged locked
  have hu : KeepsTile s₀ used := hx.foldl fun _ _ h => h.noteUse
  have hl : KeepsTile s₀ locked := KeepsTile.ite hu hu.tagLines.elsewhere
  exact hl.elsewhere

theorem Keeps.issueEngine {t : TileRef} {g : Nat} {e : EngineId} {ss vs : List Nat} {op : EngOp} (h : Keeps s₀ s) :
    Keeps s₀ (issueEngine s t g e ss vs op) := by
  unfold Machine.issueEngine
  dsimp only
  split
  · split
    · exact h.noteNeed
    · split
      · exact Keeps.ite h.noteNeed h
      · split
        · exact h.awaitPages
        · split
          · exact h.countIssue.tileViolation
          · exact (h.countIssue.setTile h.countIssue.getTile.enqueue).advanceGroup
  · exact h

theorem KeepsTile.startSpans {x : Tile} {q : QueuedOp} (hx : KeepsTile s₀ x) : KeepsTile s₀ (startSpans x q) := by
  unfold Machine.startSpans
  split
  · exact hx.tagLines
  · exact KeepsTile.ite hx hx.elsewhere
  · exact hx.elsewhere
  · exact hx.elsewhere
  · exact hx

theorem KeepsTile.setQueued {x : Tile} {q : QueuedOp} (hx : KeepsTile s₀ x) : KeepsTile s₀ (setQueued x q) :=
  hx.elsewhere

theorem Keeps.execEngineStart {t : TileRef} {e : EngineId} (h : Keeps s₀ s) : KeepsNext s₀ (execEngineStart t e s) := by
  unfold Machine.execEngineStart
  dsimp only
  refine Keeps.next ?_
  split
  · exact h
  · split
    · exact h
    · split
      · exact h.wantPages
      · split
        · exact (h.setTile h.getTile.setQueued).tileViolation
        · exact h.setTile h.getTile.touchLines.startSpans.setQueued

theorem Keeps.fillResFail {d p l acc : Nat} {row col : Option Nat} (h : Keeps s₀ s) :
    Keeps s₀ (fillResFail s d p l acc row col) :=
  Keeps.ite h h.setReg.setReg

theorem Keeps.strike {d p : Nat} (h : Keeps s₀ s) : Keeps s₀ (strike s d p) :=
  h.setDist

theorem Keeps.residueMismatch {t : TileRef} {acc : Nat} {row col : Option Nat} (h : Keeps s₀ s) :
    Keeps s₀ (residueMismatch s t acc row col) :=
  h.bump.fillResFail.setAbandon.strike.report

theorem Keeps.chkCmpEnd {t : TileRef} {r : Nat} {rows cols : Bool} (h : Keeps s₀ s) :
    Keeps s₀ (chkCmpEnd s t r rows cols) :=
  Keeps.ite h.bump h.bump.residueMismatch

theorem Keeps.packEnd {t : TileRef} {g id : Nat} {f : XredFields} (h : Keeps s₀ s) : Keeps s₀ (packEnd s t g id f) := by
  unfold Machine.packEnd
  extract_lets x a xs block n bytes silent written
  have hx : KeepsTile s₀ x := h.getTile
  have hw : KeepsTile s₀ written := hx.spadWrite
  have quiet : ∀ {z}, KeepsTile s₀ z → KeepsTile s₀ (silent z) := fun hz => hz.setGroup hz.getGroup.fillOutput
  split
  · exact h.setTile (quiet hw)
  · split
    · split
      · exact (h.setTile (quiet hx.setSend)).sendViolation
      · have filled : ∀ l, KeepsTile s₀ (Machine.setGroup written g (fillOutput (getGroup x g) id l)) := fun _ =>
          hw.setGroup hx.getGroup.fillOutput
        split
        · exact h.setTile (filled _).setSend
        · exact h.setTile (filled _).setSend.elsewhere
    · exact h.setTile (quiet (KeepsTile.ite hx hw))

theorem KeepsTile.fcombEnd {x : Tile} {g : Nat} {f : FcombFields} {a : List Word} (hx : KeepsTile s₀ x) :
    KeepsTile s₀ (fcombEnd x g f a) :=
  hx.setGroup hx.getGroup.writeLanes

theorem Keeps.opEffect (h : Keeps s₀ s) {t : TileRef} {q : QueuedOp} : Keeps s₀ (opEffect s t q) := by
  unfold Machine.opEffect
  split
  · exact h.setTile h.getTile.setOperand
  · exact h.setTile h.getTile.setAcc
  · exact h.setTile h.getTile.setAcc
  · exact h.setTile h.getTile.spadWrite
  · exact h.setTile h.getTile.setAcc
  · exact h.setTile h.getTile.spadWrite
  · exact h.packEnd
  · exact h.setTile h.getTile.setAcc
  · exact h.setTile h.getTile.fcombEnd
  · exact h.setTile h.getTile.setAcc
  · exact h.setTile h.getTile.setAcc
  · exact h.chkCmpEnd

theorem KeepsTile.dequeue {x : Tile} {q : QueuedOp} (hx : KeepsTile s₀ x) : KeepsTile s₀ (dequeue x q) := by
  unfold Machine.dequeue
  split
  · exact hx.elsewhere.setGroup hx.elsewhere.getGroup.elsewhere
  · exact hx.elsewhere

theorem Keeps.failEnd {t : TileRef} {q : QueuedOp} (h : Keeps s₀ s) : Keeps s₀ (failEnd s t q) := by
  unfold Machine.failEnd
  split
  · exact h.putGroup h.getTile.getGroup.fillOutput
  · exact h

theorem KeepsTile.touchWritten {x : Tile} {q : QueuedOp} (hx : KeepsTile s₀ x) : KeepsTile s₀ (touchWritten x q) :=
  hx.touchLines

theorem Keeps.execEngineEnd {t : TileRef} {e : EngineId} (h : Keeps s₀ s) : KeepsNext s₀ (execEngineEnd t e s) := by
  unfold Machine.execEngineEnd
  refine Keeps.next ?_
  split
  · exact h
  · extract_lets x
    split
    · exact h
    · extract_lets done
      have hd : Keeps s₀ done := Keeps.ite h.failEnd (h.setTile h.getTile.touchWritten).opEffect
      exact hd.setTile hd.getTile.dequeue

end Sys2Proof.Machine
end

