-- ==== Sys2Proof/Proofs/FormOfOperations.lean ====
section
/-! SUPPORT. The parts that operations and boundaries are made of keep the forms. -/

namespace Sys2Proof.Machine

open Sys2Proof.SMap

variable {s₀ s u : State} {x x' : Tile} {y : Group}

/-! ### Waymarks -/

theorem Keeps.addRound {link : Option Nat} {j r : Nat} {f : Flags} (h : Keeps s₀ s) :
    Keeps s₀ (addRound s link j r f) :=
  h.elsewhere

theorem Keeps.completeRelay {j : Nat} {f : Flags} (h : Keeps s₀ s) : Keeps s₀ (completeRelay s j f) :=
  h.elsewhere

theorem Keeps.formRound {j : Nat} (h : Keeps s₀ s) : Keeps s₀ (formRound s j) := by
  unfold Machine.formRound
  dsimp only
  split
  · exact h
  · exact Keeps.ite h (Keeps.ite h (Keeps.ite h.addRound.completeRelay h.addRound.sendWay))

theorem Keeps.formRounds {n j : Nat} (h : Keeps s₀ s) : Keeps s₀ (formRounds n s j) := by
  induction n generalizing s with
  | zero => exact h
  | succ n ih => exact ih h.formRound

theorem Keeps.settleRipple (h : Keeps s₀ s) : Keeps s₀ (settleRipple s) :=
  Keeps.ite h.clearInTurn h

theorem Keeps.sendWaymark {toll : Bool} (h : Keeps s₀ s) : Keeps s₀ (sendWaymark s toll) :=
  Keeps.settleRipple (Keeps.ite h.sendWay.addRound.completeRelay h.sendWay.addRound.formRounds)

theorem Keeps.receiveWay {n : LinkId} {kind : Byte} {w : WayFlit} {f : WayIn → State → State} (h : Keeps s₀ s)
    (hf : ∀ v s, Keeps s₀ s → Keeps s₀ (f v s)) : Keeps s₀ (receiveWay s n kind w f) := by
  unfold Machine.receiveWay
  split
  · exact Keeps.ite (Keeps.ite (hf _ _ h.setLink) h.setLink.bump) h
  · exact h

theorem Keeps.wayMeasure {n : Nat} {w : WayFlit} {e : WayIn} (h : Keeps s₀ s) : Keeps s₀ (wayMeasure s n w e) :=
  Keeps.ite h.noteMeasure h

theorem Keeps.execWaymark {n : LinkId} {w : WayFlit} (h : Keeps s₀ s) : KeepsNext s₀ (execWaymark n w s) :=
  Keeps.next (h.receiveWay (fun _ _ k => by
    dsimp only
    split
    · exact k.wayMeasure.hopViolation
    · exact k.wayMeasure.elsewhere.addRound.formRounds.settleRipple))

theorem Keeps.execRelay {n : LinkId} {w : WayFlit} (h : Keeps s₀ s) : KeepsNext s₀ (execRelay n w s) :=
  Keeps.next (h.receiveWay (fun _ _ k => k.addRound.formRounds.settleRipple))

theorem Keeps.execStart {n : LinkId} {w : WayFlit} (h : Keeps s₀ s) : KeepsNext s₀ (execStart n w s) :=
  Keeps.next (h.receiveWay (fun _ _ k => Keeps.ite k (Keeps.ite k.elsewhere (Keeps.ite k.elsewhere k.elsewhere))))

theorem Keeps.forwardNotice {n : LinkId} {w : WayFlit} {k : Nat} (h : Keeps s₀ s) : Keeps s₀ (forwardNotice s n w k) :=
  h.elsewhere.sendWay

theorem Keeps.settleNeighbour (h : Keeps s₀ s) : Keeps s₀ (settleNeighbour s) :=
  h.putCause.settleResume

theorem Keeps.execHold {n : LinkId} {w : WayFlit} (h : Keeps s₀ s) : KeepsNext s₀ (execHold n w s) :=
  Keeps.next (h.receiveWay (fun _ _ k => Keeps.ite k k.forwardNotice.elsewhere.settleNeighbour))

theorem Keeps.execRelease {n : LinkId} {w : WayFlit} (h : Keeps s₀ s) : KeepsNext s₀ (execRelease n w s) :=
  Keeps.next (h.receiveWay (fun _ _ k => Keeps.ite k (k.forwardNotice.elsewhere.putCause.waitUntil.when fun k => k.bump)))

theorem Keeps.execResume (h : Keeps s₀ s) : KeepsNext s₀ (execResume s) :=
  h.settleResume.next

theorem Keeps.execRippleTimeout (h : Keeps s₀ s) : KeepsNext s₀ (execRippleTimeout s) :=
  Keeps.next (Keeps.ite h.raiseCause h)

/-! ### The end of a milestone -/

theorem Keeps.execWriteBackStart (h : Keeps s₀ s) : KeepsNext s₀ (execWriteBackStart s) :=
  Keeps.next (Keeps.ite h.elsewhereMem h)

theorem Keeps.execWriteBackDone {dm : Damage} (h : Keeps s₀ s) : KeepsNext s₀ (execWriteBackDone dm s) := by
  unfold Machine.execWriteBackDone
  refine Keeps.next ?_
  split
  · exact Keeps.meet (Keeps.elsewhereMem (h.foldl (fun _ _ k => k.chargeAccess.giveCheck.toMirror.chargeHub.bump)))
  · exact h

theorem Keeps.holdDigest {d : BitVec 256} (h : Keeps s₀ s) : Keeps s₀ (holdDigest s d) :=
  Keeps.elsewhere (h.foldl (fun _ _ k => k.setReg))

theorem Keeps.execDigestHashDone {dm : Damage} (h : Keeps s₀ s) : KeepsNext s₀ (execDigestHashDone dm s) :=
  Keeps.next (Keeps.ite (h.chargeHub.copyMeets.when fun k => k.holdDigest.bump.deliverDigest) h)

theorem Keeps.dupMismatch {d : Fin 144} {y : Sample} (h : Keeps s₀ s) : Keeps s₀ (dupMismatch s d y) :=
  Keeps.report ((Keeps.setAbandon (Keeps.ite h.bump h.bump.setReg)).unless fun k => k.setDist)

theorem Keeps.compareSample {d : Fin 144} {y : Sample} (h : Keeps s₀ s) : Keeps s₀ (compareSample s d y) :=
  Keeps.ite h (Keeps.ite h.dupMismatch h)

theorem Keeps.compareSamples (h : Keeps s₀ s) : Keeps s₀ (compareSamples s) :=
  h.foldl (fun _ _ k => k.foldl (fun _ _ hk => hk.compareSample))

theorem Keeps.execChipDone (h : Keeps s₀ s) : KeepsNext s₀ (execChipDone s) :=
  Keeps.next (Keeps.ite (Keeps.elsewhere (Keeps.sendWaymark (Keeps.ite h h.compareSamples))) h)

/-! ### Units on their hops -/

theorem Keeps.execHopUnitReceive {h : HopId} {u : RoadUnit} (hs : Keeps s₀ s) :
    KeepsNext s₀ (execHopUnitReceive h u s) := by
  unfold Machine.execHopUnitReceive
  refine Keeps.next ?_
  split
  · exact hs
  · split
    · exact Keeps.ite hs (Keeps.ite hs.setHop hs.admitUnit)
    · split
      · exact hs.landFlight.takeUnit
      · exact hs

theorem Keeps.sendOnLink {n : LinkId} {u : RoadUnit} {slot : Nat} (h : Keeps s₀ s) : Keeps s₀ (sendOnLink s n u slot) :=
  Keeps.ite h.bumpLink h.setLink

theorem Keeps.fly {src : HopId} {dests : List Dest} {u : RoadUnit} (h : Keeps s₀ s) : Keeps s₀ (fly s src dests u) :=
  Keeps.ite h h.elsewhere

theorem Keeps.sendToLink {src : HopId} {fork : Bool} {u : RoadUnit} {o : HopId} (h : Keeps s₀ s) :
    Keeps s₀ (sendToLink s src fork u o) := by
  unfold Machine.sendToLink
  split
  · exact Keeps.ite h.bump h.fly
  · exact h

theorem Keeps.asLines {h : HopId} {u : RoadUnit} (hs : Keeps s₀ s) : Keeps s₀ (asLines s h u).1 := by
  unfold Machine.asLines
  split
  · exact hs.setHop
  · exact hs

theorem Keeps.sendUnit {h : HopId} {e : SlotEntry} {u : RoadUnit} (hs : Keeps s₀ s) : Keeps s₀ (sendUnit s h e u) := by
  unfold Machine.sendUnit
  split
  · exact hs.sendOnLink
  · extract_lets onward near left flown linked
    have hl : Keeps s₀ left.1 := by
      unfold left
      split
      · exact hs
      · exact hs.asLines
    have hf : Keeps s₀ flown := hl.foldl fun _ _ k => k.fly
    have hn : Keeps s₀ linked := hf.foldl fun _ _ k => k.sendToLink
    exact hn.foldl fun _ _ k => k.fly

theorem Keeps.refill {h : HopId} (hs : Keeps s₀ s) : Keeps s₀ (refill s h) := by
  unfold Machine.refill
  dsimp only
  split
  · split
    · exact hs.setLink.setHop
    · exact hs
  · exact hs.takeEarly
  · exact hs

theorem Keeps.chargeHop {c : HopId} (h : Keeps s₀ s) : Keeps s₀ (chargeHop s c) := by
  unfold Machine.chargeHop
  split
  · exact h.charge
  · exact h.charge
  · exact h

theorem Keeps.noteSent {h : HopId} {slot : Nat} (hs : Keeps s₀ s) : Keeps s₀ (noteSent s h slot) := by
  unfold Machine.noteSent
  split
  · exact hs.setHop
  · exact hs.setHop

theorem Keeps.sendHead {h : HopId} {e : SlotEntry} {u : RoadUnit} {r : List RoadUnit} (hs : Keeps s₀ s) :
    Keeps s₀ (sendHead s h e u r) :=
  hs.setHop.noteSent.chargeHop.sendUnit.leaveIngress.refill

theorem Keeps.execHopSend {h : HopId} (hs : Keeps s₀ s) : KeepsNext s₀ (execHopSend h s) := by
  unfold Machine.execHopSend
  dsimp only
  refine Keeps.next ?_
  split
  · exact hs
  · split
    · exact hs
    · split
      · exact hs.setHop.discardUnit.refill
      · split
        · split
          · exact hs.sendHead
          · exact hs.setHop.hopViolation.discardUnit.refill
        · exact hs

theorem Keeps.execCreditStarved {n : LinkId} (h : Keeps s₀ s) : KeepsNext s₀ (execCreditStarved n s) := by
  unfold Machine.execCreditStarved
  dsimp only
  refine Keeps.next ?_
  split
  · exact Keeps.ite h.hopViolation h
  · exact h

/-! ### Completions -/

theorem Keeps.sendFrame {n : Nat} {frame : BitVec 16} {bytes : List Byte} (h : Keeps s₀ s) :
    Keeps s₀ (sendFrame s n frame bytes) :=
  h.setLink

theorem Keeps.stationNo {k : StationKey} (h : Keeps s₀ s) : Keeps s₀ (stationNo s k).1 := by
  unfold Machine.stationNo
  split
  · exact h
  · exact h.elsewhere

theorem Keeps.answer {r : Req} {k : Kept} {again : Bool} (h : Keeps s₀ s) : Keeps s₀ (answer s r k again) := by
  unfold Machine.answer
  split
  · split
    · exact h.elsewhere.sendFrame
    · exact h
  · exact h.emit

theorem Keeps.keep {k : Kept} (h : Keeps s₀ s) : Keeps s₀ (keep s k) :=
  Keeps.ite h.elsewhere h.elsewhere

theorem Keeps.complete {r : Req} {op status : Nat} {body : List Byte} (h : Keeps s₀ s) :
    Keeps s₀ (complete s r op status body) :=
  Keeps.answer (Keeps.ite h.keep h)

theorem Keeps.discardFrame {host : Bool} (h : Keeps s₀ s) : Keeps s₀ (discardFrame s host) :=
  h.bump

theorem Keeps.takeReq {r : Req} (h : Keeps s₀ s) : Keeps s₀ (takeReq s r) := by
  unfold Machine.takeReq
  split
  · split
    · exact h.elsewhere
    · exact h
  · exact h

theorem Keeps.countOp {src : Source} (h : Keeps s₀ s) : Keeps s₀ (countOp s src) :=
  h.bump

theorem Keeps.accept {α : Type} {r : Req} {op : Nat} {parse : List Byte → Option α} {f : α → State → State} (h : Keeps s₀ s)
    (hf : ∀ v s, Keeps s₀ s → Keeps s₀ (f v s)) : Keeps s₀ (accept s r op parse f) := by
  unfold Machine.accept
  dsimp only
  split
  · exact h
  · split
    · exact h.takeReq.discardFrame
    · split
      · exact h.takeReq.bump.answer
      · split
        · exact h.takeReq
        · split
          · exact h.takeReq.complete
          · exact h.takeReq.complete
          · exact hf _ _ h.takeReq.countOp

theorem Keeps.finishOp {r : Req} {op : Nat} {a : Reply} (h : Keeps s₀ a.1) : Keeps s₀ (finishOp s r op a) := .ite h.complete h

theorem Keeps.serve {α : Type} {r : Req} {op : Nat} {parse : List Byte → Option α} {f : α → State → Reply} (h : Keeps s₀ s)
    (hf : ∀ v s, Keeps s₀ s → Keeps s₀ (f v s).1) : Keeps s₀ (serve s r op parse f) :=
  h.accept fun _ _ k => (hf _ _ k).finishOp

/-! ### Surveys -/

theorem Keeps.fireSurvey (h : Keeps s₀ s) {clear atEnd : Bool} : Keeps s₀ (fireSurvey s clear atEnd) := by
  have copied : Keeps s₀ { s with shadowCnt := s.cnt, cnt := if clear then [] else s.cnt } :=
    h.parts (cnt := fun hc => by
      cases clear with
      | false => exact hc
      | true => rfl)
  exact copied.setReg.setReg.setReg.setReg.setReg.elsewhere

theorem Keeps.surveyAt {j : Nat} {ends : Bool} (h : Keeps s₀ s) : Keeps s₀ (surveyAt s j ends) := by
  unfold Machine.surveyAt
  split
  · exact Keeps.ite h.fireSurvey h
  · exact h

/-! ### Operations of both ports -/

theorem Keeps.bindHost {a : BitVec 128} {version : Nat} (h : Keeps s₀ s) : Keeps s₀ (bindHost s a version) :=
  h.unbindHost.takeFresh.elsewhere

theorem Keeps.helloOp {r : Req} {lo hi : Byte} (h : Keeps s₀ s) : Keeps s₀ (helloOp r lo hi s).1 := by
  unfold Machine.helloOp
  dsimp only
  split
  · split
    · exact h
    · split
      · exact h.bindHost
      · exact h
  · split
    · exact h
    · exact h

theorem Keeps.execHello {r : Req} (h : Keeps s₀ s) : KeepsNext s₀ (execHello r s) :=
  Keeps.next (h.serve (fun _ _ k => k.helloOp))

theorem Keeps.readWords {src : Source} {n : Nat} {a : Word} {l : List Byte} (h : Keeps s₀ s) : Keeps s₀ (readWords src n a s l).1 := by
  induction n generalizing s a l with
  | zero => exact h
  | succ n ih => exact ih h.readAccess

theorem Keeps.execRegRead {r : Req} (h : Keeps s₀ s) : KeepsNext s₀ (execRegRead r s) :=
  Keeps.next (h.serve (fun _ _ k => k.readWords))

theorem Keeps.writeWords {src : Source} {ps : List (Word × Word)} {l : List Byte} (h : Keeps s₀ s) :
    Keeps s₀ (writeWords src ps s l).1 := by
  induction ps generalizing s l with
  | nil => exact h
  | cons p r ih =>
    unfold Machine.writeWords
    dsimp only
    split
    · exact ih h.writeAccess
    · exact h.writeAccess

theorem Keeps.execRegWrite {r : Req} (h : Keeps s₀ s) : KeepsNext s₀ (execRegWrite r s) :=
  Keeps.next (h.serve (fun _ _ k => k.writeWords))

theorem Keeps.setSurvey {v : Option (Byte × Bool × DWord)} (h : Keeps s₀ s) : Keeps s₀ (setSurvey s v) :=
  h.elsewhere

theorem Keeps.surveyOp {kind : Byte} {clear : Bool} {target : DWord} (h : Keeps s₀ s) :
    Keeps s₀ (surveyOp kind clear target s).1 := by
  unfold Machine.surveyOp
  dsimp only
  split
  · split
    · exact h.setSurvey
    · exact h
  · split
    · split
      · exact h
      · split
        · exact h
        · exact h.setSurvey
    · split
      · split
        · exact h
        · exact h.setSurvey
      · exact h

theorem Keeps.execSurvey {r : Req} (h : Keeps s₀ s) : KeepsNext s₀ (execSurvey r s) :=
  Keeps.next (h.serve (fun _ _ k => k.surveyOp))

theorem Keeps.execSurveyFire (h : Keeps s₀ s) : KeepsNext s₀ (execSurveyFire s) := by
  unfold Machine.execSurveyFire
  refine Keeps.next ?_
  split
  · exact Keeps.ite h.fireSurvey h
  · exact h

theorem Keeps.execShadowRead {r : Req} (h : Keeps s₀ s) : KeepsNext s₀ (execShadowRead r s) :=
  Keeps.next (h.serve (fun _ _ k => k))

theorem Keeps.execQpOpen {r : Req} (h : Keeps s₀ s) : KeepsNext s₀ (execQpOpen r s) :=
  Keeps.next (h.serve (fun _ _ k => k.elsewhere))

theorem Keeps.execQpClose {r : Req} (h : Keeps s₀ s) : KeepsNext s₀ (execQpClose r s) :=
  Keeps.next (h.serve (fun _ _ k => by
    split
    · exact k
    · exact k.elsewhere))

theorem Keeps.execBadFrame {r : Req} (h : Keeps s₀ s) : KeepsNext s₀ (execBadFrame r s) :=
  Keeps.next (Keeps.ite h (h.serve (fun _ _ k => k)))

theorem Keeps.execDiscardedFrame {p : PortId} {f : RxFrame} (h : Keeps s₀ s) :
    KeepsNext s₀ (execDiscardedFrame p f s) :=
  Keeps.next (Keeps.ite h.discardFrame h)

theorem Keeps.execArpRequest {p : PortId} {a : Asked} (h : Keeps s₀ s) : KeepsNext s₀ (execArpRequest p a s) :=
  Keeps.next (Keeps.ite h (Keeps.ite h.emit h.discardFrame))

theorem Keeps.forwardFrame {r : Req} {k : StationKey} {n : Nat} (h : Keeps s₀ s) : Keeps s₀ (forwardFrame s r k n) :=
  h.stationNo.elsewhere.sendFrame

theorem Keeps.execOperationBetweenChips {r : Req} (h : Keeps s₀ s) : KeepsNext s₀ (execOperationBetweenChips r s) := by
  unfold Machine.execOperationBetweenChips
  dsimp only
  refine Keeps.next ?_
  split
  · split
    · exact h
    · split
      · exact h.discardFrame
      · split
        · exact h
        · split
          · exact h.bump.answer
          · split
            · exact h.complete
            · split
              · exact h.countOp.forwardFrame
              · exact h.countOp.complete
  · exact h

theorem Keeps.execForwardTimeout {frame : BitVec 16} (h : Keeps s₀ s) : KeepsNext s₀ (execForwardTimeout frame s) := by
  unfold Machine.execForwardTimeout
  refine Keeps.next ?_
  split
  · exact h.elsewhere.complete
  · exact h

/-! ### The sideband -/

theorem Keeps.setAnswer {l : List Byte} (h : Keeps s₀ s) : Keeps s₀ (setAnswer s l) :=
  Keeps.ite h.elsewhere h

theorem Keeps.execI3cPrivateWrite {addr data : Word} (h : Keeps s₀ s) :
    KeepsNext s₀ (execI3cPrivateWrite addr data s) :=
  Keeps.next (Keeps.ite h.writeAccess.setAnswer h)

theorem Keeps.execI3cPrivateReadRequest {addr : Word} (h : Keeps s₀ s) :
    KeepsNext s₀ (execI3cPrivateReadRequest addr s) :=
  Keeps.next (Keeps.ite h.readAccess.setAnswer h)

theorem Keeps.execI3cOtherPrivateWrite (h : Keeps s₀ s) : KeepsNext s₀ (execI3cOtherPrivateWrite s) :=
  Keeps.next (Keeps.ite h.setAnswer h)

theorem Keeps.execI3cPrivateRead {length : Nat} (h : Keeps s₀ s) : KeepsNext s₀ (execI3cPrivateRead length s) :=
  Keeps.next (Keeps.ite h.elsewhere.emit h)

theorem Keeps.execEntdaa {addr : BitVec 7} (h : Keeps s₀ s) : KeepsNext s₀ (execEntdaa addr s) :=
  Keeps.next (Keeps.ite h.elsewhere.emit h)

/-! ### Detours -/

theorem Keeps.sendStart (h : Keeps s₀ s) : Keeps s₀ (sendStart s) :=
  h.sendWay

theorem Keeps.settleDetour (h : Keeps s₀ s) : Keeps s₀ (settleDetour s) := by
  unfold Machine.settleDetour
  split
  · exact h
  · exact Keeps.ite h.clearCause.sendStart h

/-! ### Retirement -/

theorem Keeps.putSpare {d : Nat} {n : Spare} (h : Keeps s₀ s) : Keeps s₀ (putSpare s d n) :=
  (h.setDist.unless fun k => k.selfRecord).unless fun k => k.selfRecord

theorem Keeps.settleActive (h : Keeps s₀ s) : Keeps s₀ (settleActive s) :=
  h.setReg

theorem Keeps.settleWindow (h : Keeps s₀ s) : Keeps s₀ (settleWindow s) :=
  h.settleActive.when fun k => k.setReg.elsewhere

theorem Keeps.clearTrim {d : Nat} (h : Keeps s₀ s) : Keeps s₀ (clearTrim s d) :=
  h.setReg

theorem Keeps.rwReport {d p : Nat} {failed : Bool} (h : Keeps s₀ s) : Keeps s₀ (rwReport s d p failed) :=
  h.report

theorem Keeps.abandonTest {d p : Nat} (h : Keeps s₀ s) : Keeps s₀ (abandonTest s d p) :=
  h.setDist.clearTrim.bump.rwReport

theorem Keeps.degradeReport {d : Nat} (h : Keeps s₀ s) : Keeps s₀ (degradeReport s d) :=
  h.report

theorem Keeps.applyRetire {d : Nat} {n : Spare} (h : Keeps s₀ s) : Keeps s₀ (applyRetire s d n) := by
  unfold Machine.applyRetire
  dsimp only
  split
  · exact h
  · exact (Keeps.foldl (h.putSpare.when fun k => k.abandonTest) (fun _ _ k => k.bump.report)).when fun k => k.degradeReport

theorem Keeps.triageOne {z : State × List (List Nat)} {d : Nat} {p : Nat × Nat} (h : Keeps s₀ z.1) :
    Keeps s₀ (triageOne z d p).1 :=
  h.takeFresh.bump.report

theorem Keeps.triageAll (h : Keeps s₀ s) : Keeps s₀ (triageAll s).1 := by
  refine h.foldlFst fun z d k => ?_
  extract_lets x r
  split
  · exact k
  · have hr : Keeps s₀ r.1 := Keeps.foldlFst k fun w p hk => hk.triageOne
    exact hr.setDist

theorem Keeps.retireAll (h : Keeps s₀ s) : Keeps s₀ (retireAll s) :=
  h.triageAll.foldl (fun _ _ k => Keeps.ite k.applyRetire k.setDist)

theorem Keeps.endTest {d : Nat} {o : RwOutcome} (h : Keeps s₀ s) : Keeps s₀ (endTest s d o) := by
  unfold Machine.endTest
  dsimp only
  split
  · exact h.putSpare.clearTrim.setDist.bump
  · exact h.putSpare.clearTrim.setDist.bump.rwReport
  · exact h.putSpare.clearTrim.setDist.bump.rwReport

theorem Keeps.settleTest {d : Nat} (h : Keeps s₀ s) : Keeps s₀ (settleTest s d) := by
  unfold Machine.settleTest
  split
  · exact Keeps.ite h.endTest h
  · exact h

theorem Keeps.endTests (h : Keeps s₀ s) : Keeps s₀ (endTests s) :=
  Keeps.settleWindow (h.foldl (fun _ _ k => k.settleTest))

theorem Keeps.stopTests {aborted : Bool} (h : Keeps s₀ s) : Keeps s₀ (stopTests s aborted) :=
  Keeps.endTests (h.mapDists (fun _ => rfl))

theorem Keeps.beginTest {d n : Nat} (h : Keeps s₀ s) : Keeps s₀ (beginTest s d n) :=
  h.putSpare.setDist.setReg

theorem Keeps.roadworksAt {newStep : Bool} {n : Option Nat} {z : State × List Nat} {d : Nat} (h : Keeps s₀ z.1) :
    Keeps s₀ (roadworksAt newStep n z d).1 := by
  unfold Machine.roadworksAt
  dsimp only
  split
  · split
    · exact h.settleTest.beginTest
    · exact h.settleTest
  · exact h.settleTest

theorem Keeps.roadworks {newStep : Bool} (h : Keeps s₀ s) : Keeps s₀ (roadworks s newStep).1 := by
  unfold Machine.roadworks
  dsimp only
  split
  · exact Keeps.settleWindow (h.setReg.elsewhere.foldlFst (fun _ _ k => k.roadworksAt))
  · exact Keeps.settleWindow (h.elsewhere.foldlFst (fun _ _ k => k.roadworksAt))

/-! ### The work of a boundary -/

theorem Keeps.commitStep (h : Keeps s₀ s) {first : Nat} : Keeps s₀ (commitStep s first) := by
  have freed : Keeps s₀ { s with
      mem := { s.mem with retained := s.mem.retained.filter (fun c => decide (c.step ≠ first)) }
      dists := s.dists.map (fun p => (p.1, { p.2 with
        strikes := p.2.strikes.filter (fun k => decide (k.2 ≠ first))
        dups := p.2.dups.filter (fun k => decide (k.2.2 ≠ first)) }))
      sch := { s.sch with uncommitted := s.sch.uncommitted.filter (fun p => decide (p.1 ≠ first)) } } := by
    refine h.parts (dists := rising_map _ _ fun _ => rfl) (mem := fun hm => ?_)
    obtain ⟨h1, h2, h3, h4⟩ := (memKeyed_iff _).mp hm
    exact (memKeyed_iff _).mpr ⟨h1, h2, fun c hc => h3 c (List.mem_filter.mp hc).1, h4⟩
  unfold Machine.commitStep
  dsimp only
  split
  · split
    · exact freed.elsewhere
    · exact freed
  · exact freed

theorem Keeps.retraceRecord {p cause : Nat} (h : Keeps s₀ s) : Keeps s₀ (retraceRecord s p cause) :=
  h.append

theorem Keeps.revertOne {e : Effected} (h : Keeps s₀ s) : Keeps s₀ (revertOne s e) :=
  Keeps.ite h.revertWord.elsewhere h

theorem Keeps.revertWrites {p0 : Nat} (h : Keeps s₀ s) : Keeps s₀ (revertWrites s p0) :=
  h.foldl (fun _ _ k => k.revertOne)

theorem Keeps.reapplyOne {e : Effected} (h : Keeps s₀ s) : Keeps s₀ (reapplyOne s e) :=
  Keeps.ite h.writeNow.elsewhere h

theorem Keeps.reapplyWrites (h : Keeps s₀ s) : Keeps s₀ (reapplyWrites s) :=
  h.foldl (fun _ _ k => k.reapplyOne)

theorem Keeps.scheduledWrites (h : Keeps s₀ s) : Keeps s₀ (scheduledWrites s) :=
  h.foldl (fun _ _ k => Keeps.ite k.writeNow k)

theorem Keeps.effectStaged {w : StagedWrite} (h : Keeps s₀ s) : Keeps s₀ (effectStaged s w) :=
  h.effectWrite.elsewhere

theorem Keeps.effectRun {n : Nat} (h : Keeps s₀ s) : Keeps s₀ (effectRun n s) := by
  induction n generalizing s with
  | zero => exact h.elsewhere
  | succ n ih =>
    unfold Machine.effectRun
    split
    · exact h.elsewhere
    · split
      · dsimp only
        split
        · exact ih h.elsewhere.effectStaged
        · exact h.elsewhere.effectStaged.elsewhere
      · exact h.elsewhere

theorem Keeps.effectAll {gate : Bool} (h : Keeps s₀ s) : Keeps s₀ (effectAll s gate) :=
  h.effectRun

theorem Keeps.completeTollgates (h : Keeps s₀ s) : Keeps s₀ (completeTollgates s) :=
  h.elsewhere.foldl (fun _ _ k => k.complete)

theorem KeepsGroup.releaseGroup {chip : Bool} {job : Option Nat} {y : Group} (hy : KeepsGroup s₀ y) :
    KeepsGroup s₀ (releaseGroup chip job y) := by
  unfold Machine.releaseGroup
  split
  · exact hy.elsewhere
  · exact hy.elsewhere
  · split
    · exact hy.elsewhere
    · split
      · exact KeepsGroup.ite hy.elsewhere hy
      · exact hy
  · exact hy

theorem Keeps.releaseGroups {chip : Bool} {job : Option Nat} (h : Keeps s₀ s) : Keeps s₀ (releaseGroups s chip job) :=
  h.foldl (fun _ _ k => k.setTile (k.getTile.mapGroups (fun _ => rfl) (fun _ hk => hk.releaseGroup)))

theorem Keeps.copyWords (h : Keeps s₀ s) : Keeps s₀ (copyWords s) :=
  h.elsewhere

theorem Keeps.freshGenerations (h : Keeps s₀ s) : Keeps s₀ (freshGenerations s) :=
  h.parts (dists := rising_map _ _ fun _ => rfl)
    (tiles := fun ht => tilesKeyed_map ht (fun _ => rfl) fun _ hp => hp.newGeneration.elsewhere)

theorem Keeps.writeParams (h : Keeps s₀ s) : Keeps s₀ (writeParams s) :=
  h.foldl (fun _ _ k => by
    dsimp only
    split
    · split
      · exact (k.setTile k.getTile.spadWrite.clearTags).charge
      · exact k
    · exact k)

theorem Keeps.endMargins {d : Nat} (h : Keeps s₀ s) : Keeps s₀ (endMargins s d) :=
  h.setReg.setReg.setReg.setDist

theorem Keeps.powerDivider {q : Nat} (h : Keeps s₀ s) : Keeps s₀ (powerDivider s q) :=
  h.setDie.setReg

theorem Keeps.powerBoundary (h : Keeps s₀ s) : Keeps s₀ (powerBoundary s) :=
  Keeps.foldl (h.foldl (fun _ _ k => k.endMargins)) (fun _ _ k => k.droop.powerDivider)

theorem Keeps.clockBoundary (h : Keeps s₀ s) : Keeps s₀ (clockBoundary s) :=
  h.powerBoundary.changeDivs

theorem Keeps.beginStep {moved : List Nat} {rewinds : Bool} (h : Keeps s₀ s) : Keeps s₀ (beginStep s moved rewinds) := by
  unfold Machine.beginStep
  split
  · exact h
  · exact h.elsewhereMem.sampleAll.foldl (fun _ _ k => k.setTile k.getTile.startTile)

theorem Keeps.freshCounts (h : Keeps s₀ s) : Keeps s₀ (freshCounts s) := h.parts (dists := rising_map _ _ fun _ => rfl)

theorem Keeps.beginMilestone {moved : List Nat} {rewinds chip : Bool} {job : Option Nat} (h : Keeps s₀ s) :
    Keeps s₀ (beginMilestone s moved rewinds chip job) := by
  unfold Machine.beginMilestone
  refine Keeps.deliverDigest ?_
  refine Keeps.settleRipple ?_
  refine Keeps.freshCounts ?_
  refine Keeps.writeParams ?_
  refine Keeps.takeAllEarly ?_
  refine Keeps.installTiles ?_
  refine Keeps.installHops ?_
  split
  · exact h.copyWords.freshGenerations.beginStep
  · exact h.copyWords.freshGenerations.releaseGroups

theorem Keeps.rewindTo {p : Nat} (h : Keeps s₀ s) : Keeps s₀ (rewindTo s p) :=
  h.elsewhere

theorem Keeps.rewindWork {p : Nat} (h : Keeps s₀ s) : Keeps s₀ (rewindWork s p) :=
  h.retireAll.revertWrites.endTests

theorem Keeps.writesWork {gate : Bool} (h : Keeps s₀ s) : Keeps s₀ (writesWork s gate) :=
  h.reapplyWrites.scheduledWrites.effectAll

theorem Keeps.restoreWork {dm : Damage} (h : Keeps s₀ s) : Keeps s₀ (restoreWork s dm) := by
  unfold Machine.restoreWork
  exact h.restoreRetained.meet

theorem Keeps.unlessReset {f : State → State} (h : Keeps s₀ s) (hf : ∀ s, Keeps s₀ s → Keeps s₀ (f s)) :
    Keeps s₀ (unlessReset s f) :=
  Keeps.ite (hf _ h) h

theorem Keeps.holdDegraded {was : Bool} (h : Keeps s₀ s) : Keeps s₀ (holdDegraded s was) :=
  Keeps.ite h.raiseCause h

/-! ### Boundaries -/

theorem Keeps.clearTiles (h : Keeps s₀ s) : Keeps s₀ (clearTiles s) := by
  refine h.parts (tiles := fun _ _ => rfl) (hops := rising_map _ _ fun _ => rfl) (dists := rising_map _ _ fun _ => rfl)
    (seeds := fun _ => rfl) (mem := fun hm => ?_)
  obtain ⟨h1, h2, -⟩ := (memKeyed_iff _).mp hm
  exact (memKeyed_iff _).mpr
    ⟨h1, rising_map _ _ (fun _ => rfl) h2, by simp [Machine.clearTiles], List.nodup_nil, by simp [Machine.clearTiles]⟩

theorem Keeps.endItinerary (h : Keeps s₀ s) : Keeps s₀ (endItinerary s) := by
  unfold Machine.endItinerary
  extract_lets ws ended cleared released lowered parked resumed sch waiting
  have hr : Keeps s₀ released := h.elsewhere.clearTiles.foldl fun _ _ k => k.clearCause
  have hw : Keeps s₀ waiting := hr.putCause.setReg.settleResume.elsewhere
  exact hw.drainLeftover.changeDivs.recordAllOwed.completeTollgates

theorem Keeps.endWith {type src : Nat} {arg2 : Word} (h : Keeps s₀ s) : Keeps s₀ (endWith s type src arg2) :=
  h.stopTests.append.endItinerary

theorem Keeps.countLate (h : Keeps s₀ s) : Keeps s₀ (countLate s) :=
  Keeps.ite h.bump h

theorem Keeps.advanceCounters (h : Keeps s₀ s) : Keeps s₀ (advanceCounters s) :=
  h.elsewhere

theorem Keeps.pruneRelays (h : Keeps s₀ s) : Keeps s₀ (pruneRelays s) :=
  h.elsewhere

theorem Keeps.rewindBoundary {f : Flags} {gate : Bool} {dm : Damage} (h : Keeps s₀ s) :
    Keeps s₀ (rewindBoundary s f gate dm) :=
  h.rewindTo.retraceRecord.bump.rewindWork.elsewhere.writesWork.unlessReset fun _ k =>
    k.clockBoundary.restoreWork.unlessReset fun _ hk => hk.beginMilestone

theorem Keeps.plainBoundary {gate chip : Bool} {job : Option Nat} (h : Keeps s₀ s) :
    Keeps s₀ (plainBoundary s gate chip job) :=
  h.roadworks.writesWork.unlessReset (fun _ k => k.clockBoundary.beginMilestone)

theorem Keeps.enterBoundary (h : Keeps s₀ s) : Keeps s₀ (enterBoundary s) :=
  h.countLate.surveyAt.advanceCounters.keepPeers.foldl (fun _ _ k => k.commitStep)

theorem Keeps.nextMilestone {dm : Damage} (h : Keeps s₀ s) : Keeps s₀ (nextMilestone s dm) := by
  unfold Machine.nextMilestone
  extract_lets entered work
  have he : Keeps s₀ entered := h.enterBoundary
  have hw : Keeps s₀ work := by
    unfold work
    split
    · exact Keeps.ite he.rewindBoundary he.plainBoundary
    · exact he.plainBoundary
  exact hw.unlessReset fun _ k => k.holdDegraded.completeTollgates.pruneRelays

theorem Keeps.execMilestoneBoundary {dm : Damage} (h : Keeps s₀ s) : KeepsNext s₀ (execMilestoneBoundary dm s) :=
  Keeps.next (Keeps.ite (Keeps.ite h.enterBoundary.powerBoundary.endWith h.nextMilestone) h)

theorem Keeps.settleStarts (h : Keeps s₀ s) : Keeps s₀ (settleStarts s) :=
  h.elsewhere

theorem Keeps.freshMargins (h : Keeps s₀ s) : Keeps s₀ (freshMargins s) :=
  h.mapDists (fun _ => rfl)

theorem Keeps.startBoundary (h : Keeps s₀ s) : Keeps s₀ (startBoundary s) :=
  h.elsewhere.settleStarts.roadworks.writesWork.unlessReset (fun _ k => k.changeDivs.freshMargins.beginMilestone.completeTollgates)

theorem Keeps.execJobStart (h : Keeps s₀ s) : KeepsNext s₀ (execJobStart s) :=
  Keeps.next (Keeps.ite h.startBoundary h)

theorem Keeps.detourRecord {m : List (Nat × Word)} {g : Nat} {c : Subst} (h : Keeps s₀ s) :
    Keeps s₀ (detourRecord s m g c) := by
  unfold Machine.detourRecord
  split
  · exact h.append
  · exact h.append

theorem Keeps.mapWrite {c : Subst} (h : Keeps s₀ s) : Keeps s₀ (mapWrite s c) := by
  unfold Machine.mapWrite
  split
  · exact h.selfWrite
  · exact h

theorem Keeps.clearDiscard (h : Keeps s₀ s) : Keeps s₀ (clearDiscard s) :=
  h.foldl (fun _ _ k => Keeps.ite k.selfWrite k)

theorem Keeps.detourWork {d : Detour} (h : Keeps s₀ s) : Keeps s₀ (detourWork s d) := by
  unfold Machine.detourWork
  split
  · exact h
  · exact Keeps.clearDiscard (Keeps.selfWrite (Keeps.foldl (h.foldl (fun _ _ k => k.detourRecord)) (fun _ _ k => k.mapWrite)))

theorem Keeps.restartCounters {d : Detour} (h : Keeps s₀ s) : Keeps s₀ (restartCounters s d) :=
  h.rewindTo.elsewhere

theorem Keeps.clockWork {ended : Bool} (h : Keeps s₀ s) : Keeps s₀ (clockWork s ended) :=
  Keeps.ite h.clockBoundary h.changeDivs.freshMargins

theorem Keeps.restartJob {d : Detour} {dm : Damage} (h : Keeps s₀ s) : Keeps s₀ (restartJob s d dm) := by
  unfold Machine.restartJob
  extract_lets own was surveyed cleared recorded counted rewound due
  have hc : Keeps s₀ cleared := Keeps.ite h.surveyAt.clearCause h.surveyAt
  have hr : Keeps s₀ recorded := hc.restartCounters.detourWork.retraceRecord
  have hn : Keeps s₀ counted := Keeps.ite hr hr.bump
  exact hn.rewindWork.elsewhere.writesWork.unlessReset fun _ k =>
    k.clockWork.restoreWork.setReg.settleStarts.unlessReset fun _ hk => hk.beginMilestone.holdDegraded.completeTollgates

theorem Keeps.execRestartBoundary {dm : Damage} (h : Keeps s₀ s) : KeepsNext s₀ (execRestartBoundary dm s) := by
  unfold Machine.execRestartBoundary
  refine Keeps.next ?_
  split
  · exact h
  · exact Keeps.ite h.restartJob h

theorem Keeps.trimMargin {r : RwResult} (h : Keeps s₀ s) : Keeps s₀ (trimMargin s r) :=
  h.setReg

theorem Keeps.noteResult {scan : Bool} {rs : List RwResult} {r : RwResult} (h : Keeps s₀ s) :
    Keeps s₀ (noteResult scan rs s r) := by
  unfold Machine.noteResult
  dsimp only
  split
  · refine Keeps.trimMargin ?_
    refine Keeps.setDist ?_
    split
    · exact h.fillResFail
    · exact h
  · exact h

theorem Keeps.execRoadworksContentDone {results : List RwResult} (h : Keeps s₀ s) :
    KeepsNext s₀ (execRoadworksContentDone results s) := by
  unfold Machine.execRoadworksContentDone
  refine Keeps.next ?_
  split
  · exact h
  · exact Keeps.mapDists (h.foldl (fun _ _ k => k.noteResult)) (fun _ => by split <;> rfl)

end Sys2Proof.Machine
end

