-- ==== Sys2Proof/Proofs/FormOfCommands.lean ====
section
/-! SUPPORT. The commands keep the forms. -/

namespace Sys2Proof.Machine

open Sys2Proof.SMap

variable {s₀ s u : State} {x x' : Tile} {y : Group}

/-! ### RDMA -/

theorem Keeps.setQp {i : Nat} {q : QueuePair} (h : Keeps s₀ s) : Keeps s₀ (setQp s i q) :=
  h.elsewhere

theorem Keeps.noteCe {h : RdmaHead} (hs : Keeps s₀ s) : Keeps s₀ (noteCe s h) :=
  Keeps.ite hs.setQp.emit hs

theorem Keeps.ackRdma {h : RdmaHead} {nak : Option Byte} (hs : Keeps s₀ s) : Keeps s₀ (ackRdma s h nak) :=
  hs.emit

theorem Keeps.refuseRdma {h : RdmaHead} (hs : Keeps s₀ s) : Keeps s₀ (refuseRdma s h) :=
  hs.bump.ackRdma

theorem Keeps.meetSpan {a n : Nat} {whole : List Nat} {dm : Damage} (h : Keeps s₀ s) :
    Keeps s₀ (meetSpan s a n whole dm) := by
  unfold Machine.meetSpan
  exact h.meet.meet

theorem Keeps.chargeSpan {a n : Nat} (h : Keeps s₀ s) : Keeps s₀ (chargeSpan s a n) :=
  h.chargeAccess

theorem Keeps.storePacket {h : RdmaHead} {r : WriteRun} {data : List Byte} {dm : Damage} (hs : Keeps s₀ s) :
    Keeps s₀ (storePacket s h r data dm) :=
  hs.setQp.chargeSpan.meetSpan.hostStore.bump

theorem Keeps.takeWrite {h : RdmaHead} {p : WritePart} {data : List Byte} {dm : Damage} (hs : Keeps s₀ s) :
    Keeps s₀ (takeWrite s h p data dm) := by
  unfold Machine.takeWrite
  split
  · exact hs.ackRdma
  · exact Keeps.ite (hs.storePacket.when fun k => k.ackRdma) hs.refuseRdma

theorem Keeps.execRdmaWrite {h : RdmaHead} {p : WritePart} {data : List Byte} {dm : Damage} (hs : Keeps s₀ s) :
    KeepsNext s₀ (execRdmaWrite h p data dm s) := by
  unfold Machine.execRdmaWrite
  refine Keeps.next ?_
  split
  · exact hs
  · exact Keeps.ite hs.noteCe.takeWrite (Keeps.ite hs.noteCe.ackRdma hs.noteCe.ackRdma)

theorem Keeps.takeRead {h : RdmaHead} {a n : Nat} {dm : Damage} (hs : Keeps s₀ s) : Keeps s₀ (takeRead s h a n dm) := by
  unfold Machine.takeRead
  dsimp only
  split
  · exact Keeps.emit (Keeps.bump ((hs.chargeSpan.meetSpan.foldl (fun _ _ k => k.giveCheck)).when fun k => k.setQp))
  · exact hs.chargeSpan.meetSpan.ackRdma

theorem Keeps.execRdmaRead {h : RdmaHead} {rkey : Word} {addr : DWord} {length : Word} {dm : Damage} (hs : Keeps s₀ s) :
    KeepsNext s₀ (execRdmaRead h rkey addr length dm s) := by
  unfold Machine.execRdmaRead
  refine Keeps.next ?_
  split
  · exact hs
  · exact Keeps.ite hs.noteCe.ackRdma (Keeps.ite hs.noteCe.takeRead hs.noteCe.refuseRdma)

/-! ### Loading -/

theorem Keeps.putSlot {i : Fin 4} {x : Slot} (h : Keeps s₀ s) : Keeps s₀ (putSlot s i x) :=
  h.elsewhere

theorem Keeps.chargeCopy {a n : Nat} (h : Keeps s₀ s) : Keeps s₀ (chargeCopy s a n) :=
  h.chargeAccess.chargeHub

theorem Keeps.giveRead {a n : Nat} (h : Keeps s₀ s) : Keeps s₀ (giveRead s a n) :=
  h.foldl (fun _ _ k => k.giveCheck)

theorem Keeps.loadInto {i : Fin 4} {l : List Byte} {c : ItinContent} (h : Keeps s₀ s) : Keeps s₀ (loadInto s i l c).1 :=
  h.append.appendAll.putSlot.takeFresh

theorem Keeps.loadOp {i : Fin 4} {a n : Nat} {c : ItinContent} {dm : Damage} (h : Keeps s₀ s) :
    Keeps s₀ (loadOp i a n c dm s).1 := by
  unfold Machine.loadOp
  dsimp only
  split
  · exact h
  · split
    · exact h
    · split
      · exact h
      · split
        · exact h
        · split
          · split
            · exact h.copyMeets
            · exact h.copyMeets.chargeCopy.giveRead.loadInto
          · exact h.copyMeets.elsewhere

theorem Keeps.execLoad {r : Req} {content : ItinContent} {dm : Damage} (h : Keeps s₀ s) :
    KeepsNext s₀ (execLoad r content dm s) :=
  Keeps.next (h.serve (fun _ _ k => k.loadOp))

theorem Keeps.patchOp {i : Fin 4} {es : List PatchEntry} (h : Keeps s₀ s) : Keeps s₀ (patchOp i es s).1 := by
  unfold Machine.patchOp
  split
  · exact h
  · split
    · exact h
    · split
      · exact h
      · exact h.putSlot

theorem Keeps.execPatch {r : Req} (h : Keeps s₀ s) : KeepsNext s₀ (execPatch r s) :=
  Keeps.next (h.serve (fun _ _ k => k.patchOp))

theorem Keeps.execUnload {r : Req} (h : Keeps s₀ s) : KeepsNext s₀ (execUnload r s) :=
  Keeps.next (h.serve (fun _ _ k => by
    split
    · exact k
    · split
      · exact k
      · exact k.elsewhere))

theorem Keeps.execSeed {r : Req} (h : Keeps s₀ s) : KeepsNext s₀ (execSeed r s) :=
  Keeps.next (h.serve (fun _ _ k => by
    split
    · exact k
    · split
      · exact k
      · exact k.setSeed.append))

theorem Keeps.emptyHops (h : Keeps s₀ s) : Keeps s₀ (emptyHops s) :=
  Keeps.noHops (h.foldl (fun _ _ k => k.foldl (fun _ _ hk => hk.leaveIngress)))

theorem Keeps.commitJob {i : Fin 4} {x : Slot} {b : CommitBody} {es : List (Nat × Nat × Word)} (h : Keeps s₀ s) :
    Keeps s₀ (commitJob s i x b es) :=
  h.append.appendAll.putSlot.emptyHops.elsewhere.installJob.setReg

theorem Keeps.startJob {b : CommitBody} {join : Bool} (h : Keeps s₀ s) : Keeps s₀ (startJob s b join) :=
  Keeps.sendStart (Keeps.ite h.elsewhere h)

theorem Keeps.mapWrites {src : Source} {l : List Word} {n : Nat} (h : Keeps s₀ s) : Keeps s₀ (mapWrites src l n s) := by
  induction l generalizing s n with
  | nil => exact h
  | cons w r ih => exact ih h.writeAccess

theorem Keeps.commitReads {x : Slot} {b : CommitBody} {dm : Damage} (h : Keeps s₀ s) :
    Keeps s₀ (commitReads s x b dm).1 :=
  h.chargeAccess.chargeHub.copyMeets.when fun k => k.giveRead

theorem Keeps.commitMapped {b : CommitBody} {join : Bool} {dm : Damage} (h : Keeps s₀ s) :
    Keeps s₀ (commitMapped b join dm s).1 := by
  unfold Machine.commitMapped
  dsimp only
  split
  · exact h
  · split
    · exact h
    · split
      · exact h
      · split
        · exact h
        · split
          · split
            · exact h.commitReads
            · exact h.commitReads.commitJob.startJob
          · exact h.commitReads

theorem Keeps.commitOp {r : Req} {b : CommitBody} {join : Bool} {dm : Damage} (h : Keeps s₀ s) :
    Keeps s₀ (commitOp r b join dm s).1 := by
  unfold Machine.commitOp
  split
  · exact h
  · split
    · exact h
    · exact h.mapWrites.commitMapped

theorem Keeps.execCommit {r : Req} {dm : Damage} (h : Keeps s₀ s) : KeepsNext s₀ (execCommit r dm s) :=
  Keeps.next (Keeps.ite (h.serve (fun _ _ k => k.commitOp)) h)

theorem Keeps.execCommitJoin {r : Req} {dm : Damage} (h : Keeps s₀ s) : KeepsNext s₀ (execCommitJoin r dm s) :=
  Keeps.next (Keeps.ite (h.serve (fun _ _ k => k.commitOp)) h)

/-! ### Operations of a job -/

theorem Keeps.execTollgate {r : Req} (h : Keeps s₀ s) : KeepsNext s₀ (execTollgate r s) :=
  Keeps.next (h.accept (fun _ _ k => Keeps.ite k.complete (Keeps.ite k.elsewhere k.complete)))

theorem Keeps.abortJob {src : Source} {code : Byte} (h : Keeps s₀ s) : Keeps s₀ (abortJob s src code) :=
  h.endWith.unlessReset (fun _ k => k.elsewhere)

theorem Keeps.execAbort {r : Req} (h : Keeps s₀ s) : KeepsNext s₀ (execAbort r s) :=
  Keeps.next (h.serve (fun _ _ k => by
    split
    · exact k
    · split
      · exact k
      · exact k.abortJob))

theorem Keeps.purgeUnits {j : Nat} (h : Keeps s₀ s) : Keeps s₀ (purgeUnits s j) :=
  Keeps.mapHopsLinks (h.foldl (fun _ _ k => k.foldl (fun _ _ hk => hk.leaveIngress))) (fun _ => rfl) (fun _ => rfl)

theorem Keeps.forceDone (h : Keeps s₀ s) : Keeps s₀ (forceDone s) :=
  h.purgeUnits.mapTiles (fun _ => rfl) (fun _ k => k.elsewhere)

theorem Keeps.retraceJob (h : Keeps s₀ s) : Keeps s₀ (retraceJob s) :=
  h.elsewhere.settleDecision.setAbandon.when fun k => k.forceDone

theorem Keeps.execRetraceCommand {r : Req} (h : Keeps s₀ s) : KeepsNext s₀ (execRetraceCommand r s) :=
  Keeps.next (h.serve (fun _ _ k => by
    split
    · exact k
    · split
      · exact k
      · exact k.retraceJob))

theorem Keeps.forgetOrigin {c : Subst} (h : Keeps s₀ s) : Keeps s₀ (forgetOrigin s c) := by
  unfold Machine.forgetOrigin
  split
  · exact h.elsewhere
  · exact h

theorem Keeps.closeLinks {l : List Subst} (h : Keeps s₀ s) : Keeps s₀ (closeLinks s l) :=
  Keeps.foldl (h.foldl (fun _ _ k => k.selfWrite)) (fun _ _ k => Keeps.ite k.startFull k)

theorem Keeps.forgetStarts (h : Keeps s₀ s) : Keeps s₀ (forgetStarts s) :=
  Keeps.ite h h.elsewhere

theorem Keeps.detourJob {b : DetourBody} (h : Keeps s₀ s) : Keeps s₀ (detourJob s b) := by
  unfold Machine.detourJob
  extract_lets forgotten m raised abandoned settled closed
  have hr : Keeps s₀ raised := h.forgetStarts.raiseCause.clearCause
  have ha : Keeps s₀ abandoned := Keeps.ite hr.setAbandon hr
  have hs : Keeps s₀ settled := Keeps.settleNeighbour (ha.foldl fun _ _ k => k.forgetOrigin)
  exact hs.closeLinks.elsewhere.settleDetour

theorem Keeps.execDetour {r : Req} (h : Keeps s₀ s) : KeepsNext s₀ (execDetour r s) :=
  Keeps.next (h.serve (fun _ _ k => by
    split
    · exact k
    · split
      · exact k
      · split
        · exact k
        · split
          · exact k
          · exact k.detourJob))

/-! ### Flits -/

theorem Keeps.putFlit {n : LinkId} {cls : Nat} {replayed last : Bool} {payload : List Byte} {q : BitVec 16} (h : Keeps s₀ s) :
    Keeps s₀ (putFlit s n cls replayed last payload q) :=
  h.setLink.chargeHub.emit

theorem Keeps.sendFirst {n : LinkId} {cls : FlitClass} {last : Bool} {payload : List Byte} (h : Keeps s₀ s) :
    Keeps s₀ (sendFirst s n cls last payload) :=
  h.putFlit.setLink.bumpLink

theorem Keeps.sendAgain {n : LinkId} {f : TxFlit} (h : Keeps s₀ s) : Keeps s₀ (sendAgain s n f) :=
  h.putFlit.setLink.bumpLink

theorem Keeps.endReplay {n : Nat} (h : Keeps s₀ s) : Keeps s₀ (endReplay s n) :=
  Keeps.ite h h.setLink.settleReplay

theorem Keeps.countCreditWait {n : Nat} (h : Keeps s₀ s) : Keeps s₀ (countCreditWait s n) :=
  Keeps.ite h.setLink.bumpLink h.setLink

theorem Keeps.delayHop {n : LinkId} (h : Keeps s₀ s) : Keeps s₀ (delayHop s n) :=
  Keeps.ite h h.setHop

theorem Keeps.leaveSch {n : LinkId} {p : SchOut} (h : Keeps s₀ s) : Keeps s₀ (leaveSch s n p) :=
  h.setHop.sendFirst

theorem Keeps.sendNext {n : LinkId} (h : Keeps s₀ s) : Keeps s₀ (sendNext s n) := by
  unfold Machine.sendNext
  dsimp only
  split
  · exact h.setLink.delayHop.sendFirst
  · split
    · exact h.setLink.leaveSch
    · split
      · exact h.setLink.sendFirst
      · exact h.putFlit

theorem Keeps.execFlitTransmit {n : LinkId} (h : Keeps s₀ s) : KeepsNext s₀ (execFlitTransmit n s) := by
  unfold Machine.execFlitTransmit
  dsimp only
  refine Keeps.next ?_
  split
  · split
    · exact h.countCreditWait.sendAgain
    · exact h.countCreditWait.endReplay.sendNext
  · exact h

theorem Keeps.startReplay {n : LinkId} {v : BitVec 16} (h : Keeps s₀ s) : Keeps s₀ (startReplay s n v) :=
  Keeps.ite h (Keeps.ite h.startRetrain h.setLink)

theorem Keeps.takeAck {n : LinkId} {v : BitVec 16} (h : Keeps s₀ s) : Keeps s₀ (takeAck s n v) :=
  Keeps.ite h.setLink h.startRetrain

theorem Keeps.takeNak {n : LinkId} {v : BitVec 16} (h : Keeps s₀ s) : Keeps s₀ (takeNak s n v) :=
  Keeps.ite h.startRetrain (h.setLink.unless fun k => k.startReplay)

theorem Keeps.takeCredit {n sel : Nat} {v : BitVec 16} (h : Keeps s₀ s) : Keeps s₀ (takeCredit s n sel v) :=
  h.setLink

theorem Keeps.takeValue {n : LinkId} {sel : Nat} {v : BitVec 16} (h : Keeps s₀ s) : Keeps s₀ (takeValue s n sel v) :=
  Keeps.ite h.takeAck (Keeps.ite h.takeNak (Keeps.ite h.takeCredit h))

theorem Keeps.addPart {n : Nat} {via : Word} {p : List Byte} (h : Keeps s₀ s) : Keeps s₀ (addPart s n via p).1 := by
  unfold Machine.addPart
  dsimp only
  split
  · exact h
  · split
    · split
      · exact h.elsewhere
      · exact h.elsewhere
    · split
      · exact h.elsewhere
      · exact h.elsewhere

theorem Keeps.takeCompletion {b : List Byte} (h : Keeps s₀ s) : Keeps s₀ (takeCompletion s b) := by
  unfold Machine.takeCompletion
  dsimp only
  split
  · exact h
  · exact h.elsewhere.bump.complete

theorem Keeps.passOn {m : Nat} {b : List Byte} (h : Keeps s₀ s) : Keeps s₀ (passOn s m b) :=
  h.elsewhere.sendFrame

theorem Keeps.passFrame {n : Nat} {via dst : Word} {b : List Byte} (h : Keeps s₀ s) :
    Keeps s₀ (passFrame s n via dst b) := by
  unfold Machine.passFrame
  dsimp only
  split
  · split
    · exact h.elsewhere.passOn
    · exact h
  · split
    · exact h.elsewhere.passOn
    · exact h

theorem Keeps.takeFrame {n : Nat} {via : Word} {b : List Byte} (h : Keeps s₀ s) : Keeps s₀ (takeFrame s n via b) :=
  Keeps.ite h.passFrame (Keeps.ite h.takeCompletion h.elsewhere)

theorem Keeps.takeMgt {n : Nat} {via : Word} {p : List Byte} (h : Keeps s₀ s) : Keeps s₀ (takeMgt s n via p) := by
  unfold Machine.takeMgt
  dsimp only
  split
  · exact h.setLink.addPart.takeFrame
  · exact h.setLink.addPart

theorem Keeps.badWay {n : LinkId} (h : Keeps s₀ s) : Keeps s₀ (badWay s n) :=
  Keeps.ite h.setLink.hopViolation h.setLink.bump

theorem Keeps.handOver {n : LinkId} {via : Word} {cls : Nat} {h : Word} {p : List Byte} (hs : Keeps s₀ s) :
    Keeps s₀ (handOver s n via cls h p) :=
  Keeps.ite hs.setLink (Keeps.ite (Keeps.ite hs.setLink hs.badWay) hs.takeMgt)

theorem Keeps.acceptFlit {n : LinkId} {via : Word} {f : List Byte} (h : Keeps s₀ s) : Keeps s₀ (acceptFlit s n via f) := by
  unfold Machine.acceptFlit
  dsimp only
  split
  · exact h.startRetrain
  · split
    · exact h.takeValue
    · exact Keeps.ite h.startRetrain h.setLink.chargeHub.bumpLink.handOver.takeValue

theorem Keeps.execFlitReceive {n : LinkId} {via : Word} {f : List Byte} (h : Keeps s₀ s) :
    KeepsNext s₀ (execFlitReceive n via f s) :=
  Keeps.next (Keeps.ite (Keeps.ite h.acceptFlit (Keeps.ite h h.setLink.bumpLink)) h)

theorem Keeps.execNakTimeout {n : LinkId} (h : Keeps s₀ s) : KeepsNext s₀ (execNakTimeout n s) :=
  Keeps.next (Keeps.ite h.setLink.bumpLink h)

theorem Keeps.execReplayTimeout {n : LinkId} (h : Keeps s₀ s) : KeepsNext s₀ (execReplayTimeout n s) :=
  Keeps.next (Keeps.ite h.bumpLink.startReplay h)

theorem Keeps.execLinkReplayAllowanceExpiry {n : LinkId} (h : Keeps s₀ s) :
    KeepsNext s₀ (execLinkReplayAllowanceExpiry n s) :=
  Keeps.next (Keeps.ite h.setLink.raiseCause h)

/-! ### Seals -/

theorem Keeps.execTick (h : Keeps s₀ s) : KeepsNext s₀ (execTick s) :=
  Keeps.next (Keeps.ite h.append h)

theorem Keeps.finishSeal {j : SealJob} (h : Keeps s₀ s) : Keeps s₀ (finishSeal s j) :=
  h.elsewhere.takeFresh.chargeT2.append.endSign

theorem Keeps.execSealComplete (h : Keeps s₀ s) : KeepsNext s₀ (execSealComplete s) := by
  unfold Machine.execSealComplete
  refine Keeps.next ?_
  split
  · exact h.finishSeal
  · exact h

theorem Keeps.execSealFlashStoreDone {ok : Bool} (h : Keeps s₀ s) : KeepsNext s₀ (execSealFlashStoreDone ok s) := by
  unfold Machine.execSealFlashStoreDone
  refine Keeps.next ?_
  split
  · exact Keeps.ite h h.elsewhere.takeFresh
  · exact h

/-! ### Management -/

theorem Keeps.jrnReadOp {first count : Nat} {dm : Damage} (h : Keeps s₀ s) : Keeps s₀ (jrnReadOp first count dm s).1 := by
  unfold Machine.jrnReadOp
  dsimp only
  split
  · exact h
  · exact h.chargeHub.copyMeets

theorem Keeps.execJrnRead {r : Req} {dm : Damage} (h : Keeps s₀ s) : KeepsNext s₀ (execJrnRead r dm s) :=
  Keeps.next (h.serve (fun _ _ k => k.jrnReadOp))

theorem Keeps.readT2 {a n : Nat} {dm : Damage} (h : Keeps s₀ s) : Keeps s₀ (readT2 s a n dm).1 :=
  h.chargeT2.copyMeets

theorem Keeps.sealReadOp {number offset n : Nat} {dm : Damage} (h : Keeps s₀ s) :
    Keeps s₀ (sealReadOp number offset n dm s).1 := by
  unfold Machine.sealReadOp
  dsimp only
  split
  · split
    · exact h.readT2
    · exact h.readT2
  · exact h

theorem Keeps.execSealRead {r : Req} {dm : Damage} (h : Keeps s₀ s) : KeepsNext s₀ (execSealRead r dm s) :=
  Keeps.next (h.serve (fun _ _ k => k.sealReadOp))

theorem Keeps.execReportRead {r : Req} (h : Keeps s₀ s) : KeepsNext s₀ (execReportRead r s) :=
  Keeps.next (h.serve (fun _ _ k => by
    split
    · exact k
    · exact k))

theorem Keeps.execImgBegin {r : Req} (h : Keeps s₀ s) : KeepsNext s₀ (execImgBegin r s) :=
  Keeps.next (h.serve (fun _ _ k => by
    split
    · exact k
    · split
      · exact k
      · exact k.elsewhere))

theorem Keeps.execImgData {r : Req} (h : Keeps s₀ s) : KeepsNext s₀ (execImgData r s) :=
  Keeps.next (h.serve (fun _ _ k => by
    split
    · exact k
    · split
      · exact k
      · split
        · exact k
        · exact k.chargeT2.elsewhere))

theorem Keeps.execImgVerify {r : Req} {dm : Damage} (h : Keeps s₀ s) : KeepsNext s₀ (execImgVerify r dm s) :=
  Keeps.next (h.serve (fun _ _ k => by
    split
    · exact k
    · split
      · exact k
      · dsimp only
        split
        · exact k.readT2
        · exact k.readT2.elsewhere))

theorem Keeps.execImgStore {r : Req} (h : Keeps s₀ s) : KeepsNext s₀ (execImgStore r s) :=
  Keeps.next (h.serve (fun _ _ k => by
    split
    · exact k
    · split
      · exact k
      · split
        · exact k
        · exact k.elsewhere))

theorem Keeps.execImgStoreDone {same : Bool} {dm : Damage} (h : Keeps s₀ s) :
    KeepsNext s₀ (execImgStoreDone same dm s) := by
  unfold Machine.execImgStoreDone
  refine Keeps.next ?_
  split
  · exact h.readT2.takeFresh.elsewhere
  · exact h

theorem Keeps.execFlashRead {r : Req} (h : Keeps s₀ s) : KeepsNext s₀ (execFlashRead r s) :=
  Keeps.next (h.serve (fun _ _ k => by
    split
    · exact k
    · split
      · exact k
      · exact k))

theorem Keeps.execIdKey {r : Req} (h : Keeps s₀ s) : KeepsNext s₀ (execIdKey r s) :=
  Keeps.next (h.serve (fun _ _ k => by
    split
    · exact k
    · exact k))

theorem Keeps.startAttest {n : BitVec 256} (h : Keeps s₀ s) : Keeps s₀ (startAttest s n) :=
  h.elsewhere

theorem Keeps.execAttest {r : Req} (h : Keeps s₀ s) : KeepsNext s₀ (execAttest r s) :=
  Keeps.next (h.serve (fun _ _ k => by
    split
    · exact k
    · exact k.startAttest))

theorem Keeps.execAttestDone (h : Keeps s₀ s) : KeepsNext s₀ (execAttestDone s) := by
  unfold Machine.execAttestDone
  refine Keeps.next ?_
  split
  · exact h.elsewhere.takeFresh.endSign
  · exact h

theorem Keeps.execAttestRead {r : Req} (h : Keeps s₀ s) : KeepsNext s₀ (execAttestRead r s) :=
  Keeps.next (h.serve (fun _ _ k => by
    split
    · exact k
    · split
      · exact k
      · split
        · exact k
        · exact k))

/-! ### Matrix instructions -/

theorem Keeps.execTld {t : TileRef} {g : GroupId} {f : TldFields} (h : Keeps s₀ s) : KeepsNext s₀ (execTld t g f s) :=
  h.issueEngine.decoded

theorem Keeps.execXclr {t : TileRef} {g : GroupId} {x : BitVec 2} {kind : Bool} (h : Keeps s₀ s) :
    KeepsNext s₀ (execXclr t g x kind s) :=
  h.issueEngine.next

theorem Keeps.execXld {t : TileRef} {g : GroupId} {f : XmFields} (h : Keeps s₀ s) : KeepsNext s₀ (execXld t g f s) :=
  h.issueEngine.next

theorem Keeps.execXst {t : TileRef} {g : GroupId} {f : XmFields} (h : Keeps s₀ s) : KeepsNext s₀ (execXst t g f s) :=
  h.issueEngine.next

theorem Keeps.execMma {t : TileRef} {g : GroupId} {f : PairFields} {kind : Bool} (h : Keeps s₀ s) :
    KeepsNext s₀ (execMma t g f kind s) :=
  h.issueEngine.decoded

theorem Keeps.execRndExs {t : TileRef} {g : GroupId} {f : RndFields} (h : Keeps s₀ s) :
    KeepsNext s₀ (execRndExs t g f s) :=
  h.issueEngine.decoded

theorem Keeps.execXredPack {t : TileRef} {g : GroupId} {f : XredFields} (h : Keeps s₀ s) :
    KeepsNext s₀ (execXredPack t g f s) := by
  unfold Machine.execXredPack
  refine Keeps.decoded ?_
  extract_lets x issued x' encoding
  split
  · split
    · exact h.countIssue.sendViolation
    · have hi : Keeps s₀ issued := h.issueEngine
      have he : Keeps s₀ encoding := hi.setTile hi.getTile.setSend
      exact Keeps.ite hi (Keeps.ite (he.putGroup he.getTile.getGroup.addOutput) he)
  · exact h

theorem Keeps.execXredAdd {t : TileRef} {g : GroupId} {f : XredFields} (h : Keeps s₀ s) :
    KeepsNext s₀ (execXredAdd t g f s) :=
  h.issueEngine.decoded

theorem Keeps.execXredFsum {t : TileRef} {g : GroupId} {d a : BitVec 6} (h : Keeps s₀ s) :
    KeepsNext s₀ (execXredFsum t g d a s) :=
  Keeps.next (h.issueGroup (fun _ k => k.writeThreads))

theorem Keeps.execXredFcomb {t : TileRef} {g : GroupId} {f : FcombFields} (h : Keeps s₀ s) :
    KeepsNext s₀ (execXredFcomb t g f s) := by
  unfold Machine.execXredFcomb
  dsimp only
  refine Keeps.decoded ?_
  split
  · exact h.issueEngine
  · exact h.issueEngine.putGroup h.issueEngine.getTile.getGroup.elsewhere

theorem Keeps.execChkRow {t : TileRef} {g : GroupId} {f : PairFields} (h : Keeps s₀ s) :
    KeepsNext s₀ (execChkRow t g f s) :=
  h.issueEngine.decoded

theorem Keeps.execChkCol {t : TileRef} {g : GroupId} {f : PairFields} (h : Keeps s₀ s) :
    KeepsNext s₀ (execChkCol t g f s) :=
  h.issueEngine.decoded

theorem Keeps.execChkCmp {t : TileRef} {g : GroupId} {x : BitVec 2} {rows cols : Bool} (h : Keeps s₀ s) :
    KeepsNext s₀ (execChkCmp t g x rows cols s) :=
  h.issueEngine.decoded

/-! ### Power -/

theorem Keeps.ballast {q : Nat} (h : Keeps s₀ s) : Keeps s₀ (ballast s q) :=
  Keeps.ite h.chargeDie (h.foldl (fun _ _ k => k.charge))

theorem Keeps.endTick {q : Nat} (h : Keeps s₀ s) : Keeps s₀ (endTick s q) :=
  h.ballast.setDie.setTarget.setTarget.setDie

theorem Keeps.execPowerTick (h : Keeps s₀ s) : KeepsNext s₀ (execPowerTick s) := by
  unfold Machine.execPowerTick
  refine Keeps.next ?_
  split
  · exact Keeps.takeFresh (Keeps.setReg (Keeps.foldl (h.foldl (fun _ _ k => k.endTick)) (fun _ _ k => Keeps.ite k.bump k)))
  · exact h

theorem Keeps.senseDistrict {d c : Nat} (h : Keeps s₀ s) : Keeps s₀ (senseDistrict s d c) :=
  h.setReg.setDist

theorem Keeps.sampleDie {r : PowerReading} {q : Nat} (h : Keeps s₀ s) : Keeps s₀ (sampleDie s r q) :=
  h.setDie.setDie.setReg.setReg.setTarget

theorem Keeps.endHeating (h : Keeps s₀ s) : Keeps s₀ (endHeating s) :=
  h.foldl (fun _ _ k => Keeps.ite k.setDist k)

theorem Keeps.execPowerSample {r : PowerReading} (h : Keeps s₀ s) : KeepsNext s₀ (execPowerSample r s) := by
  unfold Machine.execPowerSample
  refine Keeps.next ?_
  split
  · extract_lets sensed sampled before now pwr stored ended
    have hs : Keeps s₀ sampled := (h.foldl fun _ _ k => k.senseDistrict).foldl fun _ _ k => k.sampleDie
    have he : Keeps s₀ ended := hs.elsewhere.endHeating.takeFresh
    exact Keeps.ite he.enterFault he
  · exact h

theorem Keeps.settleTemp {q : Nat} (h : Keeps s₀ s) : Keeps s₀ (settleTemp s q) :=
  Keeps.ite h.setTarget (Keeps.ite h.setTarget h)

theorem Keeps.settlePcap {q : Nat} (h : Keeps s₀ s) : Keeps s₀ (settlePcap s q) :=
  Keeps.ite h h.setTarget

theorem Keeps.settleShare {d : Nat} (h : Keeps s₀ s) : Keeps s₀ (settleShare s d) :=
  h.setReg

theorem Keeps.execPowerEstimate (h : Keeps s₀ s) : KeepsNext s₀ (execPowerEstimate s) := by
  unfold Machine.execPowerEstimate
  refine Keeps.next ?_
  split
  · extract_lets p l e uj pwr stored counted shown settled
    have hs : Keeps s₀ settled := h.elsewhere.bump.setReg.foldl fun _ _ k => k.settlePcap.settleTemp
    exact Keeps.takeFresh (hs.foldl fun _ _ k => k.settleShare)
  · exact h

theorem Keeps.execBrdThrotEdge {level : Bool} (h : Keeps s₀ s) : KeepsNext s₀ (execBrdThrotEdge level s) :=
  h.elsewhere.next

/-! ### Register writes with a command of their own -/

theorem Keeps.writeCommand {src : Source} {a : Nat} {d : Word} (h : Keeps s₀ s) :
    KeepsNext s₀ (writeCommand s src a d) :=
  h.writeAccess.next

theorem Keeps.execRegisterWrite {src : Source} {addr data : Word} (h : Keeps s₀ s) :
    KeepsNext s₀ (execRegisterWrite src addr data s) :=
  h.writeAccess.next

theorem Keeps.execGenScratch {src : Source} {data : Word} (h : Keeps s₀ s) : KeepsNext s₀ (execGenScratch src data s) :=
  h.writeCommand

theorem Keeps.execJrnCtrlSeal {src : Source} {data : Word} (h : Keeps s₀ s) :
    KeepsNext s₀ (execJrnCtrlSeal src data s) :=
  h.writeCommand

theorem Keeps.execJrnCtrlSealFlash {src : Source} {data : Word} (h : Keeps s₀ s) :
    KeepsNext s₀ (execJrnCtrlSealFlash src data s) :=
  h.writeCommand

theorem Keeps.execJrnRetainHi {src : Source} {data : Word} (h : Keeps s₀ s) :
    KeepsNext s₀ (execJrnRetainHi src data s) :=
  h.writeCommand

theorem Keeps.execTmeAdj {src : Source} {data : Word} (h : Keeps s₀ s) : KeepsNext s₀ (execTmeAdj src data s) :=
  h.writeCommand

theorem Keeps.execTmeCtrlUnset {src : Source} {data : Word} (h : Keeps s₀ s) :
    KeepsNext s₀ (execTmeCtrlUnset src data s) :=
  h.writeCommand

theorem Keeps.execTmeOutEn {src : Source} {k : Fin 4} {data : Word} (h : Keeps s₀ s) :
    KeepsNext s₀ (execTmeOutEn src k data s) :=
  h.writeCommand

theorem Keeps.execTopCoord {src : Source} {data : Word} (h : Keeps s₀ s) : KeepsNext s₀ (execTopCoord src data s) :=
  h.writeCommand

theorem Keeps.execTopShape {src : Source} {data : Word} (h : Keeps s₀ s) : KeepsNext s₀ (execTopShape src data s) :=
  h.writeCommand

theorem Keeps.execLnkCtrlRetrain {src : Source} {n : LinkId} {data : Word} (h : Keeps s₀ s) :
    KeepsNext s₀ (execLnkCtrlRetrain src n data s) :=
  h.writeCommand

theorem Keeps.execLnkCtrlTest {src : Source} {n : LinkId} {data : Word} (h : Keeps s₀ s) :
    KeepsNext s₀ (execLnkCtrlTest src n data s) :=
  h.writeCommand

theorem Keeps.execLnkCtrlEnable {src : Source} {n : LinkId} {data : Word} (h : Keeps s₀ s) :
    KeepsNext s₀ (execLnkCtrlEnable src n data s) :=
  h.writeCommand

theorem Keeps.execLnkCtrlDiscard {src : Source} {n : LinkId} {data : Word} (h : Keeps s₀ s) :
    KeepsNext s₀ (execLnkCtrlDiscard src n data s) :=
  h.writeCommand

theorem Keeps.execClkQdFreqDiv {src : Source} {q : Fin 4} {data : Word} (h : Keeps s₀ s) :
    KeepsNext s₀ (execClkQdFreqDiv src q data s) :=
  h.writeCommand

theorem Keeps.execClkSscEn {src : Source} {data : Word} (h : Keeps s₀ s) : KeepsNext s₀ (execClkSscEn src data s) :=
  h.writeCommand

theorem Keeps.execHostCtrlUnbind {src : Source} {data : Word} (h : Keeps s₀ s) :
    KeepsNext s₀ (execHostCtrlUnbind src data s) :=
  h.writeCommand

theorem Keeps.execMgtCtrlFec {src : Source} {data : Word} (h : Keeps s₀ s) : KeepsNext s₀ (execMgtCtrlFec src data s) :=
  h.writeCommand

theorem Keeps.execBootCtrlReboot {src : Source} {data : Word} (h : Keeps s₀ s) :
    KeepsNext s₀ (execBootCtrlReboot src data s) :=
  h.writeCommand

/-! ### Scalar instructions -/

theorem Keeps.execSalu {t : TileRef} {g : GroupId} {gd : Guard} {f : SFields} (h : Keeps s₀ s) :
    KeepsNext s₀ (execSalu t g gd f s) :=
  Keeps.decoded (h.issueGroup (fun _ k => k.writeThreads))

theorem Keeps.execScmp {t : TileRef} {g : GroupId} {gd : Guard} {f : SFields} (h : Keeps s₀ s) :
    KeepsNext s₀ (execScmp t g gd f s) :=
  Keeps.decoded (h.issueGroup (fun _ k => k.writePred))

theorem Keeps.execPred {t : TileRef} {g : GroupId} {f : SFields} (h : Keeps s₀ s) : KeepsNext s₀ (execPred t g f s) :=
  Keeps.decoded (h.issueGroup (fun _ k => k.setP))

/-! ### One ns -/

theorem Keeps.engineCycle {t : TileRef} {q : QueuedOp} (h : Keeps s₀ s) : Keeps s₀ (engineCycle t s q) :=
  (h.setTile h.getTile.setQueued.bookBanks).charge.charge

theorem KeepsTile.startMove {x : Tile} (hx : KeepsTile s₀ x) : KeepsTile s₀ (startMove x) := by
  unfold Machine.startMove
  split
  · exact hx
  · split
    · exact hx.elsewhere
    · split
      · exact hx.elsewhere
      · exact hx

theorem Keeps.spillCycle {t : TileRef} (h : Keeps s₀ s) : Keeps s₀ (spillCycle t s) := by
  unfold Machine.spillCycle
  dsimp only
  split
  · exact h.setTile h.getTile.elsewhere.startMove
  · exact (h.setTile h.getTile.elsewhere.elsewhere.bookBanks).charge

theorem Keeps.tileCycle {t : TileRef} (h : Keeps s₀ s) : Keeps s₀ (tileCycle s t) := by
  unfold Machine.tileCycle
  extract_lets x a received busy starved run spilled r y
  split
  · exact h
  · have hb : Keeps s₀ busy := Keeps.ite h.bump.bump h.bump
    have hl : Keeps s₀ starved := Keeps.ite hb.bump hb
    have hs : Keeps s₀ spilled := Keeps.spillCycle (hl.foldl fun _ _ k => k.engineCycle)
    have hy : KeepsTile s₀ y := hs.getTile.serveBanks
    exact hs.bump.setTile (hy.mapGroups (fun _ => rfl) fun _ k => k.elsewhere)

theorem Keeps.countIdle {d : Fin 144} {ps : List Nat} (h : Keeps s₀ s) : Keeps s₀ (countIdle s d ps) :=
  h.foldl (fun _ _ k => k.bump)

theorem Keeps.tilesCycle {d : Fin 144} (h : Keeps s₀ s) : Keeps s₀ (tilesCycle s d) :=
  h.charge.countIdle.foldl (fun _ _ k => k.tileCycle)

theorem Keeps.testCycle {d : Nat} (h : Keeps s₀ s) : Keeps s₀ (testCycle s d) := by
  unfold Machine.testCycle
  dsimp only
  split
  · exact h
  · exact (Keeps.ite h.setReg h).unless fun k => k.foldl (fun _ _ k => k.charge)

theorem Keeps.workCycle {d : Fin 144} (h : Keeps s₀ s) : Keeps s₀ (workCycle s d) :=
  Keeps.testCycle (Keeps.ite h.tilesCycle h.charge)

theorem Keeps.copyCycle {d : Fin 144} (h : Keeps s₀ s) : Keeps s₀ (copyCycle s d) :=
  h.setDist.charge.charge.charge.when fun k => k.countIdle

theorem Keeps.districtCycle {counts : Bool} {d : Fin 144} (h : Keeps s₀ s) : Keeps s₀ (districtCycle counts s d) :=
  Keeps.ite h.setDist (Keeps.ite h.setDist.copyCycle h.workCycle)

theorem Keeps.boundaryCycle (h : Keeps s₀ s) : Keeps s₀ (boundaryCycle s) :=
  h.elsewhere.when fun k => k.bump

theorem Keeps.countCycle {q : Nat} (h : Keeps s₀ s) : Keeps s₀ (countCycle s q) :=
  Keeps.ite (Keeps.ite h.elsewhere.bump h) (h.elsewhere.when fun k => k.boundaryCycle)

theorem Keeps.turnDie {q : Nat} (h : Keeps s₀ s) : Keeps s₀ (turnDie s q) :=
  h.elsewhere

theorem Keeps.dieCycle {q : Nat} (h : Keeps s₀ s) : Keeps s₀ (dieCycle s q) :=
  Keeps.foldl (h.turnDie.when fun k => k.countCycle) (fun _ _ k => k.districtCycle)

theorem Keeps.gateCycle {q : Nat} (h : Keeps s₀ s) : Keeps s₀ (gateCycle s q) :=
  Keeps.ite h.setDie h.dieCycle

theorem Keeps.dieTick {q : Nat} (h : Keeps s₀ s) : Keeps s₀ (dieTick s q) :=
  Keeps.ite h.elsewhere (Keeps.ite h.elsewhere h.elsewhere.gateCycle)

theorem Keeps.settleCauses (h : Keeps s₀ s) : Keeps s₀ (settleCauses s) :=
  h.settleReplay.settleDetour.settleLevels.settleDecision.settleRipple

theorem Keeps.linkTick (h : Keeps s₀ s) : Keeps s₀ (linkTick s) :=
  Keeps.ite h h.elsewhere

theorem Keeps.idle (h : Keeps s₀ s) : Keeps s₀ (idle s) := by
  unfold Machine.idle
  split
  · exact h
  · extract_lets ticked worked
    have ht : Keeps s₀ ticked := h.tickUnit.chargeHub.storeTick
    have hw : Keeps s₀ worked := Keeps.ite (Keeps.foldl (Keeps.ite ht.linkTick ht) fun _ _ k => k.dieTick) ht
    exact Keeps.ite hw.settleCauses hw

/-! ### Events of a tile -/

theorem Keeps.endPreset {qs : List Nat} (h : Keeps s₀ s) : Keeps s₀ (endPreset s qs) :=
  h.elsewhereMem.bump.when fun k => k.clearCause

theorem Keeps.meetRestore {dm : Damage} (h : Keeps s₀ s) : Keeps s₀ (meetRestore s dm) :=
  h.meet

theorem Keeps.execPartitionResetDone {q : Fin 4} {dm : Damage} (h : Keeps s₀ s) :
    KeepsNext s₀ (execPartitionResetDone q dm s) :=
  Keeps.next (Keeps.ite (h.loadCode.restorePartition.meetRestore.unless fun k => k.endPreset) h)

theorem Keeps.execGroupSwapStart {t : TileRef} (h : Keeps s₀ s) : KeepsNext s₀ (execGroupSwapStart t s) := by
  unfold Machine.execGroupSwapStart
  dsimp only
  refine Keeps.next ?_
  split
  · split
    · exact h.setTile h.getTile.elsewhere
    · exact h
  · exact h

theorem Keeps.placeBacking {q : Nat} {l : List Nat} (h : Keeps s₀ s) : Keeps s₀ (placeBacking q l s).1 := by
  induction l generalizing s with
  | nil => exact h
  | cons a r ih =>
    unfold Machine.placeBacking
    split
    · next v hv => exact ih (h.touchSpill hv)
    · exact ih h

theorem Keeps.useBacking {p : TileProg} {off n : Nat} {dm : Damage} (h : Keeps s₀ s) :
    Keeps s₀ (useBacking s p off n dm) :=
  Keeps.meet (Keeps.foldl (h.foldl (fun _ _ k => k.chargeAccess)) (fun _ _ k => k.giveCheck))

theorem Keeps.withBacking {t : TileRef} {g : Nat} {ls : List Nat} {f : State → State} (h : Keeps s₀ s)
    (hf : ∀ s, Keeps s₀ s → Keeps s₀ (f s)) : Keeps s₀ (withBacking s t g ls f) :=
  (hf _ h.placeBacking).foldl fun _ _ k => k.tileViolation

theorem KeepsTile.filterSpad (h : KeepsTile s₀ x) {f} : KeepsTile s₀ { x with spad := x.spad.filter f } := by
  intro h0
  obtain ⟨h1, h2, h3, h4⟩ := (tile_keyed_iff x).mp (h h0)
  exact (tile_keyed_iff _).mpr ⟨h1, h2, rising_filter _ _ h3, h4⟩

theorem Keeps.zeroUnbacked (h : Keeps s₀ s) {t : TileRef} {page base : Nat} : Keeps s₀ (zeroUnbacked s t page base) :=
  h.setTile h.getTile.filterSpad

theorem KeepsGroup.filterRegs (h : KeepsGroup s₀ y) {f g k} :
    KeepsGroup s₀ { y with s := y.s.filter f, p := y.p.filter g, v := y.v.filter k } := by
  intro h0
  obtain ⟨h1, h2, h3⟩ := (group_keyed_iff y).mp (h h0)
  exact (group_keyed_iff _).mpr ⟨rising_filter _ _ h1, rising_filter _ _ h2, rising_filter _ _ h3⟩

theorem Keeps.zeroContext (h : Keeps s₀ s) {t : TileRef} {g : Nat} {ls : List Nat} : Keeps s₀ (zeroContext s t g ls) := by
  unfold Machine.zeroContext
  split
  · exact h
  · exact (h.putGroup h.getTile.getGroup.filterRegs).takeFresh

theorem Keeps.endSwap {t : TileRef} {w : Swap} (h : Keeps s₀ s) : Keeps s₀ (endSwap s t w) :=
  (h.setTile ((h.getTile.setGroup h.getTile.getGroup.elsewhere).setGroup h.getTile.getGroup.elsewhere).elsewhere).bump.bump

theorem Keeps.execGroupSwapEnd {t : TileRef} {dm : Damage} (h : Keeps s₀ s) : KeepsNext s₀ (execGroupSwapEnd t dm s) := by
  unfold Machine.execGroupSwapEnd
  dsimp only
  refine Keeps.next ?_
  split
  · split
    · exact h
    · exact h.withBacking (fun _ k => k.endSwap.zeroContext.useBacking.useBacking)
  · exact h

theorem Keeps.bringIn {t : TileRef} {m : PageMove} (h : Keeps s₀ s) : Keeps s₀ (bringIn s t m) :=
  (h.setTile h.getTile.elsewhere).bump.bump

theorem Keeps.execPageSwapDone {t : TileRef} {page : Fin 128} {dm : Damage} (h : Keeps s₀ s) :
    KeepsNext s₀ (execPageSwapDone t page dm s) := by
  unfold Machine.execPageSwapDone
  dsimp only
  refine Keeps.next ?_
  split
  · split
    · exact h
    · exact h.withBacking (fun _ k => Keeps.useBacking (k.bringIn.zeroUnbacked.foldl (fun _ _ hk => hk.useBacking)))
  · exact h

/-! ### Time exchanges -/

theorem Keeps.sendPtp {p : PortId} {m : PtpOut} (h : Keeps s₀ s) : Keeps s₀ (sendPtp s p m) :=
  h.emit

theorem Keeps.sendEvent {p : PortId} {type : Byte} {seq : BitVec 16} (h : Keeps s₀ s) :
    Keeps s₀ (sendEvent s p type seq) :=
  h.sendPtp

theorem Keeps.measureExchange {e : Exchange} (h : Keeps s₀ s) : Keeps s₀ (measureExchange s e) := by
  unfold Machine.measureExchange
  split
  · exact h.noteMeasure
  · exact h

theorem Keeps.settleExchanges (h : Keeps s₀ s) : Keeps s₀ (settleExchanges s) :=
  h.elsewhere.foldl (fun _ _ k => k.measureExchange)

theorem Keeps.execPtpSync {p : PortId} {m : PtpMsg} (h : Keeps s₀ s) : KeepsNext s₀ (execPtpSync p m s) :=
  Keeps.next (Keeps.ite h.sendEvent.elsewhere h)

theorem Keeps.execFollowUp {p : PortId} {m : PtpMsg} (h : Keeps s₀ s) : KeepsNext s₀ (execFollowUp p m s) :=
  Keeps.next (Keeps.ite h.elsewhere.settleExchanges h)

theorem Keeps.execDelayResp {p : PortId} {m : PtpMsg} (h : Keeps s₀ s) : KeepsNext s₀ (execDelayResp p m s) :=
  Keeps.next (Keeps.ite h.elsewhere.settleExchanges h)

theorem Keeps.execDelayReq {p : PortId} {m : PtpMsg} (h : Keeps s₀ s) : KeepsNext s₀ (execDelayReq p m s) :=
  Keeps.next (Keeps.ite h.sendPtp h)

theorem Keeps.execPtpSyncInterval {p : PortId} (h : Keeps s₀ s) : KeepsNext s₀ (execPtpSyncInterval p s) :=
  Keeps.next (Keeps.ite (Keeps.elsewhere (h.sendPtp.sendEvent.when fun k => k.sendPtp)) h)

theorem Keeps.execTimeWrap (h : Keeps s₀ s) : KeepsNext s₀ (execTimeWrap s) :=
  Keeps.next (Keeps.ite h.idle h)

theorem Keeps.execTmeOutPulse {k : Fin 4} (h : Keeps s₀ s) : KeepsNext s₀ (execTmeOutPulse k s) :=
  Keeps.next (Keeps.ite h.fireOutput h)

theorem Keeps.execTmeInCapture {j : Fin 2} {rising : Bool} (h : Keeps s₀ s) :
    KeepsNext s₀ (execTmeInCapture j rising s) :=
  Keeps.next (Keeps.ite (Keeps.ite h.bump h.setReg.setReg) h)

theorem Keeps.execSlewEnd (h : Keeps s₀ s) : KeepsNext s₀ (execSlewEnd s) :=
  Keeps.next (Keeps.ite h.idle h)

theorem Keeps.scrubbed {a : Nat} (h : Keeps s₀ s) : Keeps s₀ (scrubbed s a) :=
  Keeps.ite h.giveCheck h

theorem Keeps.scrubStack {o : MemOutcome} (h : Keeps s₀ s) : Keeps s₀ (scrubStack s o) :=
  h.elsewhereMem.when fun k => k.chargeAccess.scrubbed.memOutcome

theorem Keeps.scrubLpddr {o : MemOutcome} (h : Keeps s₀ s) : Keeps s₀ (scrubLpddr s o) :=
  Keeps.ite h h.elsewhereMem.chargeHub.scrubbed.memOutcome

theorem Keeps.execScrub {hbm t2 : MemOutcome} (h : Keeps s₀ s) : KeepsNext s₀ (execScrub hbm t2 s) :=
  Keeps.next (Keeps.ite h.scrubStack.scrubLpddr h)

/-! ### Training -/

theorem Keeps.badBlock {n : LinkId} {b : BitVec 128} {cause : Nat} (h : Keeps s₀ s) : Keeps s₀ (badBlock s n b cause) :=
  Keeps.ite (Keeps.failAttempt (Keeps.ite h.setLink h)) h

theorem Keeps.takeBlock {n : LinkId} {b : BitVec 128} {f : State → State} (h : Keeps s₀ s)
    (hf : ∀ s, Keeps s₀ s → Keeps s₀ (f s)) : Keeps s₀ (takeBlock s n b f) := by
  unfold Machine.takeBlock
  split
  · exact h.badBlock
  · exact Keeps.ite h.followFull (hf _ h)

theorem Keeps.execLossOfSignal {n : LinkId} {lane : Fin 4} (h : Keeps s₀ s) :
    KeepsNext s₀ (execLossOfSignal n lane s) :=
  Keeps.next (Keeps.ite h.startRetrain h)

theorem Keeps.execSignalLock {n : LinkId} {lane : Fin 4} (h : Keeps s₀ s) : KeepsNext s₀ (execSignalLock n lane s) :=
  Keeps.next (Keeps.ite h.setLink h)

theorem Keeps.execTs1 {n : LinkId} {b : BitVec 128} (h : Keeps s₀ s) : KeepsNext s₀ (execTs1 n b s) :=
  Keeps.next (h.takeBlock (fun _ k => by
    dsimp only
    split
    · exact k.startRetrain.setLink
    · exact Keeps.ite (k.failAttempt.when fun k => k.setLink) (Keeps.ite k.setLink k)))

theorem Keeps.execPauseTimerExpiry {n : LinkId} (h : Keeps s₀ s) : KeepsNext s₀ (execPauseTimerExpiry n s) :=
  Keeps.next (Keeps.ite h.setLink h)

theorem Keeps.execAlignDone {n : LinkId} {lanesOk : BitVec 4} {orderOk : Bool} (h : Keeps s₀ s) :
    KeepsNext s₀ (execAlignDone n lanesOk orderOk s) :=
  Keeps.next (Keeps.ite (Keeps.ite h.setLink.sendTs h.failAttempt) h)

theorem Keeps.leaderTs2 {n : LinkId} {b : BitVec 128} {elapsed : Nat} {version : Byte} (h : Keeps s₀ s) :
    Keeps s₀ (leaderTs2 s n b elapsed version) := by
  unfold Machine.leaderTs2
  dsimp only
  split
  · split
    · exact h.failAttempt
    · exact h.setLink.sendTs.takeFresh
  · exact Keeps.ite (Keeps.ite h.setLink.sendTs h.failAttempt) h

theorem Keeps.followerTs2 {n : LinkId} {b : BitVec 128} {elapsed : Nat} (h : Keeps s₀ s) :
    Keeps s₀ (followerTs2 s n b elapsed) :=
  Keeps.ite (Keeps.ite h.failAttempt h.setLink.sendTs.setLink.sendTs) h

theorem Keeps.execTs2 {n : LinkId} {b : BitVec 128} {elapsedPs : Nat} (h : Keeps s₀ s) :
    KeepsNext s₀ (execTs2 n b elapsedPs s) := by
  refine Keeps.next (h.takeBlock fun v k => ?_)
  dsimp only
  split
  · exact k
  · split
    · exact k.setLink.failAttempt
    · split
      · exact k.setLink.failAttempt
      · exact k.setLink.failAttempt
      · exact .ite k.setLink.setLink.leaderTs2 k.setLink.setLink.followerTs2

theorem Keeps.execTs3 {n : LinkId} {b : BitVec 128} (h : Keeps s₀ s) : KeepsNext s₀ (execTs3 n b s) :=
  Keeps.next (h.takeBlock (fun _ k => k))

theorem Keeps.execVerifyComplete {n : LinkId} (h : Keeps s₀ s) : KeepsNext s₀ (execVerifyComplete n s) := by
  unfold Machine.execVerifyComplete
  dsimp only
  refine Keeps.next ?_
  split
  · exact Keeps.ite h.setLink.sendTs.setLink.startReplay.clearRetrain.settleDetour h
  · exact h

theorem Keeps.execTrainingRetryTimer {n : LinkId} (h : Keeps s₀ s) : KeepsNext s₀ (execTrainingRetryTimer n s) :=
  Keeps.next (Keeps.ite h.nextAttempt h)

theorem Keeps.execRetrainTimeout {n : LinkId} (h : Keeps s₀ s) : KeepsNext s₀ (execRetrainTimeout n s) :=
  Keeps.next (Keeps.ite h.failAttempt h)

theorem Keeps.execMalformedTrainingBlock {n : LinkId} {b : BitVec 128} (h : Keeps s₀ s) :
    KeepsNext s₀ (execMalformedTrainingBlock n b s) := by
  unfold Machine.execMalformedTrainingBlock
  refine Keeps.next ?_
  split
  · exact h.badBlock
  · exact h

theorem Keeps.execTsTest {n : LinkId} {lane : Fin 4} {b : BitVec 128} (h : Keeps s₀ s) :
    KeepsNext s₀ (execTsTest n lane b s) :=
  Keeps.next (Keeps.ite h.setLink.bumpLink h)

/-! ### Vector instructions -/

theorem Keeps.execVf {t : TileRef} {g : GroupId} {gd : Guard} {f : VFields} (h : Keeps s₀ s) :
    KeepsNext s₀ (execVf t g gd f s) :=
  Keeps.decoded (h.issueGroup (fun _ k => k.writeLanes))

theorem Keeps.execVi {t : TileRef} {g : GroupId} {gd : Guard} {f : VFields} (h : Keeps s₀ s) :
    KeepsNext s₀ (execVi t g gd f s) :=
  Keeps.decoded (h.issueGroup (fun _ k => k.writeLanes))

theorem Keeps.execVcvt {t : TileRef} {g : GroupId} {gd : Guard} {fn : BitVec 6} {d a : BitVec 5} (h : Keeps s₀ s) :
    KeepsNext s₀ (execVcvt t g gd fn d a s) :=
  Keeps.decoded (h.issueGroup (fun _ k => k.writeLanes))

theorem Keeps.execVcmp {t : TileRef} {g : GroupId} {gd : Guard} {f : VFields} (h : Keeps s₀ s) :
    KeepsNext s₀ (execVcmp t g gd f s) :=
  Keeps.decoded (h.issueGroup (fun _ k => k.writePred))

theorem Keeps.execVsumCanon {t : TileRef} {g : GroupId} {fn : BitVec 6} {d a : BitVec 5} (h : Keeps s₀ s) :
    KeepsNext s₀ (execVsumCanon t g fn d a s) :=
  Keeps.decoded (h.issueGroup (fun _ k => k.writeLanes))

theorem Keeps.specialFn {t : TileRef} {g : Nat} {gd : Guard} {d a : Nat} {f : Word → Word} (h : Keeps s₀ s) :
    Keeps s₀ (specialFn s t g gd d a f) :=
  h.issueGroup (fun _ k => k.writeLanes)

theorem Keeps.execVexp {t : TileRef} {g : GroupId} {gd : Guard} {d a : BitVec 5} (h : Keeps s₀ s) :
    KeepsNext s₀ (execVexp t g gd d a s) :=
  h.specialFn.decoded

theorem Keeps.execVlog {t : TileRef} {g : GroupId} {gd : Guard} {d a : BitVec 5} (h : Keeps s₀ s) :
    KeepsNext s₀ (execVlog t g gd d a s) :=
  h.specialFn.decoded

theorem Keeps.execVrsq {t : TileRef} {g : GroupId} {gd : Guard} {d a : BitVec 5} (h : Keeps s₀ s) :
    KeepsNext s₀ (execVrsq t g gd d a s) :=
  h.specialFn.decoded

end Sys2Proof.Machine
end

