-- ==== Sys2Proof/Proofs/TablesInForm.lean ====
section
/-! SUPPORT. Every command, and so every step, keeps the forms: O57. -/

namespace Sys2Proof.Machine

open Sys2Proof.SMap

variable {s₀ s u : State} {x x' : Tile} {y : Group}

/-! ### The commands together -/

theorem Keeps.exec {i : Instr} (h : Keeps s₀ s) : KeepsNext s₀ (exec i s) := by
  unfold Machine.exec
  split
  · exact h.execSalu
  · exact h.execScmp
  · exact h.execPred
  · exact h.execLd
  · exact h.execSt
  · exact h.execBr
  · exact h.execLoop
  · exact h.execNop
  · exact h.execMsEnd
  · exact h.execStop
  · exact h.execToll
  · exact h.execSendSlot
  · exact h.execRecvWait
  · exact h.execRngSeed
  · exact h.execCntSnap
  · exact h.execVf
  · exact h.execVi
  · exact h.execVcvt
  · exact h.execVcmp
  · exact h.execVsumCanon
  · exact h.execVexp
  · exact h.execVlog
  · exact h.execVrsq
  · exact h.execTld
  · exact h.execXclr
  · exact h.execXld
  · exact h.execXst
  · exact h.execMma
  · exact h.execRndExs
  · exact h.execXredPack
  · exact h.execXredAdd
  · exact h.execXredFsum
  · exact h.execXredFcomb
  · exact h.execChkRow
  · exact h.execChkCol
  · exact h.execChkCmp
  · exact h.execEngineStart
  · exact h.execEngineEnd
  · exact h.execDeparture
  · exact h.execSlotMissed
  · exact h.execLineArrival
  · exact h.execLdDataReturn
  · exact h.execStAck
  · exact h.execPartitionResetDone
  · exact h.execGroupSwapStart
  · exact h.execGroupSwapEnd
  · exact h.execPageSwapDone
  · exact h.execChipDone
  · exact h.execMilestoneBoundary
  · exact h.execWriteBackStart
  · exact h.execWriteBackDone
  · exact h.execDigestHashDone
  · exact h.execRoadworksContentDone
  · exact h.execJobStart
  · exact h.execRestartBoundary
  · exact h.execWaymark
  · exact h.execRelay
  · exact h.execStart
  · exact h.execHold
  · exact h.execRelease
  · exact h.execResume
  · exact h.execRippleTimeout
  · exact h.execHopUnitReceive
  · exact h.execHopSend
  · exact h.execCreditStarved
  · exact h.execFlitTransmit
  · exact h.execFlitReceive
  · exact h.execNakTimeout
  · exact h.execReplayTimeout
  · exact h.execLinkReplayAllowanceExpiry
  · exact h.execLossOfSignal
  · exact h.execSignalLock
  · exact h.execTs1
  · exact h.execTs2
  · exact h.execTs3
  · exact h.execTsTest
  · exact h.execPauseTimerExpiry
  · exact h.execAlignDone
  · exact h.execVerifyComplete
  · exact h.execTrainingRetryTimer
  · exact h.execRetrainTimeout
  · exact h.execOwnStretch
  · exact h.execSympatheticStretch
  · exact h.execCrossingAlert
  · exact h.execRealignment
  · exact h.execClockLoss
  · exact h.execPowerTick
  · exact h.execPowerSample
  · exact h.execPowerEstimate
  · exact h.execBrdThrotEdge
  · exact h.execPtpSync
  · exact h.execFollowUp
  · exact h.execDelayResp
  · exact h.execDelayReq
  · exact h.execPtpSyncInterval
  · exact h.execTimeWrap
  · exact h.execTmeOutPulse
  · exact h.execTmeInCapture
  · exact h.execScrub
  · exact h.execTick
  · exact h.execSealComplete
  · exact h.execSealFlashStoreDone
  · exact h.execRegisterWrite
  · exact h.execGenScratch
  · exact h.execJrnCtrlSeal
  · exact h.execJrnCtrlSealFlash
  · exact h.execJrnRetainHi
  · exact h.execTmeAdj
  · exact h.execTmeCtrlUnset
  · exact h.execTmeOutEn
  · exact h.execTopCoord
  · exact h.execTopShape
  · exact h.execLnkCtrlRetrain
  · exact h.execLnkCtrlTest
  · exact h.execLnkCtrlEnable
  · exact h.execLnkCtrlDiscard
  · exact h.execClkQdFreqDiv
  · exact h.execClkSscEn
  · exact h.execHostCtrlUnbind
  · exact h.execMgtCtrlFec
  · exact h.execBootCtrlReboot
  · exact h.execHello
  · exact h.execRegRead
  · exact h.execRegWrite
  · exact h.execLoad
  · exact h.execPatch
  · exact h.execCommit
  · exact h.execCommitJoin
  · exact h.execAbort
  · exact h.execUnload
  · exact h.execSeed
  · exact h.execTollgate
  · exact h.execRetraceCommand
  · exact h.execDetour
  · exact h.execSurvey
  · exact h.execSurveyFire
  · exact h.execShadowRead
  · exact h.execQpOpen
  · exact h.execQpClose
  · exact h.execJrnRead
  · exact h.execSealRead
  · exact h.execReportRead
  · exact h.execImgBegin
  · exact h.execImgData
  · exact h.execImgVerify
  · exact h.execImgStore
  · exact h.execImgStoreDone
  · exact h.execFlashRead
  · exact h.execIdKey
  · exact h.execAttest
  · exact h.execAttestDone
  · exact h.execAttestRead
  · exact h.execRdmaWrite
  · exact h.execRdmaRead
  · exact h.execArpRequest
  · exact h.execOperationBetweenChips
  · exact h.execForwardTimeout
  · exact h.execI3cPrivateWrite
  · exact h.execI3cPrivateReadRequest
  · exact h.execI3cPrivateRead
  · exact h.execEntdaa
  · exact h.execPorstAssert
  · exact h.execPorstRelease
  · exact h.execWrstAssert
  · exact h.execWrstRelease
  · exact h.execLpddrTrainingDone
  · exact h.execImageCheckDone
  · exact h.execBootReady
  · exact h.execSlewEnd
  · exact h.execPortLinkUp
  · exact h.execPortLinkDown
  · exact h.execDiscardedFrame
  · exact h.execBadFrame
  · exact h.execI3cOtherPrivateWrite
  · exact h.execMalformedTrainingBlock

/-! ### Arrivals -/

theorem Keeps.serveArrived (h : Keeps s₀ s) : KeepsNext s₀ (serveArrived s) := by
  unfold Machine.serveArrived
  split
  · exact h.next
  · exact KeepsNext.ite h.elsewhere.passFrame.next h.exec

theorem Keeps.quietStep (h : Keeps s₀ s) : KeepsNext s₀ (quietStep s) := by
  unfold Machine.quietStep
  split
  · next t ht => exact (h.serveArrived t ht).idle.next
  · exact h.serveArrived

/-! ### Steps -/

theorem Keeps.step (h : Keeps s₀ s) : KeepsNext s₀ (step s) := by
  unfold Machine.step
  split
  · exact h.elsewhere.exec
  · exact h.quietStep

end Sys2Proof.Machine
end

section

open Sys2Proof.Machine

/-- Settles O57: every command keeps the two forms (`Keeps.exec`), and a step is a command or an idle ns (`Keeps.step`). -/
theorem everyStepKeepsTheTablesInForm : Obligations.EveryStepKeepsTheTablesInForm := by
  intro s u h
  have k : Keeps s u := (Keeps.refl s).step u h
  exact ⟨k.keyed, k.canonical⟩

end

