-- ==== Sys2Proof/Proofs/RegisterWriteEnergy.lean ====
section
/-! SUPPORT. The energy that a WRITE record costs (R359): why O41 fails as it stands. -/

namespace Sys2Proof.Machine

/-- A device with a journal in which a 64-byte access of LPDDR5X (class 13) weighs 1 fJ (R359). -/
def weighted : State := setReg { State.reset with dev := .ready, jrn := { kept := true } } 0x400B4 1

/-- A write of SCRATCH is accepted, immediate and recorded. -/
theorem weighted_writesNow : Claims.WritesNow weighted 0x24 := by decide

/-- Its record is a line of LPDDR5X, whose access the hub counts. -/
theorem genScratch_weighted : ∃ v, exec (.genScratch .i3c 5) weighted = .next v ∧ v.pwr.hubFj = 1 := ⟨_, rfl, by rfl⟩

theorem hubFj_weighted : weighted.pwr.hubFj = 0 := rfl

end Sys2Proof.Machine
end

section

open Sys2Proof.Machine

/-- Refutes O41: GEN_SCRATCH on the device `weighted`. The claim of an immediate write ends with `u.pwr = s.pwr`, but its record is a
line of LPDDR5X (R51) that the hub counts as an event of class 13 (R359, `chargeHub` in `appendNow`), so that the energy of the hub grows
unless W_13, which the image gives at start-up, is 0. -/
theorem not_registerWritesAreRefusedStagedOrDone : ¬ Obligations.RegisterWritesAreRefusedStagedOrDone := by
  intro h
  obtain ⟨-, -, -, scratch, -⟩ := h weighted .i3c 0 5
  obtain ⟨u, hu, -, -, -, -, -, -, -, -, hpwr⟩ := scratch weighted_writesNow
  obtain ⟨v, hv, hfj⟩ := genScratch_weighted
  have huv : u = v := Host.Outcome.next.inj (hu.symm.trans hv)
  have : (1 : Nat) = 0 := by rw [← hfj, ← hubFj_weighted, ← huv, hpwr]
  exact absurd this (by decide)

end

