-- ==== Sys2Proof/Proofs/Entries.lean ====
section
/-! SUPPORT. Bytes that are a row of entries of one length, and how a row grows by an entry at its end. -/

namespace Sys2Proof.Machine

@[simp] theorem length_leBytes (n v : Nat) : (leBytes n v).length = n := by
  induction n generalizing v with
  | zero => rfl
  | succ n ih => simp [leBytes, ih]

theorem slice_append_left {l e : List Byte} {first count : Nat} (h : first + count ≤ l.length) :
    slice (l ++ e) first count = slice l first count := by
  refine List.map_congr_left fun i hi => ?_
  rw [List.getElem?_append_left (by have := List.mem_range.mp hi; omega)]

theorem slice_append_right (l e : List Byte) : slice (l ++ e) l.length e.length = e := by
  refine List.ext_getElem (by simp [slice]) fun i h1 h2 => ?_
  simp [slice, h2]

/-- `l` is a row of `n` entries of `k` bytes each, and entry i is `f i`. -/
structure Entries (k n : Nat) (f : Nat → List Byte) (l : List Byte) : Prop where
  length : l.length = k * n
  entry : ∀ i, i < n → slice l (k * i) k = f i

theorem Entries.nil {k : Nat} {f : Nat → List Byte} : Entries k 0 f [] := ⟨rfl, fun _ h => absurd h (Nat.not_lt_zero _)⟩

theorem Entries.snoc {k n : Nat} {f : Nat → List Byte} {l : List Byte} (h : Entries k n f l) (hf : (f n).length = k) :
    Entries k (n + 1) f (l ++ f n) := by
  refine ⟨by rw [List.length_append, h.length, hf, Nat.mul_succ], fun i hi => ?_⟩
  rcases Nat.lt_succ_iff_lt_or_eq.mp hi with hi | rfl
  · rw [slice_append_left, h.entry i hi]
    calc k * i + k = k * (i + 1) := (Nat.mul_succ k i).symm
      _ ≤ k * n := Nat.mul_le_mul_left k hi
      _ = l.length := h.length.symm
  · have := slice_append_right l (f i)
    rwa [h.length, hf] at this

theorem Entries.flatMap {k : Nat} {f : Nat → List Byte} (hf : ∀ i, (f i).length = k) (n : Nat) :
    Entries k n f ((List.range n).flatMap f) := by
  induction n with
  | zero => exact .nil
  | succ n ih =>
    have : (List.range (n + 1)).flatMap f = (List.range n).flatMap f ++ f n := by simp [List.range_succ]
    exact this ▸ ih.snoc (hf n)

end Sys2Proof.Machine
end

