-- ==== Sys2Proof/Proofs/Operations.lean ====
section
/-! SUPPORT. An operation that nothing refuses is carried out on the state in which its frame is taken and counted (R402 to R406). -/

namespace Sys2Proof.Machine

open Sys2Proof.Claims

/-- Taking a frame changes what has arrived and the paths of its completions, and nothing else. -/
theorem takeReq_frame (s : State) (r : Req) : takeReq s r = { s with ports := { s.ports with
    arrived := (takeReq s r).ports.arrived, paths := (takeReq s r).ports.paths } } := by
  unfold takeReq
  split
  · split <;> rfl
  · rfl

/-- Counting an operation and taking its frame leave all but a counter, what has arrived and the paths of completions. -/
theorem begun_frame (s : State) (r : Req) : begun s r = { s with cnt := (begun s r).cnt, ports := { s.ports with
    arrived := (begun s r).ports.arrived, paths := (begun s r).ports.paths } } := by
  unfold begun
  rw [countOp_frame, takeReq_frame]

theorem begun_epoch (s : State) (r : Req) : (begun s r).epoch = s.epoch := by rw [begun_frame]

theorem dispatched_takeReq (s : State) (r : Req) : dispatched (takeReq s r) r = dispatched s r := by rw [takeReq_frame]; rfl

theorem keptFor_takeReq (s : State) (r : Req) (op : Nat) : keptFor (takeReq s r) r op = keptFor s r op := by
  rw [takeReq_frame]; rfl

theorem awaitsTollgate_takeReq (s : State) (r : Req) : awaitsTollgate (takeReq s r) r = awaitsTollgate s r := by
  rw [takeReq_frame]; rfl

theorem refusal_takeReq (s : State) (r : Req) (op : Nat) : refusal (takeReq s r) r op = refusal s r op := by
  rw [takeReq_frame]; rfl

variable {α : Type} {s : State} {r : Req} {op : Nat} {parse : List Byte → Option α} {v : α} {f : α → State → Reply}

theorem serve_served (h : Served s r op) (hp : parse (reqBody r) = some v) :
    serve s r op parse f = finishOp (begun s r) r op (f v (begun s r)) := by
  obtain ⟨⟨-, hfor, hdisp, htoll⟩, hkept, href⟩ := h
  simp only [serve, accept, hfor, dispatched_takeReq, hdisp, keptFor_takeReq, hkept, awaitsTollgate_takeReq, htoll, refusal_takeReq,
    href, hp, Bool.not_true, Bool.false_eq_true, if_false]
  rfl

/-- The device was not reset: the operation completes. -/
theorem serve_completes (h : Served s r op) (hp : parse (reqBody r) = some v) (he : (f v (begun s r)).1.epoch = s.epoch) :
    serve s r op parse f = complete (f v (begun s r)).1 r op (f v (begun s r)).2.1 (f v (begun s r)).2.2 := by
  rw [serve_served h hp, finishOp, if_pos (he.trans (begun_epoch s r).symm)]

/-- The device was reset: nothing is sent. -/
theorem serve_reset (h : Served s r op) (hp : parse (reqBody r) = some v) (he : (f v (begun s r)).1.epoch ≠ s.epoch) :
    serve s r op parse f = (f v (begun s r)).1 := by
  rw [serve_served h hp, finishOp, if_neg (by rw [begun_epoch]; exact he)]

end Sys2Proof.Machine
end

