-- ==== Sys2Proof/Proofs/RegisterOperations.lean ====
section
/-! SUPPORT. What a register read leaves, and the words of REG_READ, REG_WRITE and SHADOW_READ one by one (R7, R407, R417, R428): O47. -/

namespace Sys2Proof.Machine

open Sys2Proof.Claims

variable {s u t : State} {src : Source}

/-! ### What a read changes -/

theorem putHolding_frame (s : State) (h : Holding) : OwedFrame s (putHolding s h) := by
  unfold putHolding
  dsimp only
  split
  · split
    · next old _ =>
      refine OwedFrame.trans (t := { s with holding := _ }) ⟨rfl⟩ ⟨?_⟩
      rw [(recordOwed_frame _ old).frame]
    · exact ⟨rfl⟩
  · exact ⟨rfl⟩

theorem touchHolding_frame (s : State) (src : Source) : OwedFrame s (touchHolding s src) := by
  unfold touchHolding
  split
  · exact putHolding_frame s _
  · exact ⟨rfl⟩

/-- No read reaches device memory or a tile, and none resets the device. -/
structure ReadFrame (s u : State) : Prop where
  epoch : u.epoch = s.epoch
  mem : u.mem = s.mem
  tiles : u.tiles = s.tiles

theorem ReadFrame.refl (s : State) : ReadFrame s s := ⟨rfl, rfl, rfl⟩

theorem ReadFrame.trans (h : ReadFrame s t) (k : ReadFrame t u) : ReadFrame s u :=
  ⟨k.epoch.trans h.epoch, k.mem.trans h.mem, k.tiles.trans h.tiles⟩

theorem OwedFrame.readFrame (h : OwedFrame s u) : ReadFrame s u := ⟨by rw [h.frame], by rw [h.frame], by rw [h.frame]⟩

theorem clearOnRead_frame (s : State) (a : Nat) : clearOnRead s a = { s with csr := (clearOnRead s a).csr } := by
  unfold clearOnRead
  split <;> rfl

theorem readAccess_frame (s : State) (src : Source) (addr : Word) : ReadFrame s (readAccess s src addr).1 := by
  unfold readAccess
  dsimp only
  split
  · exact .refl s
  · split
    · exact .refl s
    · split
      · exact (putHolding_frame s _).readFrame
      · exact (touchHolding_frame s src).readFrame
      · rw [clearOnRead_frame]
        exact ⟨rfl, rfl, rfl⟩

/-! ### Reads that drop no station -/

theorem getHolding_src (s : State) (src : Source) : (getHolding s src).src = accessSource src := by
  unfold getHolding
  cases h : s.holding.find? (fun h => h.src == accessSource src) with
  | none => rfl
  | some x => simpa using List.find?_some h

/-- With room for the source's holding registers, putting them drops nobody's. -/
theorem putHolding_of_keeps {h : Holding} (hk : KeepsStations s src) (hs : h.src = accessSource src) :
    putHolding s h = { s with holding := s.holding.filter (fun x => x.src != accessSource src) ++ [h] } := by
  have hstation : isStation h = isStation { src := accessSource src } := by simp only [isStation, hs]
  have hroom : ((s.holding.filter (fun x => x.src != h.src) ++ [h]).filter isStation).length ≤ 64 := by
    rw [hs, List.filter_append, List.length_append]
    refine Nat.le_trans (Nat.add_le_add_left ?_ _) hk
    rw [← hstation]
    cases hb : isStation h <;> simp [hb, flag]
  unfold putHolding
  dsimp only
  rw [if_neg (Nat.not_lt.mpr hroom), hs]

theorem keepsStations_putHolding {h : Holding} (hk : KeepsStations s src) (hs : h.src = accessSource src) :
    KeepsStations (putHolding s h) src := by
  have hown : [h].filter (fun x => x.src != accessSource src) = [] := by simp [hs]
  unfold KeepsStations at hk ⊢
  rw [putHolding_of_keeps hk hs]
  simpa only [List.filter_append, hown, List.append_nil, List.filter_filter, Bool.and_self] using hk

theorem keepsStations_of_few (src : Source) (h : (s.holding.filter isStation).length < 64) : KeepsStations s src := by
  have hsub : ((s.holding.filter (fun x => x.src != accessSource src)).filter isStation).length ≤ (s.holding.filter isStation).length :=
    (List.filter_sublist.filter isStation).length_le
  have hone : flag (isStation { src := accessSource src }) ≤ 1 := by
    cases isStation { src := accessSource src } <;> decide
  unfold KeepsStations
  omega

/-- `u` comes from `s` by reads of a source that drop no station: nothing is recorded, and there is room for the next one. -/
structure QuietReads (src : Source) (s u : State) : Prop where
  jrn : u.jrn = s.jrn
  sch : u.sch = s.sch
  room : KeepsStations u src

theorem QuietReads.trans (h : QuietReads src s t) (k : QuietReads src t u) : QuietReads src s u :=
  ⟨k.jrn.trans h.jrn, k.sch.trans h.sch, k.room⟩

theorem putHolding_quiet {h : Holding} (hk : KeepsStations s src) (hs : h.src = accessSource src) :
    QuietReads src s (putHolding s h) := by
  refine ⟨?_, ?_, keepsStations_putHolding hk hs⟩ <;> rw [putHolding_of_keeps hk hs]

theorem readAccess_quiet (hk : KeepsStations s src) (addr : Word) : QuietReads src s (readAccess s src addr).1 := by
  have hrefl : QuietReads src s s := ⟨rfl, rfl, hk⟩
  unfold readAccess
  dsimp only
  split
  · exact hrefl
  · split
    · exact hrefl
    · split
      · exact putHolding_quiet hk (getHolding_src s src)
      · unfold touchHolding
        split
        · next h hf => exact putHolding_quiet hk (by simpa using List.find?_some hf)
        · exact hrefl
      · rw [clearOnRead_frame]
        exact ⟨rfl, rfl, hk⟩

/-! ### REG_READ -/

/-- The entry of a word that was read (R407). -/
def readEntry (z : State × Nat × Word) : List Byte := leBytes 4 z.2.2.toNat ++ leBytes 2 z.2.1 ++ [0, 0]

theorem length_readEntry (z : State × Nat × Word) : (readEntry z).length = 8 := by simp [readEntry]

/-- The last of n + 1 words is read after the n before it. -/
theorem readWords_succ (src : Source) (n : Nat) (a : Word) (s : State) (l : List Byte) :
    readWords src (n + 1) a s l =
      let x := readWords src n a s l
      let z := readAccess x.1 src (a + BitVec.ofNat 32 (4 * n))
      (z.1, x.2 ++ readEntry z) := by
  induction n generalizing a s l with
  | zero => simp [readWords, readEntry]
  | succ n ih =>
    have ha : a + 4 + BitVec.ofNat 32 (4 * n) = a + BitVec.ofNat 32 (4 * (n + 1)) := by
      apply BitVec.eq_of_toNat_eq
      have h4 : (4 : Word).toNat = 4 := rfl
      simp only [BitVec.toNat_add, BitVec.toNat_ofNat, h4]
      omega
    rw [readWords, ih]
    simp only [ha, readWords]

theorem readWords_frame (src : Source) (n : Nat) (a : Word) (s : State) : ReadFrame s (readWords src n a s []).1 := by
  induction n with
  | zero => exact .refl s
  | succ n ih => rw [readWords_succ]; exact ih.trans (readAccess_frame _ src _)

theorem readWords_quiet (n : Nat) (a : Word) (hk : KeepsStations s src) : QuietReads src s (readWords src n a s []).1 := by
  induction n with
  | zero => exact ⟨rfl, rfl, hk⟩
  | succ n ih => rw [readWords_succ]; exact ih.trans (readAccess_quiet ih.room _)

theorem readWords_entries (src : Source) (n : Nat) (a : Word) (s : State) :
    Entries 8 n (fun i => readEntry (readAccess (readWords src i a s []).1 src (a + BitVec.ofNat 32 (4 * i))))
      (readWords src n a s []).2 := by
  induction n with
  | zero => exact .nil
  | succ n ih => rw [readWords_succ]; exact ih.snoc (length_readEntry _)

/-! ### REG_WRITE -/

/-- A word that reset the device is the last one carried out. -/
theorem writeWords_of_reset {l : List (Word × Word)} (m : List (Word × Word)) {b : List Byte}
    (h : (writeWords src l s b).1.epoch ≠ s.epoch) : writeWords src (l ++ m) s b = writeWords src l s b := by
  induction l generalizing s b with
  | nil => exact absurd rfl h
  | cons p l ih =>
    simp only [List.cons_append, writeWords] at h ⊢
    split
    · next he =>
      rw [if_pos he] at h
      exact ih (he ▸ h)
    · rfl

/-- While no word has reset the device, the next one is written after those before it. -/
theorem writeWords_snoc {l : List (Word × Word)} (p : Word × Word) {b : List Byte}
    (h : (writeWords src l s b).1.epoch = s.epoch) :
    writeWords src (l ++ [p]) s b =
      let x := writeWords src l s b
      let z := writeAccess x.1 src p.1 p.2
      (z.1, x.2 ++ leBytes 2 z.2) := by
  induction l generalizing s b with
  | nil => simp only [List.nil_append, writeWords, ite_self]
  | cons q l ih =>
    simp only [List.cons_append, writeWords] at h ⊢
    by_cases he : (writeAccess s src q.1 q.2).1.epoch = s.epoch
    · rw [if_pos he] at h ⊢
      rw [if_pos he]
      exact ih (h.trans he.symm)
    · rw [if_neg he] at h
      exact absurd h he

theorem writeWords_epoch_take {ps : List (Word × Word)} (h : (writeWords src ps s []).1.epoch = s.epoch) (i : Nat) :
    (writeWords src (ps.take i) s []).1.epoch = s.epoch := by
  refine Decidable.byContradiction fun hne => ?_
  have hall := writeWords_of_reset (ps.drop i) hne
  rw [List.take_append_drop] at hall
  exact hne (hall ▸ h)

/-- Where no word resets the device, one word more is one access more. -/
theorem writeWords_take_succ {ps : List (Word × Word)} (h : (writeWords src ps s []).1.epoch = s.epoch) {i : Nat} {p : Word × Word}
    (hp : ps[i]? = some p) :
    writeWords src (ps.take (i + 1)) s [] =
      let x := writeWords src (ps.take i) s []
      let z := writeAccess x.1 src p.1 p.2
      (z.1, x.2 ++ leBytes 2 z.2) := by
  have : ps.take (i + 1) = ps.take i ++ [p] := by rw [List.take_add_one, hp]; rfl
  rw [this, writeWords_snoc p (writeWords_epoch_take h i)]

/-- The status of word i, as REG_WRITE answers it (R407). -/
def writeStatus (src : Source) (ps : List (Word × Word)) (s : State) (i : Nat) : List Byte :=
  let p := (ps[i]?).getD (0, 0)
  leBytes 2 (writeAccess (writeWords src (ps.take i) s []).1 src p.1 p.2).2

theorem writeWords_entries {ps : List (Word × Word)} (h : (writeWords src ps s []).1.epoch = s.epoch) {n : Nat} (hn : n ≤ ps.length) :
    Entries 2 n (writeStatus src ps s) (writeWords src (ps.take n) s []).2 := by
  induction n with
  | zero => exact .nil
  | succ n ih =>
    have hp : ps[n]? = some ps[n] := List.getElem?_eq_getElem hn
    rw [writeWords_take_succ h hp]
    have hs : writeStatus src ps s n = leBytes 2 (writeAccess (writeWords src (ps.take n) s []).1 src ps[n].1 ps[n].2).2 := by
      simp only [writeStatus, hp, Option.getD_some]
    have hsnoc := (ih (Nat.le_of_succ_le hn)).snoc (by simp [writeStatus])
    rwa [hs] at hsnoc

/-! ### SHADOW_READ -/

theorem length_shadowEntry (s : State) (a : Word) : (shadowEntry s a).length = 8 := by
  unfold shadowEntry
  split <;> simp

theorem shadowEntry_low {a : Word} {base : Nat} (h : counterAt a.toNat = some (base, false)) :
    shadowEntry s a = leBytes 4 ((SMap.get {} s.shadowCnt base).n % 2 ^ 32) ++ [0, 0, 0, 0] := by
  simp [shadowEntry, h, cntLo, leBytes, stOk]

theorem shadowEntry_high {a : Word} {base : Nat} (h : counterAt a.toNat = some (base, true)) :
    shadowEntry s a = leBytes 4 (cntHi (SMap.get {} s.shadowCnt base)).toNat ++ [0, 0, 0, 0] := by
  simp [shadowEntry, h, leBytes, stOk]

theorem shadowEntry_none {a : Word} (h : counterAt a.toNat = none) : shadowEntry s a = [0, 0, 0, 0, 2, 0, 0, 0] := by
  simp [shadowEntry, h, leBytes, stNoRegister]

end Sys2Proof.Machine
end

