-- ==== Sys2Proof/Proofs/RegisterOperationsComplete.lean ====
section
/-! SUPPORT. What REG_READ, REG_WRITE, SHADOW_READ, SURVEY and SURVEY_FIRE answer and leave: O47. -/

namespace Sys2Proof.Machine

open Sys2Proof.Claims

variable {s : State} {r : Req}

theorem exec_regRead : exec (.regRead r) s = .next (serve s r 0x02 bodyRead fun v t =>
    let x := readWords r.sender v.2 v.1 t []; (x.1, stOk, x.2)) := rfl

theorem exec_regWrite : exec (.regWrite r) s = .next (serve s r 0x03 bodyWrite fun v t =>
    let x := writeWords r.sender v t []; (x.1, stOk, x.2)) := rfl

theorem exec_shadowRead : exec (.shadowRead r) s = .next (serve s r 0x29 bodyRead fun v t =>
    (t, stOk, (List.range v.2).flatMap fun i => shadowEntry t (v.1 + BitVec.ofNat 32 (4 * i)))) := rfl

theorem exec_survey : exec (.survey r) s = .next (serve s r 0x28 bodySurvey fun v => surveyOp v.1 v.2.1 v.2.2) := rfl

/-! ### The operations -/

/-- REG_READ: what its words change in all (R7, R417). -/
theorem regRead_answers {addr : Word} {n : Nat} (hb : bodyRead (reqBody r) = some (addr, n)) (h : Served s r 0x02) :
    Answers (.regRead r) s r 0x02 stOk (readWords r.sender n addr (begun s r) []).2 (fun m =>
      m = (readWords r.sender n addr (begun s r) []).1 ∧ m.mem = s.mem ∧ m.tiles = s.tiles ∧
      ((s.holding.filter isStation).length < 64 → m.jrn = s.jrn ∧ m.sch = s.sch)) := by
  have hf := readWords_frame r.sender n addr (begun s r)
  have hbegun := begun_frame s r
  refine ⟨_, ?_, rfl, ?_, ?_, fun hfew => ?_⟩
  · rw [exec_regRead, serve_completes h hb (hf.epoch.trans (begun_epoch s r))]
  · exact hf.mem.trans (by rw [hbegun])
  · exact hf.tiles.trans (by rw [hbegun])
  · have hk : KeepsStations (begun s r) r.sender := keepsStations_of_few _ (by rw [hbegun]; exact hfew)
    have hq := readWords_quiet n addr hk
    exact ⟨hq.jrn.trans (by rw [hbegun]), hq.sch.trans (by rw [hbegun])⟩

/-- REG_WRITE of words none of which resets the device. -/
theorem regWrite_answers {ps : List (Word × Word)} (hb : bodyWrite (reqBody r) = some ps) (h : Served s r 0x03)
    (he : (writeWords r.sender ps (begun s r) []).1.epoch = s.epoch) :
    exec (.regWrite r) s = .next (complete (writeWords r.sender ps (begun s r) []).1 r 0x03 stOk
      (writeWords r.sender ps (begun s r) []).2) := by
  rw [exec_regWrite, serve_completes h hb he]

/-- SHADOW_READ changes nothing, and answers an entry for each word. -/
theorem shadowRead_answers {addr : Word} {n : Nat} (hb : bodyRead (reqBody r) = some (addr, n)) (h : Served s r 0x29) :
    OnlyAnswers (.shadowRead r) s r 0x29 stOk
      ((List.range n).flatMap fun i => shadowEntry (begun s r) (addr + BitVec.ofNat 32 (4 * i))) := by
  unfold OnlyAnswers
  rw [exec_shadowRead, serve_completes h hb (begun_epoch s r)]

/-- SURVEY answers what `surveyOp` gives, and no survey resets the device. -/
theorem survey_answers {kind : Byte} {clear : Bool} {target : DWord} (hb : bodySurvey (reqBody r) = some (kind, clear, target))
    (h : Served s r 0x28) {m : State} {status : Nat} (ho : surveyOp kind clear target (begun s r) = (m, status, []))
    (he : m.epoch = s.epoch) : exec (.survey r) s = .next (complete m r 0x28 status []) := by
  rw [exec_survey, serve_completes h hb (by rw [ho]; exact he), ho]

/-- The kinds of a survey that reach `surveyOp` (R426). -/
theorem bodySurvey_kind {b : List Byte} {kind : Byte} {clear : Bool} {target : DWord}
    (h : bodySurvey b = some (kind, clear, target)) : kind = 1 ∨ kind = 2 ∨ kind = 3 := by
  simp only [bodySurvey, given] at h
  split at h
  · next hc =>
    obtain ⟨rfl, -⟩ := Prod.mk.inj (Option.some.inj h)
    simp only [Bool.and_eq_true, decide_eq_true_eq] at hc
    generalize (b[0]?).getD 0 = k at hc
    bv_omega
  · exact absurd h (by simp)

/-- A survey that is armed or disarmed (R426). -/
theorem survey_sets {kind : Byte} {clear : Bool} {target : DWord} {v : Option (Byte × Bool × DWord)}
    (hb : bodySurvey (reqBody r) = some (kind, clear, target)) (h : Served s r 0x28)
    (ho : surveyOp kind clear target (begun s r) = (setSurvey (begun s r) v, stOk, [])) :
    Answers (.survey r) s r 0x28 stOk [] (fun m => m.ports.survey = v ∧ m.ports.surveyDone = false ∧
      m = { s with cnt := m.cnt, ports := m.ports }) := by
  refine ⟨_, survey_answers hb h ho (begun_epoch s r), rfl, rfl, ?_⟩
  unfold setSurvey
  rw [begun_frame]

/-- A survey that is refused changes nothing. -/
theorem survey_refused {kind : Byte} {clear : Bool} {target : DWord} {status : Nat}
    (hb : bodySurvey (reqBody r) = some (kind, clear, target)) (h : Served s r 0x28)
    (ho : surveyOp kind clear target (begun s r) = (begun s r, status, [])) : OnlyAnswers (.survey r) s r 0x28 status [] :=
  survey_answers hb h ho (begun_epoch s r)

theorem begun_survey (s : State) (r : Req) : (begun s r).ports.survey = s.ports.survey := by rw [begun_frame]

theorem begun_sch (s : State) (r : Req) : (begun s r).sch = s.sch := by rw [begun_frame]

theorem begun_shadowCnt (s : State) (r : Req) : (begun s r).shadowCnt = s.shadowCnt := by rw [begun_frame]

theorem begun_isCommitted (s : State) (r : Req) : isCommitted (begun s r) = isCommitted s := by
  simp only [isCommitted, begun_sch]

/-! ### What SURVEY does (R426) -/

section

variable {t : State} {clear : Bool} {target : DWord}

theorem surveyOp_milestone (hn : t.ports.survey = none) (hc : isCommitted t = true) (hj : t.sch.jobMs < target.toNat) :
    surveyOp 1 clear target t = (setSurvey t (some (1, clear, target)), stOk, []) := by
  simp [surveyOp, hn, hc, Nat.not_le.mpr hj]

theorem surveyOp_late (hn : t.ports.survey = none) (hc : isCommitted t = true) (hj : target.toNat ≤ t.sch.jobMs) :
    surveyOp 1 clear target t = (t, stTooLate, []) := by
  simp [surveyOp, hn, hc, hj]

theorem surveyOp_time (hn : t.ports.survey = none) :
    surveyOp 2 clear target t = (setSurvey t (some (2, clear, target)), stOk, []) := by
  simp [surveyOp, hn]

theorem surveyOp_disarm (hn : t.ports.survey ≠ none) : surveyOp 3 clear target t = (setSurvey t none, stOk, []) := by
  simp [surveyOp, Option.isSome_iff_ne_none.mpr hn]

theorem surveyOp_armed {kind : Byte} (hn : t.ports.survey ≠ none) (hk : kind = 1 ∨ kind = 2) :
    surveyOp kind clear target t = (t, stBadState, []) := by
  have harmed := Option.isSome_iff_ne_none.mpr hn
  rcases hk with rfl | rfl
  · simp [surveyOp, harmed]
  · simp [surveyOp, harmed]

theorem surveyOp_unarmed {kind : Byte} (hn : t.ports.survey = none) (hk : kind = 3 ∨ kind = 1 ∧ isCommitted t = false) :
    surveyOp kind clear target t = (t, stBadState, []) := by
  rcases hk with rfl | ⟨rfl, hc⟩
  · simp [surveyOp, hn]
  · simp [surveyOp, hn, hc]

end

/-- The moment of a survey that fires, in its registers (R427). -/
theorem fireSurvey_moment (hk : s.keyed = true) (clear atEnd : Bool) :
    getReg (fireSurvey s clear atEnd) 0x90038 = localTime s ∧
    getReg (fireSurvey s clear atEnd) 0x90028 = BitVec.ofNat 32 s.sch.milestone ∧
    getReg (fireSurvey s clear atEnd) 0x90030 = BitVec.ofNat 32 s.sch.jobMs := by
  have hset : ∀ (t : State) (a : Nat) (v : Word), SMap.rising t.csr = true → SMap.rising (setReg t a v).csr = true :=
    fun t a v => SMap.rising_set _ _ _ _
  have hs : SMap.rising s.csr = true := keyed_csr hk
  refine ⟨?_, ?_, ?_⟩
  · exact getReg_setReg _ _ _ (hset _ _ _ (hset _ _ _ (hset _ _ _ (hset _ _ _ hs))))
  · refine ((getReg_setReg_ne _ _ _ _ (by decide)).trans <| (getReg_setReg_ne _ _ _ _ (by decide)).trans <|
      (getReg_setReg_ne _ _ _ _ (by decide)).trans <| (getReg_setReg_ne _ _ _ _ (by decide)).trans <| getReg_setReg _ _ _ hs)
  · refine ((getReg_setReg_ne _ _ _ _ (by decide)).trans <| (getReg_setReg_ne _ _ _ _ (by decide)).trans <|
      getReg_setReg _ _ _ (hset _ _ _ (hset _ _ _ hs)))

/-- A survey that fires leaves all but the counters, their copy, its registers and its own state. -/
theorem fireSurvey_frame (s : State) (clear atEnd : Bool) : fireSurvey s clear atEnd = { s with
    csr := (fireSurvey s clear atEnd).csr, shadowCnt := s.cnt, cnt := if clear then [] else s.cnt
    ports := { s.ports with
      survey := none, surveyDone := true, atEnd := atEnd, cleared := clear, surveySeq := s.ports.surveySeq + 1 } } := by
  simp only [fireSurvey, setReg]

theorem surveyFire_due {clear : Bool} {target : DWord} (hv : s.ports.survey = some (2, clear, target))
    (ht : reached s (half target false) = true) : exec .surveyFire s = .next (fireSurvey s clear false) := by
  change Host.Outcome.next _ = _
  rw [hv]
  simp [ht]

end Sys2Proof.Machine
end

section

open Sys2Proof Sys2Proof.Machine Sys2Proof.Claims

/-- Settles O47: the words of an operation one by one (`readWords_entries`, `writeWords_entries`, `Entries.flatMap`), over the state in
which it is carried out (`serve_completes`, `serve_reset`). -/
theorem registerOperationsComplete : Obligations.RegisterOperationsComplete := by
  intro s r t
  refine ⟨fun addr n hb h => ?_, fun ps hb h => ?_, fun addr n hb h => ?_, fun kind clear target hb h => ?_,
    fun clear target hk hv ht => ?_⟩
  · have entries := readWords_entries r.sender n addr t
    refine ⟨_, entries.length, fun i hi => ⟨entries.entry i hi, ?_⟩, rfl, regRead_answers hb h⟩
    exact congrArg Prod.fst (readWords_succ r.sender i addr t [])
  · have hall : ps.take ps.length = ps := List.take_length
    simp only [hall]
    refine ⟨fun he => ?_, fun hne => ?_⟩
    · have he' := he.trans (begun_epoch s r).symm
      have entries := writeWords_entries he' (Nat.le_refl _)
      rw [hall] at entries
      refine ⟨_, entries.length, fun i p hp => ⟨?_, ?_⟩, rfl, _, regWrite_answers hb h he, rfl⟩
      · rw [entries.entry i (List.getElem?_eq_some_iff.mp hp).1, writeStatus, hp]
        rfl
      · rw [writeWords_take_succ he' hp]
    · rw [exec_regWrite, serve_reset h hb hne]
  · have entries := Entries.flatMap (fun i => length_shadowEntry t (addr + BitVec.ofNat 32 (4 * i))) n
    refine ⟨_, entries.length, shadowRead_answers hb h, fun i hi => ?_⟩
    rw [entries.entry i hi, ← begun_shadowCnt s r]
    exact ⟨fun base => shadowEntry_low, fun base => shadowEntry_high, shadowEntry_none⟩
  · have hsurvey := begun_survey s r
    have hsch := begun_sch s r
    have hcommitted := begun_isCommitted s r
    refine ⟨fun hn hk hc hj => ?_, fun hn hk hc hj => ?_, fun hn hk => ?_, fun hn hk => ?_, fun hno => ?_⟩
    · subst hk
      exact survey_sets hb h (surveyOp_milestone (hsurvey.trans hn) (hcommitted.trans hc) (hsch ▸ hj))
    · subst hk
      exact survey_refused hb h (surveyOp_late (hsurvey.trans hn) (hcommitted.trans hc) (hsch ▸ hj))
    · subst hk
      exact survey_sets hb h (surveyOp_time (hsurvey.trans hn))
    · subst hk
      obtain ⟨m, hm, hv, -, hframe⟩ := survey_sets hb h (surveyOp_disarm (hsurvey ▸ hn))
      exact ⟨m, hm, hv, hframe⟩
    · rcases hno with ⟨hn, hk3⟩ | ⟨hn, hk⟩
      · have hkind : kind = 1 ∨ kind = 2 := by
          rcases bodySurvey_kind hb with rfl | rfl | rfl
          · exact .inl rfl
          · exact .inr rfl
          · exact absurd rfl hk3
        exact survey_refused hb h (surveyOp_armed (hsurvey ▸ hn) hkind)
      · exact survey_refused hb h (surveyOp_unarmed (hsurvey.trans hn) (hcommitted ▸ hk))
  · obtain ⟨htime, hms, hjob⟩ := fireSurvey_moment hk clear false
    have hframe := fireSurvey_frame s clear false
    exact ⟨_, surveyFire_due hv ht, by rw [hframe], by rw [hframe], by rw [hframe], by rw [hframe], by rw [hframe], htime, hms, hjob,
      by rw [hframe], by rw [hframe], by rw [hframe]⟩

end
